-- ==== Sys2Proof/Word.lean ====
section
/-! DEFINITION. The word types of the Z40 (00:R6, 09:R208): bytes, 32-bit registers, 64-bit values. -/

namespace Sys2Proof

/-- One byte of memory. -/
abbrev Byte := BitVec 8
/-- One 32-bit register or instruction word (R208, R238). -/
abbrev Word := BitVec 32
/-- One 64-bit value: an address, a register pair, a stamp (R10, R153, R208). -/
abbrev DWord := BitVec 64

end Sys2Proof
end

