-- ==== Sys2Proof/Config.lean ====
section
/-! DEFINITION. What one package's configuration fixes and the values the manual leaves open. A constant without a body
is free: no proof sees its value (notes/assumptions/7.md and 9.md to 12.md). -/

namespace Sys2Proof.Config

/-- Toll entries 0 to 17 of OP8 in sixteenths of a picojoule (R424). -/
def tollOp8 : List Nat :=
  [0x0050, 0x0040, 0x0078, 0x0060, 0x0070, 0x01E0, 0x0140, 0x0078, 0x0020, 0x00A0, 0x00E0, 0x0550, 0x0E60,
   0x41A0, 0x12C0, 0x03C0, 0x0080, 0x0140]

/-- The other operating points' tables come from the signed configuration record in force (R423, R501), log 9, DESIGN CHOICE. -/
opaque recordToll : List (BitVec 8) → Nat → Nat → BitVec 16

/-- Toll entry `e` at operating point `o` under a configuration record (R423): OP8's table is the one R424 states. Entries 18 to 31
read zero. -/
def toll (record : List (BitVec 8)) (o e : Nat) : Nat :=
  if 18 ≤ e then 0 else if o = 8 then tollOp8.getD e 0 else (recordToll record o e).toNat

/-- Leakage of an operating point in pJ per µs (R433), from the configuration record. -/
opaque leak : List (BitVec 8) → Nat → BitVec 32

/-- Energy in pJ that a partition's sensor and the package's have measured over a correction window (R432) or a 100 µs interval
(R434): by the count of such measurements (log 19, DESIGN CHOICE). -/
opaque partEnergy : Nat → Nat → BitVec 64
opaque pkgEnergy : Nat → BitVec 64

/-- What the supervisor does with a record of a class for which the context names a handler (R458): 0 runs it, 1 ends the context, any
other leaves the gang to a debugger; by the record's words and a count (log 182, DESIGN CHOICE). -/
opaque supervisor : List Nat → Nat → Nat

/-- The packages of a cap domain (R447), log 159, DEDUCED. -/
opaque capMembers : Nat → List Nat

/-- Standing uncore power in W (R432), from the configuration record. -/
opaque uncoreBase : List (BitVec 8) → BitVec 16

/-- Revision of the chip (R392), from the configuration record. -/
opaque revision : List (BitVec 8) → BitVec 8

/-- The pick among the values an error bound of R297 or R309 admits, a fixed function of the function code and the
input (R298), log 7, DESIGN CHOICE. -/
opaque sfuPick : Nat → Nat → Nat

/-- A byte of another package's memory as a fabric home returns it: package, physical address, and the count of such reads
(log 13, DESIGN CHOICE). -/
opaque farByte : Nat → Nat → Nat → BitVec 8

/-- AES-256-GCM on a port (R115, R117, R120; log 10, DESIGN CHOICE): the salt of a session; a byte of the ciphertext and the tag of a
slot, under the keys of a port's session and key epoch, by nonce, header and payload; whether the tag of a received slot
verifies, by nonce and slot. -/
opaque salt : Nat → Nat → BitVec 32
opaque sealedByte : Nat → Nat → Nat → List (BitVec 8) → List (BitVec 8) → List (BitVec 8) → Nat → BitVec 8
opaque slotTagOk : Nat → Nat → Nat → List (BitVec 8) → List (BitVec 8) → Bool

/-- The stamp of a message of another package whose event carries none (R155; log 139, DESIGN CHOICE), by a count. -/
opaque arrivalStamp : Nat → BitVec 64

/-- Bytes of the payload in which a port packs the messages of a slot (R103): port, SEQ and place. The manual gives their
sizes, not their layout (log 10, DESIGN CHOICE). -/
opaque payloadByte : Nat → Nat → Nat → BitVec 8

/-- The member packages of a domain (R176), which the manual does not place in a register (log 18, DESIGN CHOICE). -/
opaque members : Nat → List Nat

/-- The report of another member of a domain that has come since this package last cast a minimum, if one has (R176): domain,
package and the count of casts (log 18, DESIGN CHOICE). -/
opaque farReport : Nat → Nat → Nat → Option (BitVec 64)

/-- Boot (R500, R501), log 10, DESIGN CHOICE: whether the images of a flash slot verify, the security version of an image, whether a
configuration record verifies, and the fields of a record that the model reads: PKGID and the identities of its eight stacks. -/
opaque imageOk : List (BitVec 8) → Bool
opaque svnOf : List (BitVec 8) → Nat
opaque recordOk : List (BitVec 8) → Bool
opaque pkgIdOf : List (BitVec 8) → BitVec 10
opaque stackOf : List (BitVec 8) → Nat → BitVec 64

/-- Requests and responses of the control ports whose bytes the manual does not lay out (log 10, DESIGN CHOICE, log 20, DESIGN CHOICE): the size of a meter
reading's request and the function, CTXID and nonce it names; a status response made of recovery mode, active slot, security
versions, minimum, GSEQ and boot epoch; the bytes of a signature; the answer to an SPDM request, by what is measured and a count. -/
opaque readingSize : BitVec 12
opaque readingFn : List (BitVec 8) → BitVec 8
opaque readingCtx : List (BitVec 8) → BitVec 12
opaque readingNonce : List (BitVec 8) → BitVec 64
opaque statusImage : List Nat → List (BitVec 8)
opaque signature : List (BitVec 8) → Nat → BitVec 8
opaque spdmAnswer : List (BitVec 8) → List (List (BitVec 8)) → Nat → List (BitVec 8)

/-- The translator (R505), log 11, DESIGN CHOICE: the SHA-512 hash of a section; and SECT of a kernel descriptor (R255), by kernel, which the code object
around the section fixes. -/
opaque sha512 : List (BitVec 8) → BitVec 512
opaque sectionIndex : Nat → BitVec 32

/-- Bytes of a save area from byte 5 on (log 12, DESIGN CHOICE): the manual gives the records' contents and sizes, not their places. -/
opaque saveImage : Nat → Nat → BitVec 8

end Sys2Proof.Config
end

