-- ==== Sys2Proof/Syntax.lean ====
section
/-! DEFINITION. The terms of the steps of the Z40: the fields of an instruction word (10:R238-R243, 08:R204), and
one constructor of Instr for every row of the operation table: 194 instructions (10:R248) and 166 events
(spec/95_what_each_step_holds.md). An event's arguments name the unit it happens in and what comes from outside. -/

namespace Sys2Proof

/-- A permutation field of the extension word (R204): the pattern and its parameter. -/
inductive Perm where
  | ident
  | rot (k : BitVec 5)
  | bc (j : BitVec 5)
  | xor (m : BitVec 5)
  | mir (k : BitVec 5)
  | idx (i : BitVec 2) (o : BitVec 3)
  deriving DecidableEq, Repr

/-- The guard of the extension word (R241, R243). -/
structure Guard where
  en : Bool
  neg : Bool
  pred : BitVec 3
  deriving DecidableEq, Repr

/-- The fields of an instruction's base and extension words (R238, R241). `x` says that an extension word
is present; without one the guard, the permutations and `aux` are those of an extension word of zero. In the
S form `vs1` holds imm7. -/
structure Fields where
  x : Bool
  guard : Guard
  perm0 : Perm
  perm1 : Perm
  aux : BitVec 11
  vd : BitVec 7
  vs0 : BitVec 7
  vs1 : BitVec 7
  deriving DecidableEq, Repr

/-- The two control ports (R495). -/
inductive Port where
  | host
  | oob
  deriving DecidableEq, Repr

/-- The meter blocks a window shows (R427, R428): a context's through METER_SEL, a function's, a partition's,
the package's. -/
inductive MeterName where
  | context
  | function (f : Nat)
  | partition (p : Nat)
  | package
  deriving DecidableEq, Repr

/-- Where a soft error arises (R80, R92, R93): addresses count 4-byte words of a bank, rows and columns of the
accumulator store, or 128-byte lines. -/
inductive ErrorPlace where
  | scratchWord (c bank word : Nat)
  | fifoWord (c bank word : Nat)
  | accWord (c row col : Nat)
  | l1Line (c line : Nat)
  | constLine (c line : Nat)
  | instrLine (c line : Nat)
  | sliceHalf (slice line half : Nat)
  | hbmHalf (line half : Nat)
  deriving DecidableEq, Repr

/-- What a request from another package asks of this package's memory (R101, R106). A write carries the bytes of its span and a mask of
them, bit i for byte i (R103); a view's read carries the attribute CG of its page (R173). -/
inductive RemoteOp where
  | read (bytes : Nat)
  | write (data : List (BitVec 8)) (mask : Nat)
  | atomic (op : Nat) (wide sgn : Bool) (value : BitVec 64)
  | cas (wide : Bool) (new cmp : BitVec 64)
  | view (bytes : Nat) (snap : BitVec 64) (cg : Bool)
  | stcsg (csgid mrec midx : Nat) (data : List (BitVec 8)) (mask : Nat)
  deriving DecidableEq, Repr

/-- A request of another package (R101, R105, R155): who asks, its tag, its domain, its stamp and the address. -/
structure RemoteReq where
  src : Nat
  tag : Nat
  dom : Nat
  stamp : BitVec 64
  pa : Nat
  op : RemoteOp
  deriving DecidableEq, Repr

/-- The steps of the Z40: its instructions and its events. -/
inductive Instr where
  /-- add (R262): major 0x01, minor 0, form R. Adds a and b, wrapped or saturated. -/
  | add (w : Fields)
  /-- sub (R262): major 0x01, minor 1, form R. Subtracts b from a, wrapped or saturated. -/
  | sub (w : Fields)
  /-- addc (R263): major 0x01, minor 2, form R. Adds with a carry-in predicate and writes a carry-out predicate. -/
  | addc (w : Fields)
  /-- subc (R263): major 0x01, minor 3, form R. Subtracts with a borrow-in predicate and writes a borrow-out predicate. -/
  | subc (w : Fields)
  /-- neg (R262): major 0x01, minor 4, form R. Negates a, wrapped or saturated. -/
  | neg (w : Fields)
  /-- abs (R262): major 0x01, minor 5, form R. Writes the absolute value of a. -/
  | abs (w : Fields)
  /-- min (R262): major 0x01, minor 6, form R. Writes the lesser of a and b by signedness. -/
  | min (w : Fields)
  /-- max (R262): major 0x01, minor 7, form R. Writes the greater of a and b by signedness. -/
  | max (w : Fields)
  /-- mul (R262): major 0x01, minor 8, form R. Multiplies a and b, wrapped or saturated. -/
  | mul (w : Fields)
  /-- mulhi (R262): major 0x01, minor 9, form R. Writes the high half of the exact product. -/
  | mulhi (w : Fields)
  /-- mulw (R262): major 0x01, minor 10, form R. Writes the exact double-width product. -/
  | mulw (w : Fields)
  /-- mad (R262): major 0x01, minor 11, form R. Computes a times b plus c exactly, then wraps or saturates. -/
  | mad (w : Fields)
  /-- madhi (R262): major 0x01, minor 12, form R. Adds c to the high half of a times b. -/
  | madhi (w : Fields)
  /-- sad (R262): major 0x01, minor 13, form R. Adds the absolute difference of a and b to c. -/
  | sad (w : Fields)
  /-- avg (R262): major 0x01, minor 14, form R. Writes the rounded-up average of a and b. -/
  | avg (w : Fields)
  /-- clamp (R262): major 0x01, minor 15, form R. Clamps a between b and c. -/
  | clamp (w : Fields)
  /-- and (R264): major 0x02, minor 0, form R. Bitwise AND of a and b. -/
  | and (w : Fields)
  /-- or (R264): major 0x02, minor 1, form R. Bitwise OR of a and b. -/
  | or (w : Fields)
  /-- xor (R264): major 0x02, minor 2, form R. Bitwise XOR of a and b. -/
  | xor (w : Fields)
  /-- andn (R264): major 0x02, minor 3, form R. Bitwise a AND NOT b. -/
  | andn (w : Fields)
  /-- not (R264): major 0x02, minor 4, form R. Bitwise NOT of a. -/
  | not (w : Fields)
  /-- lop3 (R265): major 0x02, minor 5, form R. Folds a and b into old vd through a three-input truth table. -/
  | lop3 (w : Fields)
  /-- shl (R264): major 0x02, minor 6, form R. Shifts a left by b. -/
  | shl (w : Fields)
  /-- shr (R264): major 0x02, minor 7, form R. Shifts a right by b with zero fill. -/
  | shr (w : Fields)
  /-- sar (R264): major 0x02, minor 8, form R. Shifts a right by b with sign fill. -/
  | sar (w : Fields)
  /-- rotl (R264): major 0x02, minor 9, form R. Rotates a left. -/
  | rotl (w : Fields)
  /-- rotr (R264): major 0x02, minor 10, form R. Rotates a right. -/
  | rotr (w : Fields)
  /-- shf (R266): major 0x02, minor 11, form R. Funnel-shifts the pair b:a. -/
  | shf (w : Fields)
  /-- bfe (R267): major 0x02, minor 12, form R. Extracts a bit field of a. -/
  | bfe (w : Fields)
  /-- bfi (R267): major 0x02, minor 13, form R. Inserts a bit field of a into vd. -/
  | bfi (w : Fields)
  /-- brev (R264): major 0x02, minor 14, form R. Reverses the bits of a. -/
  | brev (w : Fields)
  /-- popc (R264): major 0x02, minor 15, form R. Counts the set bits of a. -/
  | popc (w : Fields)
  /-- clz (R268): major 0x03, minor 0, form R. Counts leading zero bits of a. -/
  | clz (w : Fields)
  /-- ffs (R268): major 0x03, minor 1, form R. Finds the lowest set bit of a. -/
  | ffs (w : Fields)
  /-- div (R269): major 0x03, minor 2, form R. Integer division rounding toward zero with fixed results for zero and overflow. -/
  | div (w : Fields)
  /-- rem (R269): major 0x03, minor 3, form R. Integer remainder with the sign of a. -/
  | rem (w : Fields)
  /-- ext (R268): major 0x03, minor 4, form S. Extends the low n bits of a. -/
  | ext (w : Fields)
  /-- sat (R268): major 0x03, minor 5, form S. Clamps a to an n-bit range. -/
  | sat (w : Fields)
  /-- pack (R270): major 0x03, minor 6, form R. Narrows two operands into one register. -/
  | pack (w : Fields)
  /-- unpack (R270): major 0x03, minor 7, form R. Widens a half or bytes of a. -/
  | unpack (w : Fields)
  /-- mov (R268): major 0x03, minor 8, form R. Moves a, possibly through a lane permutation. -/
  | mov (w : Fields)
  /-- movl (R268): major 0x03, minor 9, form L. Moves a 32-bit literal into vd. -/
  | movl (w : Fields) (lit : BitVec 32)
  /-- sel (R271): major 0x03, minor 10, form R. Selects a or b by a predicate. -/
  | sel (w : Fields)
  /-- sreg (R273): major 0x03, minor 11, form S. Reads a special register. -/
  | sreg (w : Fields)
  /-- lea (R272): major 0x03, minor 12, form S. Forms a 64-bit address from base, scaled index and offset. -/
  | lea (w : Fields)
  /-- wadd (R268): major 0x03, minor 13, form R. Adds an extended 32-bit value to a 64-bit pair. -/
  | wadd (w : Fields)
  /-- xset (R274): major 0x04, minor 0, form L. Writes an index register from a literal. -/
  | xset (w : Fields) (lit : BitVec 32)
  /-- xmov (R275): major 0x04, minor 1, form R. Writes a into the register an index window names. -/
  | xmov (w : Fields)
  /-- xadd (R274): major 0x04, minor 2, form S. Adds an immediate to an index register's IDX. -/
  | xadd (w : Fields)
  /-- xget (R274): major 0x04, minor 3, form R. Reads an index register into vd. -/
  | xget (w : Fields)
  /-- icmp (R276): major 0x05, minor 0, form R. Compares integers into a predicate. -/
  | icmp (w : Fields)
  /-- icmpc (R276): major 0x05, minor 1, form R. Compares integers and combines with a predicate. -/
  | icmpc (w : Fields)
  /-- pand (R276): major 0x05, minor 2, form R. ANDs two predicates. -/
  | pand (w : Fields)
  /-- por (R276): major 0x05, minor 3, form R. ORs two predicates. -/
  | por (w : Fields)
  /-- pxor (R276): major 0x05, minor 4, form R. XORs two predicates. -/
  | pxor (w : Fields)
  /-- pnot (R276): major 0x05, minor 5, form R. Inverts a predicate. -/
  | pnot (w : Fields)
  /-- pset (R276): major 0x05, minor 6, form S. Sets a predicate from bit j of a. -/
  | pset (w : Fields)
  /-- pget (R276): major 0x05, minor 7, form R. Writes the predicates into vd. -/
  | pget (w : Fields)
  /-- fadd (R280): major 0x10, minor 0, form R. Floating-point add rounded once. -/
  | fadd (w : Fields)
  /-- fsub (R280): major 0x10, minor 1, form R. Floating-point subtract rounded once. -/
  | fsub (w : Fields)
  /-- fmul (R280): major 0x10, minor 2, form R. Floating-point multiply rounded once. -/
  | fmul (w : Fields)
  /-- fma (R280): major 0x10, minor 3, form R. Fused multiply-add rounded once. -/
  | fma (w : Fields)
  /-- fms (R280): major 0x10, minor 4, form R. Fused multiply-subtract rounded once. -/
  | fms (w : Fields)
  /-- fnma (R280): major 0x10, minor 5, form R. Negated fused multiply-add rounded once. -/
  | fnma (w : Fields)
  /-- fmin (R281): major 0x10, minor 6, form R. Floating-point minimum. -/
  | fmin (w : Fields)
  /-- fmax (R281): major 0x10, minor 7, form R. Floating-point maximum. -/
  | fmax (w : Fields)
  /-- fabs (R281): major 0x10, minor 8, form R. Clears sign bits. -/
  | fabs (w : Fields)
  /-- fneg (R281): major 0x10, minor 9, form R. Inverts sign bits. -/
  | fneg (w : Fields)
  /-- fclamp (R281): major 0x10, minor 10, form R. Floating-point clamp. -/
  | fclamp (w : Fields)
  /-- fdot2 (R282): major 0x10, minor 11, form R. Two-element 16-bit dot product into FP32. -/
  | fdot2 (w : Fields)
  /-- fdot4 (R282): major 0x10, minor 12, form R. Four-element FP8 dot product into FP32. -/
  | fdot4 (w : Fields)
  /-- fcmp (R283): major 0x10, minor 13, form R. Floating-point compare into a predicate. -/
  | fcmp (w : Fields)
  /-- fclass (R284): major 0x10, minor 14, form S. Writes a one-hot class mask of a. -/
  | fclass (w : Fields)
  /-- fmode (R285): major 0x10, minor 15, form L. Sets, clears or reads FPMODE and FPFLAGS. -/
  | fmode (w : Fields) (lit : BitVec 32)
  /-- cvtf (R287): major 0x11, minor 0, form R. Converts between floating formats. -/
  | cvtf (w : Fields)
  /-- cvtfi (R288): major 0x11, minor 1, form R. Converts floating point to integer. -/
  | cvtfi (w : Fields)
  /-- cvtif (R288): major 0x11, minor 2, form R. Converts integer to floating point. -/
  | cvtif (w : Fields)
  /-- frnd (R289): major 0x11, minor 3, form R. Rounds to an integral value. -/
  | frnd (w : Fields)
  /-- fpack2 (R290): major 0x11, minor 4, form R. Packs two FP32 values into a 16-bit pair. -/
  | fpack2 (w : Fields)
  /-- funpack2 (R290): major 0x11, minor 5, form R. Widens a 16-bit pair to two FP32 values. -/
  | funpack2 (w : Fields)
  /-- qscale (R291): major 0x11, minor 6, form R. Derives an E8M0 scale from an amax. -/
  | qscale (w : Fields)
  /-- quant (R292): major 0x11, minor 7, form R. Quantises a divided by b into a narrow format. -/
  | quant (w : Fields)
  /-- dequant (R293): major 0x11, minor 8, form R. Decodes a narrow element times a scale. -/
  | dequant (w : Fields)
  /-- tepack (R294): major 0x11, minor 9, form R. Packs 16 FP32 values into a tiered block. -/
  | tepack (w : Fields)
  /-- teunpack (R294): major 0x11, minor 10, form R. Decodes a tiered block into 16 FP32 values. -/
  | teunpack (w : Fields)
  /-- fsr (R295): major 0x11, minor 11, form R. Reads and replaces the stochastic-rounding seed. -/
  | fsr (w : Fields)
  /-- rcp (R297): major 0x12, minor 0, form R. Reciprocal. -/
  | rcp (w : Fields)
  /-- rsqrt (R297): major 0x12, minor 1, form R. Reciprocal square root. -/
  | rsqrt (w : Fields)
  /-- sqrt (R297): major 0x12, minor 2, form R. Square root. -/
  | sqrt (w : Fields)
  /-- fdiv (R297): major 0x12, minor 3, form R. Correctly rounded division. -/
  | fdiv (w : Fields)
  /-- exp2 (R297): major 0x12, minor 4, form R. Base-2 exponential. -/
  | exp2 (w : Fields)
  /-- log2 (R297): major 0x12, minor 5, form R. Base-2 logarithm. -/
  | log2 (w : Fields)
  /-- sin (R297): major 0x12, minor 6, form R. Sine. -/
  | sin (w : Fields)
  /-- cos (R297): major 0x12, minor 7, form R. Cosine. -/
  | cos (w : Fields)
  /-- tanh (R297): major 0x12, minor 8, form R. Hyperbolic tangent. -/
  | tanh (w : Fields)
  /-- sigm (R297): major 0x12, minor 9, form R. Logistic sigmoid. -/
  | sigm (w : Fields)
  /-- erf (R297): major 0x12, minor 10, form R. Error function. -/
  | erf (w : Fields)
  /-- jord (R306): major 0x14, minor 0, form S. Sets the gang's jet order. -/
  | jord (w : Fields)
  /-- jseed (R305): major 0x14, minor 1, form R. Seeds a jet from plain registers. -/
  | jseed (w : Fields)
  /-- jget (R305): major 0x14, minor 2, form S. Extracts one jet coefficient. -/
  | jget (w : Fields)
  /-- jput (R305): major 0x14, minor 3, form S. Replaces one jet coefficient. -/
  | jput (w : Fields)
  /-- jzero (R305): major 0x14, minor 4, form R. Zeroes a jet group. -/
  | jzero (w : Fields)
  /-- jadd (R307): major 0x14, minor 5, form R. Adds jets coefficient-wise. -/
  | jadd (w : Fields)
  /-- jsub (R307): major 0x14, minor 6, form R. Subtracts jets coefficient-wise. -/
  | jsub (w : Fields)
  /-- jmul (R230): major 0x14, minor 7, form R. Multiplies jets by the Cauchy product. -/
  | jmul (w : Fields)
  /-- jfma (R307): major 0x14, minor 8, form R. Adds a jet product to a third jet. -/
  | jfma (w : Fields)
  /-- jscale (R307): major 0x14, minor 9, form R. Scales a jet by a plain value. -/
  | jscale (w : Fields)
  /-- jshift (R307): major 0x14, minor 10, form S. Shifts jet coefficients. -/
  | jshift (w : Fields)
  /-- jdfac (R307): major 0x14, minor 11, form R. Multiplies or divides coefficients by n factorial. -/
  | jdfac (w : Fields)
  /-- jflg (R308): major 0x14, minor 12, form R. Reads and clears JFLAGS. -/
  | jflg (w : Fields)
  /-- jdiv (R309): major 0x15, minor 0, form R. Divides jets by the series rule. -/
  | jdiv (w : Fields)
  /-- jrcp (R309): major 0x15, minor 1, form R. Jet reciprocal. -/
  | jrcp (w : Fields)
  /-- jsqrt (R309): major 0x15, minor 2, form R. Jet square root. -/
  | jsqrt (w : Fields)
  /-- jrsqrt (R309): major 0x15, minor 3, form R. Jet reciprocal square root. -/
  | jrsqrt (w : Fields)
  /-- jexp (R309): major 0x15, minor 4, form R. Jet exponential. -/
  | jexp (w : Fields)
  /-- jlog (R309): major 0x15, minor 5, form R. Jet natural logarithm. -/
  | jlog (w : Fields)
  /-- jsin (R309): major 0x15, minor 6, form R. Jet sine. -/
  | jsin (w : Fields)
  /-- jcos (R309): major 0x15, minor 7, form R. Jet cosine. -/
  | jcos (w : Fields)
  /-- jtanh (R309): major 0x15, minor 8, form R. Jet hyperbolic tangent. -/
  | jtanh (w : Fields)
  /-- ld (R317): major 0x20, minor 0, form S. Loads from global, scratchpad or constant space. -/
  | ld (w : Fields)
  /-- ldv (R318): major 0x20, minor 1, form S. Row load at consecutive lane addresses. -/
  | ldv (w : Fields)
  /-- ldview (R319): major 0x20, minor 2, form S. Loads global lines through a view slot. -/
  | ldview (w : Fields)
  /-- fpop (R320): major 0x20, minor 3, form S. Pops the oldest entry of a FIFO bank. -/
  | fpop (w : Fields)
  /-- pf (R321): major 0x20, minor 4, form S. Prefetches global lines. -/
  | pf (w : Fields)
  /-- st (R322): major 0x21, minor 0, form S. Stores to global or scratchpad space. -/
  | st (w : Fields)
  /-- stv (R322): major 0x21, minor 1, form S. Row store at consecutive lane addresses. -/
  | stv (w : Fields)
  /-- stflag (R323): major 0x21, minor 2, form S. Ordered-flag store. -/
  | stflag (w : Fields)
  /-- fpush (R324): major 0x21, minor 3, form S. Pushes one entry into a FIFO bank. -/
  | fpush (w : Fields)
  /-- stcsg (R325): major 0x21, minor 4, form S. Consignment store into a slot. -/
  | stcsg (w : Fields)
  /-- atom (R327): major 0x22, minor 0, form R. Integer atomic returning the old value. -/
  | atom (w : Fields)
  /-- cas (R328): major 0x22, minor 1, form R. Compare-and-swap. -/
  | cas (w : Fields)
  /-- atomr (R327): major 0x22, minor 2, form R. Integer atomic without a result. -/
  | atomr (w : Fields)
  /-- atomf (R330): major 0x22, minor 3, form R. Floating-point atomic. -/
  | atomf (w : Fields)
  /-- csg_open (R159): major 0x23, minor 0, form S. Opens a consignment in a slot. -/
  | csgOpen (w : Fields)
  /-- csg_seal (R168): major 0x23, minor 1, form S. Seals a consignment and returns its stamp. -/
  | csgSeal (w : Fields)
  /-- csg_abort (R169): major 0x23, minor 2, form S. Aborts a consignment. -/
  | csgAbort (w : Fields)
  /-- view_open (R172): major 0x23, minor 3, form S. Opens a view at a new snapshot stamp. -/
  | viewOpen (w : Fields)
  /-- view_close (R174): major 0x23, minor 4, form S. Closes a view and reports expiry. -/
  | viewClose (w : Fields)
  /-- view_stamp (R172): major 0x23, minor 5, form S. Reads a view's snapshot stamp. -/
  | viewStamp (w : Fields)
  /-- fence (R143): major 0x24, minor 0, form S. Acquire, release or both at a scope. -/
  | fence (w : Fields)
  /-- fence_sc (R144): major 0x24, minor 1, form S. Sequentially consistent fence. -/
  | fenceSc (w : Fields)
  /-- wait (R333): major 0x24, minor 2, form S. Waits until a counter falls to a threshold. -/
  | wait (w : Fields)
  /-- wb (R334): major 0x24, minor 3, form S. Writes back dirty L1 lines. -/
  | wb (w : Fields)
  /-- inv (R335): major 0x24, minor 4, form S. Drops clean L1 data. -/
  | inv (w : Fields)
  /-- bra (R338): major 0x2c, minor 0, form L. Branches to a byte offset. -/
  | bra (w : Fields) (lit : BitVec 32)
  /-- brp (R338): major 0x2c, minor 1, form L. Two-way branch on a predicate. -/
  | brp (w : Fields) (lit : BitVec 32)
  /-- brx (R338): major 0x2c, minor 2, form R. Branches to a register address. -/
  | brx (w : Fields)
  /-- call (R338): major 0x2c, minor 3, form L. Pushes a return entry and branches. -/
  | call (w : Fields) (lit : BitVec 32)
  /-- callx (R338): major 0x2c, minor 4, form R. Pushes a return entry and branches to a register. -/
  | callx (w : Fields)
  /-- ret (R338): major 0x2c, minor 5, form R. Pops a return entry and returns. -/
  | ret (w : Fields)
  /-- switch (R341): major 0x2c, minor 6, form L. Sends each thread to one of the following clauses. -/
  | switch (w : Fields) (lit : BitVec 32)
  /-- exit (R181): major 0x2c, minor 7, form R. The thread dies. -/
  | exit (w : Fields)
  /-- meet (R340): major 0x2c, minor 8, form L. Pushes a meeting entry and sets MR. -/
  | meet (w : Fields) (lit : BitVec 32)
  /-- loop (R342): major 0x2c, minor 9, form L. Sets up a hardware loop level. -/
  | loop (w : Fields) (lit : BitVec 32)
  /-- nop (R344): major 0x2c, minor 10, form R. No effect beyond the issue toll. -/
  | nop (w : Fields)
  /-- yield (R344): major 0x2c, minor 11, form R. Makes threads ineligible for a while. -/
  | yield (w : Fields)
  /-- shfl (R346): major 0x2d, minor 0, form R. Moves values between lanes of cells. -/
  | shfl (w : Fields)
  /-- vote (R347): major 0x2d, minor 1, form R. Combines a predicate over members. -/
  | vote (w : Fields)
  /-- red (R348): major 0x2d, minor 2, form R. Reduces values over members. -/
  | red (w : Fields)
  /-- scan (R348): major 0x2d, minor 3, form R. Prefix combination over members. -/
  | scan (w : Fields)
  /-- match (R349): major 0x2d, minor 4, form R. Masks members with equal values. -/
  | matchLanes (w : Fields)
  /-- elect (R349): major 0x2d, minor 5, form R. Elects the lowest member. -/
  | elect (w : Fields)
  /-- tid_set (R354): major 0x30, minor 0, form L. Loads a tensor-identifier entry from constant space. -/
  | tidSet (w : Fields) (lit : BitVec 32)
  /-- tid_get (R355): major 0x30, minor 1, form S. Copies a tensor-identifier entry into registers. -/
  | tidGet (w : Fields)
  /-- mx_ldb (R356): major 0x30, minor 2, form S. Loads a B tile into a matrix unit. -/
  | mxLdb (w : Fields)
  /-- mx_lda (R357): major 0x30, minor 3, form S. Pushes A row entries into the A row buffer. -/
  | mxLda (w : Fields)
  /-- mx_mma (R358): major 0x30, minor 4, form L. Matrix multiply into accumulator rows. -/
  | mxMma (w : Fields) (lit : BitVec 32)
  /-- mx_zero (R362): major 0x30, minor 5, form S. Zeroes accumulator rows. -/
  | mxZero (w : Fields)
  /-- acc_win (R364): major 0x30, minor 6, form R. Sets gang accumulator windows and queue masks. -/
  | accWin (w : Fields)
  /-- acc_pop (R365): major 0x30, minor 7, form S. Pops the oldest row of a row queue. -/
  | accPop (w : Fields)
  /-- acc_ld (R363): major 0x30, minor 8, form S. Loads tensor rows into accumulator rows. -/
  | accLd (w : Fields)
  /-- acc_st (R363): major 0x30, minor 9, form S. Stores accumulator rows to a tensor. -/
  | accSt (w : Fields)
  /-- cp_tile (R370): major 0x34, minor 0, form R. Copies a tensor tile to or from scratchpad. -/
  | cpTile (w : Fields)
  /-- cp_lin (R371): major 0x34, minor 1, form R. Copies a linear byte range. -/
  | cpLin (w : Fields)
  /-- cp_mcast (R372): major 0x34, minor 2, form R. Multicast copy into group receivers. -/
  | cpMcast (w : Fields)
  /-- cp_wptr (R373): major 0x34, minor 3, form S. Reads a channel's write pointer as an acquire. -/
  | cpWptr (w : Fields)
  /-- cp_cancel (R374): major 0x34, minor 4, form S. Cancels the context's earlier commands on a channel. -/
  | cpCancel (w : Fields)
  /-- chain (R376): major 0x35, minor 0, form R. Starts a stream chain command from a descriptor. -/
  | chain (w : Fields)
  /-- chain_stat (R381): major 0x35, minor 1, form S. Reads chain progress counts. -/
  | chainStat (w : Fields)
  /-- bar_init (R384): major 0x38, minor 0, form R. Initialises a barrier object. -/
  | barInit (w : Fields)
  /-- bar_arrive (R385): major 0x38, minor 1, form R. Adds arrivals and returns a phase token. -/
  | barArrive (w : Fields)
  /-- bar_wait (R387): major 0x38, minor 2, form R. Waits for a barrier phase to change. -/
  | barWait (w : Fields)
  /-- bar_expect (R386): major 0x38, minor 3, form R. Adds expected bytes, optionally with an arrival. -/
  | barExpect (w : Fields)
  /-- bar_try (R387): major 0x38, minor 4, form R. Tests a barrier phase without waiting. -/
  | barTry (w : Fields)
  /-- gbar (R389): major 0x38, minor 5, form S. Arrives and waits at a group barrier. -/
  | gbar (w : Fields)
  /-- gridbar (R389): major 0x38, minor 6, form R. Arrives and waits at the grid barrier. -/
  | gridbar (w : Fields)
  /-- trap (R391): major 0x39, minor 0, form S. Stops the gang with a user trap. -/
  | trap (w : Fields)
  /-- brk (R391): major 0x39, minor 1, form S. Stops the gang with a breakpoint trap. -/
  | brk (w : Fields)
  /-- featq (R392): major 0x39, minor 2, form S. Reads a feature word. -/
  | featq (w : Fields)
  /-- clock (R393): major 0x39, minor 3, form S. Reads cycles, 1588 time or a stamp. -/
  | clock (w : Fields)
  /-- emtr (R394): major 0x39, minor 4, form S. Reads the context meter, wraps, bucket or operating point. -/
  | emtr (w : Fields)
  /-- opreq (R395): major 0x39, minor 5, form S. Requests an operating point. -/
  | opreq (w : Fields)
  /-- prog (R396): major 0x39, minor 6, form S. Adds to a progress counter. -/
  | prog (w : Fields)
  /-- sleep (R396): major 0x39, minor 7, form S. Makes threads ineligible for n times 64 cycles. -/
  | sleep (w : Fields)
  /-- Event HEADER_PASS (R236). A thread passes a clause header once its wait condition holds. -/
  | headerPass (c slot lane : Nat)
  /-- Event STARVATION_OVERRIDE (R200). A gang unpicked for 64 cycles is picked first. -/
  | starvationOverride (c row : Nat)
  /-- Event PC_OVERRIDE (R200). A thread passed over for 32 picks has its PC issued on port A. -/
  | pcOverride (c slot : Nat)
  /-- Event YIELD_EXPIRY (R344). A yielded thread becomes eligible again after 32 cycles. -/
  | yieldExpiry (c slot lane : Nat)
  /-- Event SLEEP_EXPIRY (R396). A sleeping thread becomes eligible when its count expires. -/
  | sleepExpiry (c slot lane : Nat)
  /-- Event REGISTER_RELEASE (R417). An ended gang's draining registers and slot are released once every write has settled. -/
  | registerRelease (c slot : Nat)
  /-- Event BLOCK_END (R181). A block ends when its gangs have ended and its engine commands completed, releasing its resources. -/
  | blockEnd (c blk : Nat)
  /-- Event WALK_COMPLETE (R34). A walk ends with a translation or a fault. -/
  | walkComplete (p e : Nat)
  /-- Event WALK_READ (R44). A table read of a walk returns and is judged. -/
  | walkRead (p e : Nat)
  /-- Event AD_UPDATE (R37). The walker's compare-and-swap on an A or D bit completes, restarting the walk on failure. -/
  | adUpdate (p e : Nat)
  /-- Event HELD_REQUEST_WRITE (R50). A held page request is written once ring space appears. -/
  | heldRequestWrite (f : Nat)
  /-- Event RETRY (R54). An accepted RETRY response replays the faulted lanes. -/
  | retry (f : Nat)
  /-- Event DELIVER (R55). An accepted DELIVER response delivers the faults as traps. -/
  | deliver (f : Nat)
  /-- Event ABORT (R52). An accepted ABORT response ends the context. -/
  | abortRsp (f : Nat)
  /-- Event TLBI_NOP (R58). TLBI operation 0 completes after earlier commands. -/
  | tlbiNop (f : Nat) (cmd : BitVec 64)
  /-- Event TLBI_RANGE_CTX (R58). TLBI operation 1 drops stage-1 entries of a CTXID in a range. -/
  | tlbiRangeCtx (f : Nat) (cmd : BitVec 64)
  /-- Event TLBI_RANGE_ALL (R58). TLBI operation 2 drops stage-1 entries of every CTXID in a range. -/
  | tlbiRangeAll (f : Nat) (cmd : BitVec 64)
  /-- Event TLBI_CTX (R58). TLBI operation 3 drops non-global entries of a CTXID. -/
  | tlbiCtx (f : Nat) (cmd : BitVec 64)
  /-- Event TLBI_FUNCTION (R58). TLBI operation 4 drops every entry of the function. -/
  | tlbiFunction (f : Nat) (cmd : BitVec 64)
  /-- Event TLBI_STAGE2_RANGE (R58). TLBI operation 5 drops stage-2 entries overlapping a guest-physical range. -/
  | tlbiStage2Range (f : Nat) (cmd : BitVec 64)
  /-- Event TLBI_FUNCTION_PF (R58). TLBI operation 6 drops every entry of a chosen function. -/
  | tlbiFunctionPf (f : Nat) (cmd : BitVec 64)
  /-- Event TLBI_COMPLETE (R59). An invalidation command completes and TLBI_DONE advances. -/
  | tlbiComplete (f : Nat)
  /-- Event BANKMODE_REQ (R63). A write requests new bank modes and judges each bank. -/
  | bankmodeReq (f c : Nat) (v : BitVec 64)
  /-- Event BANK_DRAIN (R64). An accepted bank finishes draining and takes its new mode. -/
  | bankDrain (c b : Nat)
  /-- Event COPY_STEP (R75). A copy channel delivers a step of bytes and advances WPTR. -/
  | copyStep (c ch : Nat)
  /-- Event COPY_COMMAND_BEGIN (R368). A copy command reaches the head of its channel queue and is judged. -/
  | copyCommandBegin (c ch : Nat)
  /-- Event CHAIN_COMMAND_BEGIN (R376). A chain command begins and reads its descriptor. -/
  | chainCommandBegin (c : Nat)
  /-- Event CHAIN_ELEMENT (R379). The chain engine finishes one element. -/
  | chainElement (c : Nat)
  /-- Event MX_COMMAND_BEGIN (R359). A matrix command begins in matrix-queue order. -/
  | mxCommandBegin (c : Nat)
  /-- Event MX_COMMAND_COMPLETE (R359). A matrix command writes its rows, clears busy bits and ORs its flags. -/
  | mxCommandComplete (c : Nat)
  /-- Event QUEUE_ROW_ENTER (R83). A finished row waiting for room enters its row queue. -/
  | queueRowEnter (c q : Nat)
  /-- Event LINE_FILL (R90). A miss register's line fill returns and serves joined requests. -/
  | lineFill (slice mr : Nat)
  /-- Event MISS_REGISTER_GRANT (R91). A waiting write or filtered read takes a freed miss register. -/
  | missRegisterGrant (slice : Nat)
  /-- Event EVICTION_ACCEPTED (R91). HBM4 accepts an eviction write-back and the filter drops it. -/
  | evictionAccepted (slice line : Nat)
  /-- Event EVICTION_PROMOTION (R142). A slice evicting a line with a last releaser first promotes the recorded cluster. -/
  | evictionPromotion (slice line : Nat)
  /-- Event ESCAPE_MOVE (R98). A packet blocked for ESC_WAIT cycles moves to the escape channel. -/
  | escapeMove (die pkt : Nat)
  /-- Event PROMOTION_REQUEST (R140). A cluster receives a promotion request and writes back the function's dirty lines. -/
  | promotionRequest (slice line : Nat)
  /-- Event PROMOTION_ACK (R140). The promotion acknowledgement lets the slice answer the held acquire. -/
  | promotionAck (slice line : Nat)
  /-- Event L1_WRITEBACK (R461). A replacement write-back judges its translation and pins the line on failure. -/
  | l1Writeback (c line : Nat)
  /-- Event FLUSHING_READ_COMPLETE (R148). The completion of a system-scope flushing read lets the release perform. -/
  | flushingReadComplete (c slot lane : Nat)
  /-- Event HEARTBEAT_TICK (R146). A 256 ns heartbeat tick reaches clusters for device-scope fence.sc. -/
  | heartbeatTick
  /-- Event FABRIC_CADENCE_TICK (R146). A 4 µs fabric cadence tick for tenant and system fence.sc. -/
  | fabricCadenceTick
  /-- Event FENCE_SC_COMPLETE (R144). A fence.sc finishes its cadence wait and completes. -/
  | fenceScComplete (c slot lane : Nat)
  /-- Event TIME_LOCK_CHANGE (R146). The time unit gains or loses lock. -/
  | timeLockChange (locked : Bool)
  /-- Event REMOTE_ACK (R104). An acknowledgement from a fabric home arrives. -/
  | remoteAck (tag : Nat) (stamp : BitVec 64)
  /-- Event REMOTE_RESPONSE (R104). A remote read or atomic response settles its lanes. -/
  | remoteResponse (tag : Nat) (stamp : BitVec 64) (data : List (BitVec 8))
  /-- Event STFLAG_DEPART (R111). A held ordered-flag store leaves once its sampled stores are acknowledged. -/
  | stflagDepart (c slot op : Nat)
  /-- Event REMOTE_REQUEST_ARRIVAL (R106). A remote request reaches the home package and is admitted or refused. -/
  | remoteRequestArrival (r : RemoteReq)
  /-- Event REFUSAL (R106). A refusal arrives and faults the request's lanes. -/
  | refusal (tag : Nat) (stamp : BitVec 64)
  /-- Event REQUEST_TIMEOUT (R106). A remote request unanswered for TIMEOUT faults with fabric-timeout. -/
  | requestTimeout (tag : Nat)
  /-- Event INVALIDATION (R108). An invalidation for a read-only-remote copy arrives and is acknowledged. -/
  | invalidation (pkg line : Nat)
  /-- Event EXPORT_INVALIDATION_ACK (R109). The fabric home acknowledges an invalidation of exported memory. -/
  | exportInvalidationAck (line : Nat)
  /-- Event RECALL (R109). The slice recalls an owned exported line for a local access. -/
  | recall (line : Nat) (data : List (BitVec 8))
  /-- Event SLOT_TRANSMIT (R117). A port transmits a slot and advances its counter. -/
  | slotTransmit (port : Nat)
  /-- Event SLOT_RECEIVE (R118). A port receives a slot and judges it. -/
  | slotReceive (port : Nat) (bytes : List (BitVec 8))
  /-- Event REPLAY_TIMEOUT (R119). No acknowledgement for 4 µs triggers a replay. -/
  | replayTimeout (port : Nat)
  /-- Event RETRAIN_COMPLETE (R119). A port finishes retraining with a new session. -/
  | retrainComplete (port : Nat)
  /-- Event RETRAIN_TIMEOUT (R119). A port fails to retrain within TIMEOUT. -/
  | retrainTimeout (port : Nat)
  /-- Event KEY_ROTATION (R120). The security complex rotates session keys every KEYPERIOD. -/
  | keyRotation (port switchAt : Nat)
  /-- Event LINE_HOME_STCSG (R166). A consignment-store lane is performed at its line home. -/
  | lineHomeStcsg (c slot op lane : Nat)
  /-- Event SEAL (R168). The seal takes its stamp at the record home once its stores are acknowledged. -/
  | sealRecord (c slot cs : Nat)
  /-- Event SEAL_NOTICE (R168). A package receives a seal notice and sweeps the tags. -/
  | sealNotice (csgid mrec : Nat) (sealT : BitVec 64)
  /-- Event SEAL_NOTICE_ACK (R168). All notice acknowledgements arrive and the record is freed. -/
  | sealNoticeAck (f rec pkg : Nat) (stamp : BitVec 64)
  /-- Event RESTORE (R169). A package receives an abort restore and restores pending lines. -/
  | restoreTags (csgid mrec : Nat)
  /-- Event ABORT_COMPLETE (R169). An abort completes when every restore is acknowledged. -/
  | abortComplete (c slot cs : Nat)
  /-- Event LWM_REPORT (R176). Every 100 µs a package reports its least open view per domain. -/
  | lwmReport (dom : Nat)
  /-- Event LWM_BROADCAST (R176). The lowest member broadcasts the domain minimum. -/
  | lwmBroadcast (dom : Nat)
  /-- Event LWM_RECEIVE (R176). A package applies a received low-water mark. -/
  | lwmReceive (dom : Nat) (lwm stamp : BitVec 64)
  /-- Event TAG_SWEEP (R177). The sweeper frees sealed tags below VIEW_LWM. -/
  | tagSweep (f : Nat) (entry : Nat)
  /-- Event SQ_TAIL (R398). A write of SQ_TAIL rings the doorbell. -/
  | sqTail (f q : Nat) (v : BitVec 64)
  /-- Event LAUNCH (R187). A launch entry at the head of its queue is judged and started. -/
  | launch (f q : Nat)
  /-- Event SIGNAL (R400). A signal entry completes once ready. -/
  | signalEntry (f q : Nat)
  /-- Event DEPENDENCE_READ (R402). The queue manager re-reads a dependence counter. -/
  | dependenceRead (f q : Nat)
  /-- Event ENTRY_COMPLETE (R404). An entry completes: write-backs, record, counter add, interrupt. -/
  | entryComplete (f q : Nat)
  /-- Event CQ_HEAD (R406). A write of CQ_HEAD frees ring space for waiting completions. -/
  | cqHead (f q : Nat) (v : BitVec 64)
  /-- Event DISPATCH_SELECT (R409). The dispatcher selects a context and places its blocks. -/
  | dispatchSelect
  /-- Event COOP_WAIT_LIMIT (R409). A cooperative launch that waited 1 ms blocks lower-priority launches. -/
  | coopWaitLimit (f ctx : Nat)
  /-- Event FAIRNESS_PREEMPT (R410). A context resident past QUANTUM_US is pre-empted for a starved function. -/
  | fairnessPreempt
  /-- Event SLEW_BATCH (R420). The slew limiter takes a batch of pending clusters. -/
  | slewBatch
  /-- Event CLUSTER_ADMIT (R420). A cluster of the batch resumes. -/
  | clusterAdmit (c : Nat)
  /-- Event TICK (R437). The 1 µs tick refills buckets and charges leakage. -/
  | tick
  /-- Event CORRECTION_WINDOW (R432). At each window end new correction factors are computed. -/
  | correctionWindow
  /-- Event CORR_CTL (R432). A write of WINDOW_MS ends the current window at once. -/
  | corrCtl (v : BitVec 64)
  /-- Event SHARED_UNCORE_CHARGE (R434). Every 100 µs shared uncore energy is charged to contexts. -/
  | sharedUncoreCharge
  /-- Event VF_METER_UPDATE (R430). The visible function meter updates each VF_PERIOD. -/
  | vfMeterUpdate (f : Nat)
  /-- Event METER_LO_READ (R429). A 4-byte read of LO latches HI and WRAPS into the shadow. -/
  | meterLoRead (win : Nat) (m : MeterName)
  /-- Event METER_HI_READ (R429). A read of HI returns the shadow or live value and may set TORN. -/
  | meterHiRead (win : Nat) (m : MeterName)
  /-- Event METER_READ_64 (R429). An 8-byte meter read returns both halves from one instant. -/
  | meterRead64 (win : Nat) (m : MeterName)
  /-- Event METER_MIGRATION_WRITE (R431). The hypervisor writes a function's meters and counters for migration. -/
  | meterMigrationWrite (f off : Nat) (v : BitVec 64)
  /-- Event OP_TRANSITION (R442). A partition starts moving to a new operating point. -/
  | opTransition (p : Nat)
  /-- Event VOLTAGE_RAMP_DONE (R442). The voltage ramp ends and the clocks switch. -/
  | voltageRampDone (p : Nat)
  /-- Event CLOCK_SWITCH_DONE (R442). The 1 µs pause of a clock switch ends. -/
  | clockSwitchDone (p : Nat)
  /-- Event POWER_CHECK (R444). Every 100 µs the power manager adjusts ceilings. -/
  | powerCheck (watts : Nat)
  /-- Event PKG_OC (R445). Package power exceeds its limit. -/
  | pkgOc
  /-- Event PART_OC (R445). A partition exceeds its current limit. -/
  | partOc (p : Nat)
  /-- Event UNDERVOLT (R445). A rail falls below its minimum. -/
  | undervolt (rail : Nat)
  /-- Event OVERTEMP (R445). A die sensor passes the trip temperature. -/
  | overtemp
  /-- Event SLEW (R443). Package current rises faster than the slew limit. -/
  | slewAlarm
  /-- Event ALARM_ACTION_END (R445). The timed action of an alarm cause runs out. -/
  | alarmActionEnd (cause unit : Nat)
  /-- Event PWR_ALARM_WRITE (R443). A physical-function write clears alarm cause bits. -/
  | pwrAlarmWrite (v : BitVec 64)
  /-- Event DEMAND_SEND (R447). Every 10 ms the package sends its power demand. -/
  | demandSend (avgWatts : Nat)
  /-- Event DEMAND_RECEIVE (R447). A demand message from a domain member arrives. -/
  | demandReceive (pkg floor demand : Nat) (stamp : BitVec 64) (seq : Nat)
  /-- Event GRANT_COMPUTE (R448). The leader computes and sends grants. -/
  | grantCompute
  /-- Event GRANT_RECEIVE (R449). A grant message arrives and is applied or ignored. -/
  | grantReceive (src seq watts : Nat) (stamp : BitVec 64)
  /-- Event GRANT_LAPSE (R449). No grant for three periods drops the cap to FLOOR. -/
  | grantLapse
  /-- Event STEP_START (R450). A delayed current step starts at its grid point plus offset. -/
  | stepStart (unit : Nat)
  /-- Event TRAP_RING_RETRY (R454). A held record is written once the trap ring has room. -/
  | trapRingRetry (c : Nat)
  /-- Event GANG_CTL (R456). A write of HALT holds or releases a gang. -/
  | gangCtl (c slot : Nat) (v : BitVec 64)
  /-- Event DBG_DATA_READ (R457). A debug-window read of a halted gang's state. -/
  | dbgDataRead (c : Nat)
  /-- Event DBG_DATA_WRITE (R457). A debug-window write patches a halted gang's state. -/
  | dbgDataWrite (c : Nat) (v : BitVec 64)
  /-- Event USER_HANDLER (R459). The supervisor runs a user handler in scalar mode. -/
  | userHandler (c : Nat)
  /-- Event HANDLER_TIMEOUT (R459). A handler not exited within 1 ms ends the context. -/
  | handlerTimeout (c : Nat)
  /-- Event CTX_PREEMPT (R462). CTX_CMD operation 1 pre-empts a resident context. -/
  | ctxPreempt (f ctx : Nat)
  /-- Event CTX_CMD_END (R462). CTX_CMD operation 2 ends a context. -/
  | ctxCmdEnd (f ctx : Nat)
  /-- Event CONTEXT_SAVE (R463). A pre-empted context's save completes and its resources are released. -/
  | contextSave (f ctx : Nat)
  /-- Event CONTEXT_RESUME (R466). A saved context is restored and its clusters wake. -/
  | contextResume (f ctx : Nat)
  /-- Event SESSION_CLAIM (R473). Command 1 claims a profiling resource. -/
  | sessionClaim (f p res : Nat) (cmd : BitVec 64)
  /-- Event SESSION_RELEASE (R473). Command 2 releases a profiling resource. -/
  | sessionRelease (f p res : Nat) (cmd : BitVec 64)
  /-- Event SESSION_START (R472). Command 3 starts counting, tracing or a trial. -/
  | sessionStart (f p res : Nat) (cmd : BitVec 64)
  /-- Event SESSION_STOP (R472). Command 4 stops a session or trial. -/
  | sessionStop (f p res : Nat) (cmd : BitVec 64)
  /-- Event SESSION_RESTORE (R475). Command 5 restores a migrated bank session. -/
  | sessionRestore (f p res : Nat) (cmd : BitVec 64)
  /-- Event SESSION_CLEAR (R472). Command 6 clears a session's counts. -/
  | sessionClear (f p res : Nat) (cmd : BitVec 64)
  /-- Event PC_SAMPLE (R476). A lane row's PC is sampled each sampling period. -/
  | pcSample (c row : Nat)
  /-- Event TRIAL_END (R480). A causal trial ends after TRIAL_US. -/
  | trialEnd (p : Nat)
  /-- Event CAPTURE_SAMPLE (R481). A capture unit takes a sample into min, max and bins. -/
  | captureSample (p u : Nat) (v : BitVec 32)
  /-- Event HCU_CLEAR (R481). Writing CLR resets a capture unit. -/
  | hcuClear (p u : Nat) (v : BitVec 64)
  /-- Event CTX_CREATE (R488). CTX_OP 1 creates a context from the staged descriptor. -/
  | ctxCreate (f : Nat)
  /-- Event CTX_DESTROY (R488). CTX_OP 2 destroys a context. -/
  | ctxDestroy (f : Nat)
  /-- Event CTX_OP_END (R488). CTX_OP 3 ends a context. -/
  | ctxOpEnd (f : Nat)
  /-- Event DESCRIPTOR_WRITE (R488). A write to the descriptor window stages or schedules a field change. -/
  | descriptorWrite (f word : Nat) (v : BitVec 64)
  /-- Event COLD_RESET (R491). Loss of module power resets everything. -/
  | coldReset
  /-- Event WARM_RESET (R491). PERST# resets all but sticky fields and reruns boot. -/
  | warmReset
  /-- Event HOT_RESET (R491). A PCI Express hot reset resets without rerunning boot. -/
  | hotReset
  /-- Event FUNCTION_LEVEL_RESET (R491). An FLR ends a function's contexts and resets its state. -/
  | functionLevelReset (f : Nat)
  /-- Event BOOT (R500). Boot verifies images and the configuration record. -/
  | boot (found : List (BitVec 64))
  /-- Event MSIX_UNMASK (R492). Unmasking a pending vector sends its message. -/
  | msixUnmask (f vec : Nat)
  /-- Event STATUS (R499). Mailbox command 0x01 returns boot state. -/
  | mbxStatus (port : Port) (cmd : BitVec 64) (body : List (BitVec 8))
  /-- Event SIGNED_METER_READING (R451). Mailbox command 0x02 returns a signed meter reading. -/
  | signedMeterReading (port : Port) (cmd : BitVec 64) (body : List (BitVec 8))
  /-- Event SPDM_MESSAGE (R503). Mailbox command 0x03 carries one SPDM request. -/
  | spdmMessage (port : Port) (cmd : BitVec 64) (body : List (BitVec 8))
  /-- Event STAGE_IMAGE (R499). Mailbox command 0x10 writes an image into the inactive slot. -/
  | stageImage (port : Port) (cmd : BitVec 64) (body : List (BitVec 8))
  /-- Event ACTIVATE_SLOT (R499). Mailbox command 0x11 activates the staged slot. -/
  | activateSlot (port : Port) (cmd : BitVec 64) (body : List (BitVec 8))
  /-- Event WRITE_CONFIGURATION_RECORD (R501). Mailbox command 0x12 verifies and stores a configuration record. -/
  | writeConfigurationRecord (port : Port) (cmd : BitVec 64) (body : List (BitVec 8))
  /-- Event READ_CONFIGURATION_RECORD (R499). Mailbox command 0x13 returns the record in force. -/
  | readConfigurationRecord (port : Port) (cmd : BitVec 64) (body : List (BitVec 8))
  /-- Event MBX_WARM_RESET (R499). Mailbox command 0x20 performs a warm reset after responding. -/
  | mbxWarmReset (port : Port) (cmd : BitVec 64) (body : List (BitVec 8))
  /-- Event SEM_ACQUIRE (R498). CTRL_SEM acquire grants the semaphore when free. -/
  | semAcquire (port : Port)
  /-- Event SEM_RELEASE (R498). CTRL_SEM release frees the semaphore. -/
  | semRelease (port : Port)
  /-- Event SEM_RENEW (R498). CTRL_SEM renew keeps ownership. -/
  | semRenew (port : Port)
  /-- Event SEM_TIMEOUT (R498). An idle owner loses the semaphore after TMO. -/
  | semTimeout
  /-- Event TRANSLATOR_REQUEST (R504). A write of XL_CMD starts a translation request. -/
  | translatorRequest (f : Nat) (v : BitVec 64)
  /-- Event TRANSLATOR_DONE (R505). A translation request completes with its status. -/
  | translatorDone (f : Nat)
  /-- Event HOST_WRITE (R148). A host write over PCI Express is performed at the home slice. -/
  | hostWrite (pa : Nat) (bytes : List (BitVec 8))
  /-- Event REGISTER_WRITE (R7). A write to a register with no behaviour of its own. -/
  | registerWrite (win off len : Nat) (v : BitVec 64)
  /-- Event ILLEGAL_INSTRUCTION (R245). A word with a reserved major, an unassigned minor or another refused encoding reaches issue and takes an illegal-instruction trap. -/
  | illegalInstruction
  /-- Event LOCAL_ACCESS_RESPONSE (R128). The response or acknowledgement of a local access returns from its home slice, HBM4, target unit or PCI Express endpoint, binding load lanes or performing store lanes. -/
  | localAccessResponse (c slot op : Nat) (data : List (BitVec 8))
  /-- Event SOFT_ERROR (R80). A single- or double-bit error arises in a bank, accumulator row, cache, slice or HBM4 word. -/
  | softError (place : ErrorPlace) (dbl : Bool)
  /-- Event PATROL_SCRUBBING (R92). The ECC scrubber stop scrubs lines on its own, correcting and writing them back as shared uncore energy. -/
  | patrolScrubbing (slice line : Nat)
  /-- Event FUNCTION_LEVEL_RESET_END (R491). A function-level reset ends and the function's window again accepts writes and returns reads. -/
  | functionLevelResetEnd (f : Nat)
  /-- Event VF_OPMAX_WRITE (R441). A hypervisor write lowering VF_OPMAX reduces every existing grant of the function at once, which can start a transition. -/
  | vfOpmaxWrite (f : Nat) (v : BitVec 64)
  /-- Event TLBI_CMD_REFUSED (R58). A malformed TLBI_CMD write, or one made while 16 commands are pending, is refused or ignored and sets REFUSED or FULL. -/
  | tlbiCmdRefused (f : Nat) (cmd : BitVec 64)
  /-- Event BAD_CMD (R499). A mailbox command with an unknown opcode, an excess LEN or a nonzero reserved field ends with BAD_CMD. -/
  | badCmd (port : Port) (cmd : BitVec 64) (body : List (BitVec 8))
  /-- Event RECORD_READ (R170). A refresh's read of a seal record reaches the record's home, which merges S and answers in one order with seals. -/
  | recordRead (f rec csgid : Nat) (snap : BitVec 64) (asker : Nat)
  /-- Event RECORD_READ_ANSWER (R170). The answer to a seal-record read returns to the line home, which completes the refresh and resolves the held read. -/
  | recordReadAnswer (line : Nat) (word0 sealT stamp : BitVec 64)
  /-- Event SQ_CTL_ENABLE (R494). A write setting SQ_CTL.EN to 1 restarts the queue's CONSUMED count and CSEQ numbering. -/
  | sqCtlEnable (f q : Nat) (v : BitVec 64)
  /-- Event XC_BASE_ENABLE (R506). A hypervisor write that sets XC_BASE.EN empties the function's translator cache index. -/
  | xcBaseEnable (f : Nat) (v : BitVec 64)
  /-- Event SESSION_CMD_REFUSED (R472). A malformed or unknown profiling CMD write changes nothing and sets CODE 4. -/
  | sessionCmdRefused (f p res : Nat) (cmd : BitVec 64)
  /-- Event CTX_OP_REFUSED (R488). A CTX_OP write with a refused code sets RESULT to REFUSED and changes nothing. -/
  | ctxOpRefused (f : Nat) (v : BitVec 64)
  deriving DecidableEq, Repr

end Sys2Proof
end

