-- ==== Sys2Proof/Machine/Bits.lean ====
section
/-! DEFINITION. Fields of words as naturals, sign extension, byte order: the small conversions every other file
of the machine uses (00:R6, 10:R238-R242, 09:R208). -/

namespace Sys2Proof.Machine

/-- `len` bits of `n` from bit `lo` on. -/
def bitsOf (n lo len : Nat) : Nat := n / 2 ^ lo % 2 ^ len

/-- Bit `i` of `n`. -/
def bitOf (n i : Nat) : Bool := n / 2 ^ i % 2 == 1

/-- 1 for true, 0 for false. -/
def b2n (b : Bool) : Nat := if b then 1 else 0

/-- `n` with the `len` bits from bit `lo` on replaced by the low bits of `v`. -/
def setBits (n lo len v : Nat) : Nat :=
  n - bitsOf n lo len * 2 ^ lo + v % 2 ^ len * 2 ^ lo

/-- The signed value of the low `w` bits of `n` (two's complement). -/
def sgn (w n : Nat) : Int :=
  let m := n % 2 ^ w
  if 2 * m < 2 ^ w then (m : Int) else (m : Int) - (2 ^ w : Nat)

/-- The `w`-bit code of an integer. -/
def code (w : Nat) (v : Int) : Nat := (v % ((2 ^ w : Nat) : Int)).toNat

/-- AUX bits (R242). -/
def auxBits (f : Fields) (lo len : Nat) : Nat := bitsOf f.aux.toNat lo len

/-- One AUX bit. -/
def auxBit (f : Fields) (i : Nat) : Bool := bitOf f.aux.toNat i

/-- imm7 read unsigned (R239). -/
def immU (f : Fields) : Nat := f.vs1.toNat

/-- imm7 sign-extended (R239). -/
def immS (f : Fields) : Int := sgn 7 f.vs1.toNat

/-- Bytes of a number, least significant first (R6). -/
def toBytes : Nat → Nat → List (BitVec 8)
  | 0, _ => []
  | k + 1, n => BitVec.ofNat 8 n :: toBytes k (n / 256)

/-- The number of little-endian bytes (R6). -/
def fromBytes : List (BitVec 8) → Nat
  | [] => 0
  | b :: bs => b.toNat + 256 * fromBytes bs

/-- The bits of `m` set below `n`, ascending. -/
def bitList (n m : Nat) : List Nat := (List.range n).filter (bitOf m ·)

/-- The mask of a list of bit numbers. -/
def maskOf (l : List Nat) : Nat := l.foldl (fun m i => m ||| 2 ^ i) 0

/-- The number of set bits among the low `w` bits. -/
def popcount (w n : Nat) : Nat := (List.range w).countP (bitOf n ·)

/-- The position of the highest set bit plus one; 0 for zero. -/
def bitLen (n : Nat) : Nat := if n = 0 then 0 else Nat.log2 n + 1

/-- A is a canonical 57-bit address: bits 63:57 all equal bit 56 (R10). -/
def canonical (a : Nat) : Bool := a / 2 ^ 56 == 0 || a / 2 ^ 56 == 255

/-- Ceiling of a quotient. -/
def ceilDiv (a b : Nat) : Nat := (a + b - 1) / b

end Sys2Proof.Machine
end

