-- ==== Sys2Proof/Machine/Shapes.lean ====
section
/-! DEFINITION. Which fields each instruction uses and which of their values are legal (10:R238-R246 and the field
tables of 11 to 17). One shape per instruction drives the decoder's illegal-instruction judgement (R245, R246
item 1), the operand judgements of R246 items 2 and 3, and the scoreboard's operand list (R195). -/

namespace Sys2Proof.Machine

/-- What a field of a word holds (R240). -/
inductive Opnd where
  /-- Not used: the field is zero. -/
  | unused
  /-- `n` registers from the named one, which is a multiple of `al`. -/
  | regs (n al : Nat)
  /-- The first register of a tiered block of `n` registers (R294): only the first is judged with the field. -/
  | block (n : Nat)
  /-- A jet group (R229, R299). -/
  | jet
  /-- A small object named by the low bits; the rest is zero. -/
  | small (bits : Nat)
  /-- An immediate, judged by `ok`. -/
  | imm
  deriving DecidableEq, Repr

/-- The shape of an instruction: its four operand fields, the other AUX bits it uses, the sources that pass the
crossbar, which registers it writes, and whether its remaining codes are legal. -/
structure Shape where
  vd : Opnd := .unused
  vs0 : Opnd := .unused
  vs1 : Opnd := .unused
  /-- The third source in AUX bits 10:4. -/
  third : Opnd := .unused
  /-- AUX bits used besides a third source. -/
  auxMask : Nat := 0
  /-- PERM0 applies to VS0 (R204, R244). -/
  perm0 : Bool := false
  /-- PERM1 applies to VS1. -/
  perm1 : Bool := false
  /-- Every other code is legal. -/
  ok : Bool := true
  /-- Predicates read or written besides the guard's (R261). -/
  preds : List Nat := []
  deriving DecidableEq, Repr

/-- Width of TY (R258). -/
def tyWidth : Nat → Nat
  | 0 => 32 | 1 => 32 | 2 => 16 | 3 => 16 | 4 => 8 | 5 => 8 | _ => 64

/-- TY of an integer instruction: AUX bits 2:0 (R258). -/
def tyOf (f : Fields) : Nat := auxBits f 0 3

/-- TY is a signed type (R258). -/
def tySigned (t : Nat) : Bool := t % 2 == 1

/-- SAT: AUX bit 3 (R258). -/
def satOf (f : Fields) : Bool := auxBit f 3

/-- One 32-bit register. -/
def oneReg : Opnd := .regs 1 1
/-- An even pair (R208). -/
def pairReg : Opnd := .regs 2 2
/-- A quad (R240). -/
def quadReg : Opnd := .regs 4 4

/-- The operand of a w-bit integer. -/
def tyReg (t : Nat) : Opnd := if t = 6 ∨ t = 7 then pairReg else oneReg

/-- The operand of an arithmetic type FT (R277). -/
def ftReg (ft : Nat) : Opnd := if ft = 1 then pairReg else oneReg

/-- The operand of a format FF in one register or pair (R277). -/
def ffReg (ff : Nat) : Opnd := if ff = 1 then pairReg else oneReg

/-- Elements of a format FF in one register (R277). -/
def ffElems : Nat → Nat
  | 0 => 1 | 1 => 1 | 2 => 2 | 3 => 2 | 4 => 4 | 5 => 4 | 6 => 8 | _ => 0

/-- RS = 0 needs RM = 0; RS = 1 accepts the modes 0 to 4 (R277, R215). AUX bit 3 and bits 2:0. -/
def rmOk (f : Fields) : Bool := if auxBit f 3 then auxBits f 0 3 ≤ 4 else auxBits f 0 3 == 0

/-- RS and RM both zero. -/
def rmZero (f : Fields) : Bool := auxBits f 0 4 == 0

/-- Registers of a tiered block (R294): TB 1 te4, 2 te6, 3 te9. -/
def teRegs (tb : Nat) : Nat := if tb = 1 then 2 else if tb = 2 then 3 else 5

/-- Access bytes of SZ (R312). -/
def szBytes : Nat → Nat
  | 0 => 4 | 1 => 8 | 2 => 16 | 3 => 1 | 4 => 1 | 5 => 2 | 6 => 2 | _ => 4

/-- Registers of SZ (R312). -/
def szReg (sz : Nat) : Opnd := if sz = 1 then pairReg else if sz = 2 then quadReg else oneReg

/-- The SZ field: AUX bits 10:8 (R311). -/
def szOf (f : Fields) : Nat := auxBits f 8 3
/-- The SP field: AUX bits 7:6 (R311). -/
def spOf (f : Fields) : Nat := auxBits f 6 2

/-- The address base by space (R314). -/
def baseReg (sp : Nat) : Opnd := if sp = 0 then pairReg else oneReg

/-- Legal codes of a load or store of majors 0x20 and 0x21 (R311-R313, R139): `st` for a store, `row` for the row
forms. -/
def memCodesOk (f : Fields) (st row : Bool) : Bool :=
  let sz := szOf f
  let ord := auxBits f 4 2
  let sc := auxBits f 1 3
  (if row then sz ≤ 2 else sz != 7) && (!st || (sz != 4 && sz != 6)) &&
  match spOf f with
  | 0 => !auxBit f 0 &&
      (if ord = 0 then sc == 0 else if st then ord == 2 && sc ≤ 4 else ord == 1 && sc ≤ 5)
  | 1 => if ord = 0 then !auxBit f 0 else if st then ord == 2 else ord == 1
  | 2 => !st && auxBits f 0 6 == 0
  | _ => false

/-- Legal ORD and SC of an atomic (R326, R313, R139). -/
def atomCodesOk (f : Fields) : Bool :=
  let sc := auxBits f 0 3
  sc ≤ 4 || (sc == 5 && (auxBits f 3 2 == 1 || auxBits f 3 2 == 3) && !auxBit f 5)

/-- An integer instruction with two sources (R262, R264): accepted types and whether SAT is accepted. -/
def shInt2 (f : Fields) (tys : List Nat) (sat : Bool) : Shape :=
  { vd := tyReg (tyOf f), vs0 := tyReg (tyOf f), vs1 := tyReg (tyOf f), perm0 := true, perm1 := true
    auxMask := if sat then 15 else 7, ok := tys.contains (tyOf f) }

/-- All TY codes. -/
def tyAll : List Nat := [0, 1, 2, 3, 4, 5, 6, 7]

/-- A one-source integer instruction. -/
def shInt1 (f : Fields) (tys : List Nat) (sat : Bool) : Shape :=
  { shInt2 f tys sat with vs1 := .unused, perm1 := false }

/-- A three-source integer instruction. -/
def shInt3 (f : Fields) (sat : Bool) : Shape :=
  { shInt2 f tyAll sat with third := tyReg (tyOf f) }

/-- A shift or rotate: b is one 32-bit register (R264). -/
def shShift (f : Fields) : Shape := { shInt2 f tyAll false with vs1 := oneReg }

/-- A count into one 32-bit register (R264, R268). -/
def shCount (f : Fields) : Shape := { shInt1 f tyAll false with vd := oneReg }

/-- Add and subtract with carry (R263): CIP read when CIE, COP written. -/
def shCarry (f : Fields) : Shape :=
  { vd := tyReg (tyOf f), vs0 := tyReg (tyOf f), vs1 := tyReg (tyOf f), perm0 := true, perm1 := true
    auxMask := 0x7F7, ok := (tyOf f == 0 || tyOf f == 6) && (auxBit f 10 || auxBits f 7 3 == 0)
    preds := [auxBits f 7 3, auxBits f 4 3] }

/-- FT in layout A: AUX bits 5:4 (R280). -/
def ftA (f : Fields) : Nat := auxBits f 4 2
/-- FT in layout B: AUX bits 3:2 (R280). -/
def ftB (f : Fields) : Nat := auxBits f 2 2

/-- A layout-A arithmetic instruction (R280). -/
def shFloat (f : Fields) (two : Bool) (ok : Bool) : Shape :=
  { vd := ftReg (ftA f), vs0 := ftReg (ftA f), vs1 := if two then ftReg (ftA f) else .unused
    perm0 := true, perm1 := two, auxMask := 0x3F, ok := ok }

/-- A layout-B arithmetic instruction (R280). -/
def shFloat3 (f : Fields) (ok : Bool) : Shape :=
  { vd := ftReg (ftB f), vs0 := ftReg (ftB f), vs1 := ftReg (ftB f), third := ftReg (ftB f)
    perm0 := true, perm1 := true, auxMask := 15, ok := ok }

/-- A special function (R296): FT 0 or 2. -/
def shSfu (f : Fields) (two rs : Bool) : Shape :=
  shFloat f two ((ftA f == 0 || ftA f == 2) && if rs then rmOk f else rmZero f)

/-- A jet instruction (R299-R309). -/
def shJet (vs0 vs1 : Opnd) : Shape :=
  { vd := .jet, vs0, vs1, perm0 := vs0 != .unused, perm1 := vs1 != .unused }

/-- A slot instruction of major 0x23 (R331). -/
def shSlot (f : Fields) (vd : Opnd) (n : Nat) : Shape := { vd, vs1 := .imm, ok := immU f < n }

/-- A system instruction of major 0x39 (R390). -/
def shSys (f : Fields) (vd : Opnd) (lo n : Nat) : Shape :=
  { vd, vs1 := .imm, ok := lo ≤ immU f && immU f < n }

/-- An atomic on integers (R326). -/
def shAtom (f : Fields) (vd : Bool) (ops : Nat) : Shape :=
  let r := if auxBit f 7 then pairReg else oneReg
  { vd := if vd then r else .unused, vs0 := if auxBit f 5 then oneReg else pairReg, vs1 := r
    perm1 := true, auxMask := 0x7FF
    ok := atomCodesOk f && auxBits f 8 3 < ops &&
      (!auxBit f 6 || auxBits f 8 3 == 4 || auxBits f 8 3 == 5) }

/-- `red` and `scan` (R348). -/
def shRed (f : Fields) (excl : Bool) : Shape :=
  { vd := oneReg, vs0 := oneReg, perm0 := true, auxMask := if excl then 0x3F else 0x1F
    ok := auxBits f 3 2 ≤ 2 && (if auxBits f 3 2 = 2 then auxBits f 0 3 ≤ 2 else auxBits f 0 3 ≤ 5) }

/-- A transfer with a byte-offset literal (R336): bits 1:0 of the literal are zero. -/
def shOffset (lit : BitVec 32) : Shape := { ok := lit.toNat % 4 == 0 }

/-- The shape of an instruction; an event has the empty one. -/
def shape : Instr → Shape
  -- major 0x01 (R262, R263)
  | .add f | .sub f | .mul f => shInt2 f tyAll true
  | .addc f | .subc f => shCarry f
  | .neg f | .abs f => shInt1 f tyAll true
  | .min f | .max f | .mulhi f | .avg f => shInt2 f tyAll false
  | .mulw f => { shInt2 f [0, 1, 2, 3] false with
      vd := if tyOf f ≤ 1 then pairReg else oneReg }
  | .mad f => shInt3 f true
  | .madhi f | .sad f | .clamp f => shInt3 f false
  -- major 0x02 (R264-R267)
  | .and f | .or f | .xor f | .andn f => shInt2 f tyAll false
  | .not f | .brev f => shInt1 f tyAll false
  | .lop3 _ => { vd := oneReg, vs0 := oneReg, vs1 := oneReg, perm0 := true, perm1 := true, auxMask := 0xFF }
  | .shl f | .shr f | .sar f | .rotl f | .rotr f => shShift f
  | .shf _ => { vd := oneReg, vs0 := oneReg, vs1 := oneReg, third := oneReg, perm0 := true, perm1 := true
                auxMask := 8 }
  | .bfe f => { shShift f with third := oneReg, ok := [0, 1, 6, 7].contains (tyOf f) }
  | .bfi f => { shShift f with third := oneReg, ok := [0, 6].contains (tyOf f) }
  | .popc f | .clz f | .ffs f => shCount f
  -- major 0x03 (R268-R272)
  | .div f | .rem f => shInt2 f tyAll false
  | .ext f | .sat f => { shInt1 f tyAll false with
      vs1 := .imm, ok := 1 ≤ immU f && immU f ≤ tyWidth (tyOf f) }
  | .pack f => shInt2 f [2, 3, 4, 5] true
  | .unpack f => shInt1 f [2, 3, 4, 5] true
  | .mov f => shInt1 f [0, 6] false
  | .movl f _ => { vd := tyReg (tyOf f), auxMask := 7, ok := [0, 6].contains (tyOf f) }
  | .sel f => { shInt2 f [0, 6] false with auxMask := 0x7F, preds := [auxBits f 4 3] }
  | .sreg f => { vd := oneReg, vs1 := .imm, ok := immU f ≤ 8 }
  | .lea _ => { vd := pairReg, vs0 := pairReg, vs1 := .imm, third := oneReg, perm0 := true, auxMask := 15 }
  | .wadd f => { vd := pairReg, vs0 := pairReg, vs1 := oneReg, perm0 := true, perm1 := true, auxMask := 7
                 ok := tyOf f ≤ 1 }
  -- major 0x04 (R274)
  | .xset _ _ => { vd := .small 2 }
  | .xmov _ => { vd := .small 5, vs0 := oneReg, perm0 := true }
  | .xadd _ => { vd := .small 2, vs1 := .imm }
  | .xget _ => { vd := oneReg, vs0 := .small 2 }
  -- major 0x05 (R276)
  | .icmp f => { shInt2 f tyAll false with
      vd := .small 3, auxMask := 0x77, ok := auxBits f 4 3 ≤ 5, preds := [f.vd.toNat] }
  | .icmpc f => { shInt2 f tyAll false with
      vd := .small 3, auxMask := 0x7F7, ok := auxBits f 4 3 ≤ 5, preds := [f.vd.toNat, auxBits f 7 3] }
  | .pand f | .por f | .pxor f =>
      { vd := .small 3, vs0 := .small 3, vs1 := .small 3, auxMask := 3
        preds := [f.vd.toNat, f.vs0.toNat, f.vs1.toNat] }
  | .pnot f => { vd := .small 3, vs0 := .small 3, preds := [f.vd.toNat, f.vs0.toNat] }
  | .pset f => { vd := .small 3, vs0 := oneReg, vs1 := .imm, perm0 := true, ok := immU f ≤ 31
                 preds := [f.vd.toNat] }
  | .pget _ => { vd := oneReg, preds := [1, 2, 3, 4, 5, 6, 7] }
  -- major 0x10 (R280-R285)
  | .fadd f | .fsub f | .fmul f => shFloat f true (rmOk f)
  | .fma f | .fms f | .fnma f => shFloat3 f true
  | .fmin f | .fmax f => shFloat f true (rmZero f)
  | .fabs f | .fneg f => shFloat f false (rmZero f)
  | .fclamp f => shFloat3 f (auxBits f 0 2 == 0)
  | .fdot2 f => { shFloat3 f (2 ≤ ftB f) with vd := oneReg, vs0 := oneReg, vs1 := oneReg, third := oneReg }
  | .fdot4 f => { shFloat3 f true with vd := oneReg, vs0 := oneReg, vs1 := oneReg, third := oneReg }
  | .fcmp f => { vd := .small 3, vs0 := ftReg (ftB f), vs1 := ftReg (ftB f), perm0 := true, perm1 := true
                 auxMask := 0x7C, ok := ftB f ≤ 1, preds := [f.vd.toNat] }
  | .fclass f => { vd := oneReg, vs0 := ftReg (immU f % 4), vs1 := .imm, perm0 := true, ok := immU f ≤ 3 }
  | .fmode f lit => { vd := oneReg, auxMask := 3, ok := auxBits f 0 2 != 3 || lit == 0 }
  -- major 0x11 (R287-R295)
  | .cvtf f => { vd := ffReg (auxBits f 7 3), vs0 := ffReg (auxBits f 4 3), vs1 := .imm, perm0 := true
                 auxMask := 0x3FF
                 ok := f.vs1.toNat < 64 && auxBits f 7 3 ≤ 6 && auxBits f 4 3 ≤ 6 && rmOk f &&
                   bitsOf f.vs1.toNat 3 3 < ffElems (auxBits f 4 3) &&
                   bitsOf f.vs1.toNat 0 3 < ffElems (auxBits f 7 3) }
  | .cvtfi f => { vd := tyReg (auxBits f 4 3), vs0 := ffReg (auxBits f 7 3), vs1 := .imm, perm0 := true
                  auxMask := 0x3FF
                  ok := f.vs1.toNat < 64 && auxBits f 7 3 ≤ 3 && rmOk f && bitsOf f.vs1.toNat 0 3 == 0 &&
                    bitsOf f.vs1.toNat 3 3 < ffElems (auxBits f 7 3) }
  | .cvtif f => { vd := ffReg (auxBits f 7 3), vs0 := tyReg (auxBits f 4 3), vs1 := .imm, perm0 := true
                  auxMask := 0x3FF
                  ok := f.vs1.toNat < 8 && auxBits f 7 3 ≤ 6 && rmOk f &&
                    bitsOf f.vs1.toNat 0 3 < ffElems (auxBits f 7 3) }
  | .frnd f => shFloat f false (rmOk f)
  | .fpack2 f => { shFloat f true (2 ≤ ftA f && rmOk f) with vd := oneReg }
  | .funpack2 f => { shFloat f false (2 ≤ ftA f && rmZero f) with vd := pairReg }
  | .qscale f => { vd := oneReg, vs0 := oneReg, perm0 := true, auxMask := 3, ok := auxBits f 0 2 ≤ 2 }
  | .quant f => { vd := oneReg, vs0 := oneReg, vs1 := oneReg, perm0 := true, perm1 := true, auxMask := 0x7EF
                  ok := 2 ≤ auxBits f 5 3 && auxBits f 5 3 ≤ 6 && rmOk f &&
                    auxBits f 8 3 < ffElems (auxBits f 5 3) }
  | .dequant f => { vd := oneReg, vs0 := oneReg, vs1 := oneReg, perm0 := true, perm1 := true, auxMask := 0x3F
                    ok := 4 ≤ auxBits f 3 3 && auxBits f 3 3 ≤ 6 &&
                      auxBits f 0 3 < ffElems (auxBits f 3 3) }
  | .tepack f => { vd := .block (teRegs (auxBits f 4 2)), vs0 := .block 16, perm0 := true, auxMask := 0x3F
                   ok := auxBits f 4 2 != 0 && rmOk f }
  | .teunpack f => { vd := .block 16, vs0 := .block (teRegs (auxBits f 4 2)), perm0 := true, auxMask := 0x3F
                     ok := auxBits f 4 2 != 0 && rmZero f }
  | .fsr f => { vd := oneReg, vs0 := if auxBit f 0 then .unused else oneReg, perm0 := !auxBit f 0
                auxMask := 1 }
  -- major 0x12 (R296, R297)
  | .rcp f | .sqrt f => shSfu f false true
  | .fdiv f => shSfu f true true
  | .rsqrt f | .exp2 f | .log2 f | .sin f | .cos f | .tanh f | .sigm f | .erf f => shSfu f false false
  -- major 0x14 (R305-R308)
  | .jord f => { vs1 := .imm, ok := immU f ≤ 7 }
  | .jseed f => { shJet oneReg (if auxBit f 0 then .unused else oneReg) with auxMask := 1 }
  | .jget f => { shJet .jet .unused with vd := oneReg, vs1 := .imm, ok := immU f ≤ 7 }
  | .jput f => { shJet oneReg .unused with vs1 := .imm, ok := immU f ≤ 7 }
  | .jzero _ => shJet .unused .unused
  | .jadd _ | .jsub _ | .jmul _ => shJet .jet .jet
  | .jfma _ => { shJet .jet .jet with third := .jet }
  | .jscale _ => shJet .jet oneReg
  | .jshift f => { shJet .jet .unused with vs1 := .imm, ok := decide (-8 < immS f ∧ immS f < 8) }
  | .jdfac _ => { shJet .jet .unused with auxMask := 1 }
  | .jflg f => { vd := pairReg, vs0 := if auxBit f 0 then pairReg else .unused, perm0 := auxBit f 0
                 auxMask := 1 }
  -- major 0x15 (R309)
  | .jdiv _ => shJet .jet .jet
  | .jrcp _ | .jsqrt _ | .jrsqrt _ | .jexp _ | .jlog _ | .jsin _ | .jcos _ | .jtanh _ => shJet .jet .unused
  -- majors 0x20, 0x21 (R317-R325)
  | .ld f => { vd := szReg (szOf f), vs0 := baseReg (spOf f), vs1 := .imm, auxMask := 0x7FF
               ok := memCodesOk f false false }
  | .ldv f => { vd := szReg (szOf f), vs0 := baseReg (spOf f), vs1 := .imm, auxMask := 0x7FF
                ok := memCodesOk f false true }
  | .ldview f => { vd := szReg (szOf f), vs0 := pairReg, vs1 := .imm, auxMask := 0x710, ok := szOf f != 7 }
  | .fpop f => { vd := oneReg, vs1 := .imm, ok := immU f ≤ 31 }
  | .pf _ => { vs0 := pairReg, vs1 := .imm, auxMask := 1 }
  | .st f => { vd := szReg (szOf f), vs0 := baseReg (spOf f), vs1 := .imm, auxMask := 0x7FF
               ok := memCodesOk f true false }
  | .stv f => { vd := szReg (szOf f), vs0 := baseReg (spOf f), vs1 := .imm, auxMask := 0x7FF
                ok := memCodesOk f true true }
  | .stflag f => { vd := szReg (szOf f), vs0 := pairReg, vs1 := .imm, auxMask := 0x700, ok := szOf f ≤ 1 }
  | .fpush f => { vd := oneReg, vs1 := .imm, ok := immU f ≤ 31 }
  | .stcsg f => { vd := szReg (szOf f), vs0 := pairReg, vs1 := .imm, auxMask := 0x730
                  ok := szOf f != 4 && szOf f != 6 && szOf f != 7 }
  -- major 0x22 (R326-R330)
  | .atom f => shAtom f true 7
  | .atomr f => shAtom f false 7
  | .cas f => { shAtom f true 1 with ok := atomCodesOk f && auxBits f 8 3 == 0 && !auxBit f 6 }
  | .atomf f => { shAtom f false 5 with
      vd := if auxBit f 7 then oneReg else .unused, vs1 := oneReg
      ok := atomCodesOk f && auxBits f 8 3 ≤ 4 && !auxBit f 6 }
  -- major 0x23 (R331)
  | .csgOpen f | .csgSeal f => shSlot f pairReg 4
  | .csgAbort f => shSlot f .unused 4
  | .viewOpen f => shSlot f .unused 2
  | .viewClose f => { shSlot f (.small 3) 2 with preds := [f.vd.toNat] }
  | .viewStamp f => shSlot f pairReg 2
  -- major 0x24 (R332)
  | .fence f => { auxMask := 0x1F, ok := auxBits f 3 2 != 0 && auxBits f 0 3 ≤ 4 }
  | .fenceSc f => { auxMask := 7, ok := auxBits f 0 3 ≤ 4 }
  | .wait f => { vd := .small 3, vs1 := .imm, ok := 1 ≤ f.vd.toNat && f.vd.toNat ≤ 6 && immU f ≤ 63 }
  | .wb f => { vs0 := if auxBit f 0 then .unused else pairReg, vs1 := if auxBit f 0 then .unused else .imm
               auxMask := 3 }
  | .inv f => { vs0 := if auxBit f 0 then .unused else pairReg, vs1 := if auxBit f 0 then .unused else .imm
                auxMask := 1 }
  -- major 0x2C (R336-R344)
  | .bra _ lit | .call _ lit | .meet _ lit => shOffset lit
  | .brp f _ => { vd := .small 4, preds := [f.vd.toNat % 8] }
  | .brx _ | .callx _ => { vs0 := pairReg, perm0 := true }
  | .ret _ | .exit _ | .nop _ | .yield _ => {}
  | .switch f lit => { vs0 := oneReg, perm0 := true, auxMask := 0x7FF
                       ok := auxBits f 0 3 == 7 || lit.toNat / 2 ^ (4 * (auxBits f 0 3 + 1)) == 0 }
  | .loop _ lit => { vd := .small 1, vs0 := oneReg, perm0 := true, ok := lit.toNat % 4 == 0 }
  -- major 0x2D (R346-R349)
  | .shfl f => { vd := oneReg, vs0 := oneReg, vs1 := oneReg, auxMask := 0x3F, ok := auxBits f 2 3 ≤ 5 }
  | .vote f => { vd := if auxBits f 0 2 ≤ 1 then oneReg else .small 3, vs0 := .small 3, auxMask := 0x3F7
                 ok := if auxBits f 0 2 = 2 then auxBits f 4 6 ≤ 33 else auxBits f 4 6 == 0
                 preds := f.vs0.toNat :: if auxBits f 0 2 ≤ 1 then [] else [f.vd.toNat] }
  | .red f => shRed f false
  | .scan f => shRed f true
  | .matchLanes f => { vd := oneReg, vs0 := if auxBit f 0 then pairReg else oneReg, perm0 := true, auxMask := 1 }
  | .elect f => { vd := .small 3, preds := [f.vd.toNat] }
  -- major 0x30 (R354-R365)
  | .tidSet _ _ => { vd := .small 6, vs0 := oneReg }
  | .tidGet f => { vd := .regs 8 8, vs1 := .imm, ok := immU f ≤ 63 }
  | .mxLdb f => { vd := .small 6, vs0 := pairReg, vs1 := .imm, ok := immU f ≤ 7 }
  | .mxLda f => { vd := .small 6, vs0 := pairReg, vs1 := .imm, auxMask := 7, ok := immU f ≤ 31 }
  | .mxMma f lit => { vs0 := if auxBit f 0 then oneReg else .unused, auxMask := 1
                      ok := bitsOf lit.toNat 30 2 == 0 && bitsOf lit.toNat 16 8 != 0 &&
                        (bitOf lit.toNat 27 || bitsOf lit.toNat 28 2 == 0) }
  | .mxZero f => { vs0 := oneReg, vs1 := .imm, ok := immU f ≤ 63 }
  | .accWin f => { vs0 := oneReg, vs1 := oneReg, auxMask := 0x7FF, ok := !auxBit f 10 || auxBits f 4 6 == 0 }
  | .accPop f => { vd := quadReg, vs1 := .imm, ok := immU f ≤ 3 }
  | .accLd f => { vd := .small 6, vs0 := pairReg, vs1 := .imm, third := oneReg, ok := immU f ≤ 63 }
  | .accSt f => { vd := .small 6, vs0 := pairReg, vs1 := .imm, third := oneReg, auxMask := 15
                  ok := immU f ≤ 63 && rmOk f && auxBits f 0 3 ≤ 3 }
  -- majors 0x34, 0x35 (R369-R381)
  | .cpTile _ => { vd := .small 3, vs0 := pairReg, vs1 := quadReg, auxMask := 0x7FF }
  | .cpLin f => { vd := .small 3, vs0 := quadReg, vs1 := oneReg, auxMask := 0x1F8, ok := auxBits f 7 2 != 3 }
  | .cpMcast _ => { vd := .small 3, vs0 := quadReg, vs1 := pairReg, auxMask := 0x7FF }
  | .cpWptr f => { vd := oneReg, vs1 := .imm, ok := immU f ≤ 7 }
  | .cpCancel f => { vs1 := .imm, auxMask := 1, ok := immU f ≤ 7 }
  | .chain _ => { vs0 := pairReg }
  | .chainStat f => { vd := oneReg, vs1 := .imm, ok := immU f ≤ 1 }
  -- major 0x38 (R383)
  | .barInit _ => { vs0 := oneReg, vs1 := oneReg }
  | .barArrive f => { vd := oneReg, vs0 := oneReg, vs1 := if auxBit f 1 then oneReg else .unused, auxMask := 3
                      ok := auxBits f 0 2 != 3 }
  | .barWait _ => { vs0 := oneReg, vs1 := oneReg }
  | .barExpect _ => { vs0 := oneReg, vs1 := oneReg, auxMask := 1 }
  | .barTry f => { vd := .small 3, vs0 := oneReg, vs1 := oneReg, preds := [f.vd.toNat] }
  | .gbar _ => { auxMask := 0xFF }
  | .gridbar _ => {}
  -- major 0x39 (R390)
  | .trap f | .brk f => shSys f .unused 0 128
  | .featq f => shSys f oneReg 0 128
  | .clock f => shSys f pairReg 0 3
  | .emtr f => shSys f pairReg 0 4
  | .opreq f => shSys f oneReg 0 16
  | .prog f => shSys f .unused 0 16
  | .sleep f => shSys f .unused 1 128
  -- events carry no fields of an instruction word
  | .headerPass _ _ _ | .starvationOverride _ _ | .pcOverride _ _ | .yieldExpiry _ _ _ | .sleepExpiry _ _ _
  | .registerRelease _ _ | .blockEnd _ _ | .walkComplete _ _ | .walkRead _ _ | .adUpdate _ _
  | .heldRequestWrite _ | .retry _ | .deliver _ | .abortRsp _ | .tlbiNop _ _ | .tlbiRangeCtx _ _
  | .tlbiRangeAll _ _ | .tlbiCtx _ _ | .tlbiFunction _ _ | .tlbiStage2Range _ _ | .tlbiFunctionPf _ _
  | .tlbiComplete _ | .bankmodeReq _ _ _ | .bankDrain _ _ | .copyStep _ _ | .copyCommandBegin _ _
  | .chainCommandBegin _ | .chainElement _ | .mxCommandBegin _ | .mxCommandComplete _ | .queueRowEnter _ _
  | .lineFill _ _ | .missRegisterGrant _ | .evictionAccepted _ _ | .evictionPromotion _ _ | .escapeMove _ _
  | .promotionRequest _ _ | .promotionAck _ _ | .l1Writeback _ _ | .flushingReadComplete _ _ _
  | .heartbeatTick | .fabricCadenceTick | .fenceScComplete _ _ _ | .timeLockChange _ | .remoteAck _ _
  | .remoteResponse _ _ _ | .stflagDepart _ _ _ | .remoteRequestArrival _ | .refusal _ _ | .requestTimeout _
  | .invalidation _ _ | .exportInvalidationAck _ | .recall _ _ | .slotTransmit _ | .slotReceive _ _
  | .replayTimeout _ | .retrainComplete _ | .retrainTimeout _ | .keyRotation _ _ | .lineHomeStcsg _ _ _ _
  | .sealRecord _ _ _ | .sealNotice _ _ _ | .sealNoticeAck _ _ _ _ | .restoreTags _ _ | .abortComplete _ _ _
  | .lwmReport _ | .lwmBroadcast _ | .lwmReceive _ _ _ | .tagSweep _ _ | .sqTail _ _ _ | .launch _ _
  | .signalEntry _ _ | .dependenceRead _ _ | .entryComplete _ _ | .cqHead _ _ _ | .dispatchSelect
  | .coopWaitLimit _ _ | .fairnessPreempt | .slewBatch | .clusterAdmit _ | .tick | .correctionWindow
  | .corrCtl _ | .sharedUncoreCharge | .vfMeterUpdate _ | .meterLoRead _ _ | .meterHiRead _ _
  | .meterRead64 _ _ | .meterMigrationWrite _ _ _ | .opTransition _ | .voltageRampDone _ | .clockSwitchDone _
  | .powerCheck _ | .pkgOc | .partOc _ | .undervolt _ | .overtemp | .slewAlarm | .alarmActionEnd _ _
  | .pwrAlarmWrite _ | .demandSend _ | .demandReceive _ _ _ _ _ | .grantCompute | .grantReceive _ _ _ _
  | .grantLapse | .stepStart _ | .trapRingRetry _ | .gangCtl _ _ _ | .dbgDataRead _ | .dbgDataWrite _ _
  | .userHandler _ | .handlerTimeout _ | .ctxPreempt _ _ | .ctxCmdEnd _ _ | .contextSave _ _
  | .contextResume _ _ | .sessionClaim _ _ _ _ | .sessionRelease _ _ _ _ | .sessionStart _ _ _ _
  | .sessionStop _ _ _ _ | .sessionRestore _ _ _ _ | .sessionClear _ _ _ _ | .pcSample _ _ | .trialEnd _
  | .captureSample _ _ _ | .hcuClear _ _ _ | .ctxCreate _ | .ctxDestroy _ | .ctxOpEnd _
  | .descriptorWrite _ _ _ | .coldReset | .warmReset | .hotReset | .functionLevelReset _ | .boot _
  | .msixUnmask _ _ | .mbxStatus _ _ _ | .signedMeterReading _ _ _ | .spdmMessage _ _ _ | .stageImage _ _ _
  | .activateSlot _ _ _ | .writeConfigurationRecord _ _ _ | .readConfigurationRecord _ _ _
  | .mbxWarmReset _ _ _ | .semAcquire _ | .semRelease _ | .semRenew _ | .semTimeout | .translatorRequest _ _
  | .translatorDone _ | .hostWrite _ _ | .registerWrite _ _ _ _ | .illegalInstruction
  | .localAccessResponse _ _ _ _ | .softError _ _ | .patrolScrubbing _ _ | .functionLevelResetEnd _
  | .vfOpmaxWrite _ _ | .tlbiCmdRefused _ _ | .badCmd _ _ _ | .recordRead _ _ _ _ _
  | .recordReadAnswer _ _ _ _ | .sqCtlEnable _ _ _ | .xcBaseEnable _ _ | .sessionCmdRefused _ _ _ _
  | .ctxOpRefused _ _ => {}

/-- The fields of an instruction; none for an event. -/
def fieldsOf : Instr → Option Fields
  | .add f | .sub f | .addc f | .subc f | .neg f | .abs f | .min f | .max f | .mul f | .mulhi f | .mulw f
  | .mad f | .madhi f | .sad f | .avg f | .clamp f | .and f | .or f | .xor f | .andn f | .not f | .lop3 f
  | .shl f | .shr f | .sar f | .rotl f | .rotr f | .shf f | .bfe f | .bfi f | .brev f | .popc f | .clz f
  | .ffs f | .div f | .rem f | .ext f | .sat f | .pack f | .unpack f | .mov f | .movl f _ | .sel f | .sreg f
  | .lea f | .wadd f | .xset f _ | .xmov f | .xadd f | .xget f | .icmp f | .icmpc f | .pand f | .por f
  | .pxor f | .pnot f | .pset f | .pget f | .fadd f | .fsub f | .fmul f | .fma f | .fms f | .fnma f | .fmin f
  | .fmax f | .fabs f | .fneg f | .fclamp f | .fdot2 f | .fdot4 f | .fcmp f | .fclass f | .fmode f _
  | .cvtf f | .cvtfi f | .cvtif f | .frnd f | .fpack2 f | .funpack2 f | .qscale f | .quant f | .dequant f
  | .tepack f | .teunpack f | .fsr f | .rcp f | .rsqrt f | .sqrt f | .fdiv f | .exp2 f | .log2 f | .sin f
  | .cos f | .tanh f | .sigm f | .erf f | .jord f | .jseed f | .jget f | .jput f | .jzero f | .jadd f
  | .jsub f | .jmul f | .jfma f | .jscale f | .jshift f | .jdfac f | .jflg f | .jdiv f | .jrcp f | .jsqrt f
  | .jrsqrt f | .jexp f | .jlog f | .jsin f | .jcos f | .jtanh f | .ld f | .ldv f | .ldview f | .fpop f
  | .pf f | .st f | .stv f | .stflag f | .fpush f | .stcsg f | .atom f | .cas f | .atomr f | .atomf f
  | .csgOpen f | .csgSeal f | .csgAbort f | .viewOpen f | .viewClose f | .viewStamp f | .fence f | .fenceSc f
  | .wait f | .wb f | .inv f | .bra f _ | .brp f _ | .brx f | .call f _ | .callx f | .ret f | .switch f _
  | .exit f | .meet f _ | .loop f _ | .nop f | .yield f | .shfl f | .vote f | .red f | .scan f
  | .matchLanes f | .elect f | .tidSet f _ | .tidGet f | .mxLdb f | .mxLda f | .mxMma f _ | .mxZero f
  | .accWin f | .accPop f | .accLd f | .accSt f | .cpTile f | .cpLin f | .cpMcast f | .cpWptr f | .cpCancel f
  | .chain f | .chainStat f | .barInit f | .barArrive f | .barWait f | .barExpect f | .barTry f | .gbar f
  | .gridbar f | .trap f | .brk f | .featq f | .clock f | .emtr f | .opreq f | .prog f | .sleep f => some f
  | .headerPass _ _ _ | .starvationOverride _ _ | .pcOverride _ _ | .yieldExpiry _ _ _ | .sleepExpiry _ _ _
  | .registerRelease _ _ | .blockEnd _ _ | .walkComplete _ _ | .walkRead _ _ | .adUpdate _ _
  | .heldRequestWrite _ | .retry _ | .deliver _ | .abortRsp _ | .tlbiNop _ _ | .tlbiRangeCtx _ _
  | .tlbiRangeAll _ _ | .tlbiCtx _ _ | .tlbiFunction _ _ | .tlbiStage2Range _ _ | .tlbiFunctionPf _ _
  | .tlbiComplete _ | .bankmodeReq _ _ _ | .bankDrain _ _ | .copyStep _ _ | .copyCommandBegin _ _
  | .chainCommandBegin _ | .chainElement _ | .mxCommandBegin _ | .mxCommandComplete _ | .queueRowEnter _ _
  | .lineFill _ _ | .missRegisterGrant _ | .evictionAccepted _ _ | .evictionPromotion _ _ | .escapeMove _ _
  | .promotionRequest _ _ | .promotionAck _ _ | .l1Writeback _ _ | .flushingReadComplete _ _ _
  | .heartbeatTick | .fabricCadenceTick | .fenceScComplete _ _ _ | .timeLockChange _ | .remoteAck _ _
  | .remoteResponse _ _ _ | .stflagDepart _ _ _ | .remoteRequestArrival _ | .refusal _ _ | .requestTimeout _
  | .invalidation _ _ | .exportInvalidationAck _ | .recall _ _ | .slotTransmit _ | .slotReceive _ _
  | .replayTimeout _ | .retrainComplete _ | .retrainTimeout _ | .keyRotation _ _ | .lineHomeStcsg _ _ _ _
  | .sealRecord _ _ _ | .sealNotice _ _ _ | .sealNoticeAck _ _ _ _ | .restoreTags _ _ | .abortComplete _ _ _
  | .lwmReport _ | .lwmBroadcast _ | .lwmReceive _ _ _ | .tagSweep _ _ | .sqTail _ _ _ | .launch _ _
  | .signalEntry _ _ | .dependenceRead _ _ | .entryComplete _ _ | .cqHead _ _ _ | .dispatchSelect
  | .coopWaitLimit _ _ | .fairnessPreempt | .slewBatch | .clusterAdmit _ | .tick | .correctionWindow
  | .corrCtl _ | .sharedUncoreCharge | .vfMeterUpdate _ | .meterLoRead _ _ | .meterHiRead _ _
  | .meterRead64 _ _ | .meterMigrationWrite _ _ _ | .opTransition _ | .voltageRampDone _ | .clockSwitchDone _
  | .powerCheck _ | .pkgOc | .partOc _ | .undervolt _ | .overtemp | .slewAlarm | .alarmActionEnd _ _
  | .pwrAlarmWrite _ | .demandSend _ | .demandReceive _ _ _ _ _ | .grantCompute | .grantReceive _ _ _ _
  | .grantLapse | .stepStart _ | .trapRingRetry _ | .gangCtl _ _ _ | .dbgDataRead _ | .dbgDataWrite _ _
  | .userHandler _ | .handlerTimeout _ | .ctxPreempt _ _ | .ctxCmdEnd _ _ | .contextSave _ _
  | .contextResume _ _ | .sessionClaim _ _ _ _ | .sessionRelease _ _ _ _ | .sessionStart _ _ _ _
  | .sessionStop _ _ _ _ | .sessionRestore _ _ _ _ | .sessionClear _ _ _ _ | .pcSample _ _ | .trialEnd _
  | .captureSample _ _ _ | .hcuClear _ _ _ | .ctxCreate _ | .ctxDestroy _ | .ctxOpEnd _
  | .descriptorWrite _ _ _ | .coldReset | .warmReset | .hotReset | .functionLevelReset _ | .boot _
  | .msixUnmask _ _ | .mbxStatus _ _ _ | .signedMeterReading _ _ _ | .spdmMessage _ _ _ | .stageImage _ _ _
  | .activateSlot _ _ _ | .writeConfigurationRecord _ _ _ | .readConfigurationRecord _ _ _
  | .mbxWarmReset _ _ _ | .semAcquire _ | .semRelease _ | .semRenew _ | .semTimeout | .translatorRequest _ _
  | .translatorDone _ | .hostWrite _ _ | .registerWrite _ _ _ _ | .illegalInstruction
  | .localAccessResponse _ _ _ _ | .softError _ _ | .patrolScrubbing _ _ | .functionLevelResetEnd _
  | .vfOpmaxWrite _ _ | .tlbiCmdRefused _ _ | .badCmd _ _ _ | .recordRead _ _ _ _ _
  | .recordReadAnswer _ _ _ _ | .sqCtlEnable _ _ _ | .xcBaseEnable _ _ | .sessionCmdRefused _ _ _ _
  | .ctxOpRefused _ _ => none

end Sys2Proof.Machine
end

