-- ==== Sys2Proof/WellFormed.lean ====
section
/-! DEFINITION. Well-formed instructions: those whose word takes no illegal-instruction trap (10:R205, R240-R246).
Each check has its own name, so that a refused word can be rejected by name. Events are always well-formed: their
arguments are judged where they are performed. -/

namespace Sys2Proof

/-- Why a word is refused (R245). -/
inductive Reject where
  /-- A reserved major or an unassigned minor. -/
  | unassigned
  /-- The words end inside the instruction. -/
  | truncated
  /-- GNEG or GPRED nonzero with GEN = 0 (R243). -/
  | guardBits
  /-- A permutation encoding refused by R205, R244, R300, R346, R350 or R367. -/
  | permutation
  /-- A nonzero unused field (R240) or undefined AUX bit (R242). -/
  | unusedField
  /-- A reserved code or immediate of the instruction's own description (R246 item 1). -/
  | reservedCode
  deriving DecidableEq, Repr

/-- The permutation of an absent extension word. -/
def Fields.plain (f : Fields) : Bool :=
  f.guard == ⟨false, false, 0⟩ && f.perm0 == .ident && f.perm1 == .ident && f.aux == 0

/-- R243: with GEN = 0, GNEG and GPRED are zero. -/
def Fields.guardOk (f : Fields) : Bool := f.guard.en || (!f.guard.neg && f.guard.pred == 0)

/-- A permutation has an encoding of R204 (R205). -/
def Perm.wf : Perm → Bool
  | .xor m => m != 0
  | .mir k => 1 ≤ k.toNat && k.toNat ≤ 5
  | _ => true

/-- A permutation is legal on a source: `has` says the source passes the crossbar; an indexed operand has a zero
register field (R205) and is no jet (R300). -/
def permOk (has : Bool) (o : Machine.Opnd) (reg : BitVec 7) : Perm → Bool
  | .ident => true
  | .idx _ _ => has && o != .jet && reg == 0
  | p => has && p.wf

/-- A register field holds what its operand allows (R240). -/
def fieldOk : Machine.Opnd → BitVec 7 → Bool
  | .unused, r => r == 0
  | .small b, r => r.toNat < 2 ^ b
  | _, _ => true

/-- The AUX bits an instruction defines (R242). -/
def auxDefined (sh : Machine.Shape) : Nat := if sh.third = .unused then sh.auxMask else sh.auxMask ||| 0x7F0

/-- The first check that refuses an instruction word of a shape. -/
def judgeFields (f : Fields) (sh : Machine.Shape) : Option Reject :=
  if !f.guardOk then some .guardBits
  else if !(permOk sh.perm0 sh.vs0 f.vs0 f.perm0 && permOk sh.perm1 sh.vs1 f.vs1 f.perm1) then some .permutation
  else if !(fieldOk sh.vd f.vd && fieldOk sh.vs0 f.vs0 && fieldOk sh.vs1 f.vs1 &&
      f.aux.toNat ||| auxDefined sh == auxDefined sh) then some .unusedField
  else if !sh.ok then some .reservedCode
  else none

/-- The judgement of an instruction (R246 item 1); none for a legal one and for every event. -/
def Instr.judge (i : Instr) : Option Reject :=
  match Machine.fieldsOf i with
  | none => none
  | some f => judgeFields f (Machine.shape i)

/-- An instruction is well-formed when no check refuses it and an absent extension word is plain (R241). -/
def Instr.wf (i : Instr) : Bool :=
  match Machine.fieldsOf i with
  | none => true
  | some f => (f.x || f.plain) && i.judge == none

end Sys2Proof
end

