-- ==== Sys2Proof/Decode.lean ====
section
/-! DEFINITION. The decoder (10:R233-R248): instruction words to instructions, rejecting by name what takes an
illegal-instruction trap; the length, class and transfer judgements of a clause (R234, R235); and after them the
encoder, written from the same tables. -/

namespace Sys2Proof

open Machine

/-- The instruction at a major and minor opcode, with its fields and literal (R248). -/
def ofCode (major minor : Nat) (f : Fields) (lit : BitVec 32) : Option Instr :=
  match major, minor with
  | 0x01, 0 => some (.add f)
  | 0x01, 1 => some (.sub f)
  | 0x01, 2 => some (.addc f)
  | 0x01, 3 => some (.subc f)
  | 0x01, 4 => some (.neg f)
  | 0x01, 5 => some (.abs f)
  | 0x01, 6 => some (.min f)
  | 0x01, 7 => some (.max f)
  | 0x01, 8 => some (.mul f)
  | 0x01, 9 => some (.mulhi f)
  | 0x01, 10 => some (.mulw f)
  | 0x01, 11 => some (.mad f)
  | 0x01, 12 => some (.madhi f)
  | 0x01, 13 => some (.sad f)
  | 0x01, 14 => some (.avg f)
  | 0x01, 15 => some (.clamp f)
  | 0x02, 0 => some (.and f)
  | 0x02, 1 => some (.or f)
  | 0x02, 2 => some (.xor f)
  | 0x02, 3 => some (.andn f)
  | 0x02, 4 => some (.not f)
  | 0x02, 5 => some (.lop3 f)
  | 0x02, 6 => some (.shl f)
  | 0x02, 7 => some (.shr f)
  | 0x02, 8 => some (.sar f)
  | 0x02, 9 => some (.rotl f)
  | 0x02, 10 => some (.rotr f)
  | 0x02, 11 => some (.shf f)
  | 0x02, 12 => some (.bfe f)
  | 0x02, 13 => some (.bfi f)
  | 0x02, 14 => some (.brev f)
  | 0x02, 15 => some (.popc f)
  | 0x03, 0 => some (.clz f)
  | 0x03, 1 => some (.ffs f)
  | 0x03, 2 => some (.div f)
  | 0x03, 3 => some (.rem f)
  | 0x03, 4 => some (.ext f)
  | 0x03, 5 => some (.sat f)
  | 0x03, 6 => some (.pack f)
  | 0x03, 7 => some (.unpack f)
  | 0x03, 8 => some (.mov f)
  | 0x03, 9 => some (.movl f lit)
  | 0x03, 10 => some (.sel f)
  | 0x03, 11 => some (.sreg f)
  | 0x03, 12 => some (.lea f)
  | 0x03, 13 => some (.wadd f)
  | 0x04, 0 => some (.xset f lit)
  | 0x04, 1 => some (.xmov f)
  | 0x04, 2 => some (.xadd f)
  | 0x04, 3 => some (.xget f)
  | 0x05, 0 => some (.icmp f)
  | 0x05, 1 => some (.icmpc f)
  | 0x05, 2 => some (.pand f)
  | 0x05, 3 => some (.por f)
  | 0x05, 4 => some (.pxor f)
  | 0x05, 5 => some (.pnot f)
  | 0x05, 6 => some (.pset f)
  | 0x05, 7 => some (.pget f)
  | 0x10, 0 => some (.fadd f)
  | 0x10, 1 => some (.fsub f)
  | 0x10, 2 => some (.fmul f)
  | 0x10, 3 => some (.fma f)
  | 0x10, 4 => some (.fms f)
  | 0x10, 5 => some (.fnma f)
  | 0x10, 6 => some (.fmin f)
  | 0x10, 7 => some (.fmax f)
  | 0x10, 8 => some (.fabs f)
  | 0x10, 9 => some (.fneg f)
  | 0x10, 10 => some (.fclamp f)
  | 0x10, 11 => some (.fdot2 f)
  | 0x10, 12 => some (.fdot4 f)
  | 0x10, 13 => some (.fcmp f)
  | 0x10, 14 => some (.fclass f)
  | 0x10, 15 => some (.fmode f lit)
  | 0x11, 0 => some (.cvtf f)
  | 0x11, 1 => some (.cvtfi f)
  | 0x11, 2 => some (.cvtif f)
  | 0x11, 3 => some (.frnd f)
  | 0x11, 4 => some (.fpack2 f)
  | 0x11, 5 => some (.funpack2 f)
  | 0x11, 6 => some (.qscale f)
  | 0x11, 7 => some (.quant f)
  | 0x11, 8 => some (.dequant f)
  | 0x11, 9 => some (.tepack f)
  | 0x11, 10 => some (.teunpack f)
  | 0x11, 11 => some (.fsr f)
  | 0x12, 0 => some (.rcp f)
  | 0x12, 1 => some (.rsqrt f)
  | 0x12, 2 => some (.sqrt f)
  | 0x12, 3 => some (.fdiv f)
  | 0x12, 4 => some (.exp2 f)
  | 0x12, 5 => some (.log2 f)
  | 0x12, 6 => some (.sin f)
  | 0x12, 7 => some (.cos f)
  | 0x12, 8 => some (.tanh f)
  | 0x12, 9 => some (.sigm f)
  | 0x12, 10 => some (.erf f)
  | 0x14, 0 => some (.jord f)
  | 0x14, 1 => some (.jseed f)
  | 0x14, 2 => some (.jget f)
  | 0x14, 3 => some (.jput f)
  | 0x14, 4 => some (.jzero f)
  | 0x14, 5 => some (.jadd f)
  | 0x14, 6 => some (.jsub f)
  | 0x14, 7 => some (.jmul f)
  | 0x14, 8 => some (.jfma f)
  | 0x14, 9 => some (.jscale f)
  | 0x14, 10 => some (.jshift f)
  | 0x14, 11 => some (.jdfac f)
  | 0x14, 12 => some (.jflg f)
  | 0x15, 0 => some (.jdiv f)
  | 0x15, 1 => some (.jrcp f)
  | 0x15, 2 => some (.jsqrt f)
  | 0x15, 3 => some (.jrsqrt f)
  | 0x15, 4 => some (.jexp f)
  | 0x15, 5 => some (.jlog f)
  | 0x15, 6 => some (.jsin f)
  | 0x15, 7 => some (.jcos f)
  | 0x15, 8 => some (.jtanh f)
  | 0x20, 0 => some (.ld f)
  | 0x20, 1 => some (.ldv f)
  | 0x20, 2 => some (.ldview f)
  | 0x20, 3 => some (.fpop f)
  | 0x20, 4 => some (.pf f)
  | 0x21, 0 => some (.st f)
  | 0x21, 1 => some (.stv f)
  | 0x21, 2 => some (.stflag f)
  | 0x21, 3 => some (.fpush f)
  | 0x21, 4 => some (.stcsg f)
  | 0x22, 0 => some (.atom f)
  | 0x22, 1 => some (.cas f)
  | 0x22, 2 => some (.atomr f)
  | 0x22, 3 => some (.atomf f)
  | 0x23, 0 => some (.csgOpen f)
  | 0x23, 1 => some (.csgSeal f)
  | 0x23, 2 => some (.csgAbort f)
  | 0x23, 3 => some (.viewOpen f)
  | 0x23, 4 => some (.viewClose f)
  | 0x23, 5 => some (.viewStamp f)
  | 0x24, 0 => some (.fence f)
  | 0x24, 1 => some (.fenceSc f)
  | 0x24, 2 => some (.wait f)
  | 0x24, 3 => some (.wb f)
  | 0x24, 4 => some (.inv f)
  | 0x2c, 0 => some (.bra f lit)
  | 0x2c, 1 => some (.brp f lit)
  | 0x2c, 2 => some (.brx f)
  | 0x2c, 3 => some (.call f lit)
  | 0x2c, 4 => some (.callx f)
  | 0x2c, 5 => some (.ret f)
  | 0x2c, 6 => some (.switch f lit)
  | 0x2c, 7 => some (.exit f)
  | 0x2c, 8 => some (.meet f lit)
  | 0x2c, 9 => some (.loop f lit)
  | 0x2c, 10 => some (.nop f)
  | 0x2c, 11 => some (.yield f)
  | 0x2d, 0 => some (.shfl f)
  | 0x2d, 1 => some (.vote f)
  | 0x2d, 2 => some (.red f)
  | 0x2d, 3 => some (.scan f)
  | 0x2d, 4 => some (.matchLanes f)
  | 0x2d, 5 => some (.elect f)
  | 0x30, 0 => some (.tidSet f lit)
  | 0x30, 1 => some (.tidGet f)
  | 0x30, 2 => some (.mxLdb f)
  | 0x30, 3 => some (.mxLda f)
  | 0x30, 4 => some (.mxMma f lit)
  | 0x30, 5 => some (.mxZero f)
  | 0x30, 6 => some (.accWin f)
  | 0x30, 7 => some (.accPop f)
  | 0x30, 8 => some (.accLd f)
  | 0x30, 9 => some (.accSt f)
  | 0x34, 0 => some (.cpTile f)
  | 0x34, 1 => some (.cpLin f)
  | 0x34, 2 => some (.cpMcast f)
  | 0x34, 3 => some (.cpWptr f)
  | 0x34, 4 => some (.cpCancel f)
  | 0x35, 0 => some (.chain f)
  | 0x35, 1 => some (.chainStat f)
  | 0x38, 0 => some (.barInit f)
  | 0x38, 1 => some (.barArrive f)
  | 0x38, 2 => some (.barWait f)
  | 0x38, 3 => some (.barExpect f)
  | 0x38, 4 => some (.barTry f)
  | 0x38, 5 => some (.gbar f)
  | 0x38, 6 => some (.gridbar f)
  | 0x39, 0 => some (.trap f)
  | 0x39, 1 => some (.brk f)
  | 0x39, 2 => some (.featq f)
  | 0x39, 3 => some (.clock f)
  | 0x39, 4 => some (.emtr f)
  | 0x39, 5 => some (.opreq f)
  | 0x39, 6 => some (.prog f)
  | 0x39, 7 => some (.sleep f)
  | _, _ => none

/-- The major and minor opcode of an instruction (R248); none for an event. -/
def codeOf : Instr → Option (Nat × Nat)
  | .add _ => some (0x01, 0)
  | .sub _ => some (0x01, 1)
  | .addc _ => some (0x01, 2)
  | .subc _ => some (0x01, 3)
  | .neg _ => some (0x01, 4)
  | .abs _ => some (0x01, 5)
  | .min _ => some (0x01, 6)
  | .max _ => some (0x01, 7)
  | .mul _ => some (0x01, 8)
  | .mulhi _ => some (0x01, 9)
  | .mulw _ => some (0x01, 10)
  | .mad _ => some (0x01, 11)
  | .madhi _ => some (0x01, 12)
  | .sad _ => some (0x01, 13)
  | .avg _ => some (0x01, 14)
  | .clamp _ => some (0x01, 15)
  | .and _ => some (0x02, 0)
  | .or _ => some (0x02, 1)
  | .xor _ => some (0x02, 2)
  | .andn _ => some (0x02, 3)
  | .not _ => some (0x02, 4)
  | .lop3 _ => some (0x02, 5)
  | .shl _ => some (0x02, 6)
  | .shr _ => some (0x02, 7)
  | .sar _ => some (0x02, 8)
  | .rotl _ => some (0x02, 9)
  | .rotr _ => some (0x02, 10)
  | .shf _ => some (0x02, 11)
  | .bfe _ => some (0x02, 12)
  | .bfi _ => some (0x02, 13)
  | .brev _ => some (0x02, 14)
  | .popc _ => some (0x02, 15)
  | .clz _ => some (0x03, 0)
  | .ffs _ => some (0x03, 1)
  | .div _ => some (0x03, 2)
  | .rem _ => some (0x03, 3)
  | .ext _ => some (0x03, 4)
  | .sat _ => some (0x03, 5)
  | .pack _ => some (0x03, 6)
  | .unpack _ => some (0x03, 7)
  | .mov _ => some (0x03, 8)
  | .movl _ _ => some (0x03, 9)
  | .sel _ => some (0x03, 10)
  | .sreg _ => some (0x03, 11)
  | .lea _ => some (0x03, 12)
  | .wadd _ => some (0x03, 13)
  | .xset _ _ => some (0x04, 0)
  | .xmov _ => some (0x04, 1)
  | .xadd _ => some (0x04, 2)
  | .xget _ => some (0x04, 3)
  | .icmp _ => some (0x05, 0)
  | .icmpc _ => some (0x05, 1)
  | .pand _ => some (0x05, 2)
  | .por _ => some (0x05, 3)
  | .pxor _ => some (0x05, 4)
  | .pnot _ => some (0x05, 5)
  | .pset _ => some (0x05, 6)
  | .pget _ => some (0x05, 7)
  | .fadd _ => some (0x10, 0)
  | .fsub _ => some (0x10, 1)
  | .fmul _ => some (0x10, 2)
  | .fma _ => some (0x10, 3)
  | .fms _ => some (0x10, 4)
  | .fnma _ => some (0x10, 5)
  | .fmin _ => some (0x10, 6)
  | .fmax _ => some (0x10, 7)
  | .fabs _ => some (0x10, 8)
  | .fneg _ => some (0x10, 9)
  | .fclamp _ => some (0x10, 10)
  | .fdot2 _ => some (0x10, 11)
  | .fdot4 _ => some (0x10, 12)
  | .fcmp _ => some (0x10, 13)
  | .fclass _ => some (0x10, 14)
  | .fmode _ _ => some (0x10, 15)
  | .cvtf _ => some (0x11, 0)
  | .cvtfi _ => some (0x11, 1)
  | .cvtif _ => some (0x11, 2)
  | .frnd _ => some (0x11, 3)
  | .fpack2 _ => some (0x11, 4)
  | .funpack2 _ => some (0x11, 5)
  | .qscale _ => some (0x11, 6)
  | .quant _ => some (0x11, 7)
  | .dequant _ => some (0x11, 8)
  | .tepack _ => some (0x11, 9)
  | .teunpack _ => some (0x11, 10)
  | .fsr _ => some (0x11, 11)
  | .rcp _ => some (0x12, 0)
  | .rsqrt _ => some (0x12, 1)
  | .sqrt _ => some (0x12, 2)
  | .fdiv _ => some (0x12, 3)
  | .exp2 _ => some (0x12, 4)
  | .log2 _ => some (0x12, 5)
  | .sin _ => some (0x12, 6)
  | .cos _ => some (0x12, 7)
  | .tanh _ => some (0x12, 8)
  | .sigm _ => some (0x12, 9)
  | .erf _ => some (0x12, 10)
  | .jord _ => some (0x14, 0)
  | .jseed _ => some (0x14, 1)
  | .jget _ => some (0x14, 2)
  | .jput _ => some (0x14, 3)
  | .jzero _ => some (0x14, 4)
  | .jadd _ => some (0x14, 5)
  | .jsub _ => some (0x14, 6)
  | .jmul _ => some (0x14, 7)
  | .jfma _ => some (0x14, 8)
  | .jscale _ => some (0x14, 9)
  | .jshift _ => some (0x14, 10)
  | .jdfac _ => some (0x14, 11)
  | .jflg _ => some (0x14, 12)
  | .jdiv _ => some (0x15, 0)
  | .jrcp _ => some (0x15, 1)
  | .jsqrt _ => some (0x15, 2)
  | .jrsqrt _ => some (0x15, 3)
  | .jexp _ => some (0x15, 4)
  | .jlog _ => some (0x15, 5)
  | .jsin _ => some (0x15, 6)
  | .jcos _ => some (0x15, 7)
  | .jtanh _ => some (0x15, 8)
  | .ld _ => some (0x20, 0)
  | .ldv _ => some (0x20, 1)
  | .ldview _ => some (0x20, 2)
  | .fpop _ => some (0x20, 3)
  | .pf _ => some (0x20, 4)
  | .st _ => some (0x21, 0)
  | .stv _ => some (0x21, 1)
  | .stflag _ => some (0x21, 2)
  | .fpush _ => some (0x21, 3)
  | .stcsg _ => some (0x21, 4)
  | .atom _ => some (0x22, 0)
  | .cas _ => some (0x22, 1)
  | .atomr _ => some (0x22, 2)
  | .atomf _ => some (0x22, 3)
  | .csgOpen _ => some (0x23, 0)
  | .csgSeal _ => some (0x23, 1)
  | .csgAbort _ => some (0x23, 2)
  | .viewOpen _ => some (0x23, 3)
  | .viewClose _ => some (0x23, 4)
  | .viewStamp _ => some (0x23, 5)
  | .fence _ => some (0x24, 0)
  | .fenceSc _ => some (0x24, 1)
  | .wait _ => some (0x24, 2)
  | .wb _ => some (0x24, 3)
  | .inv _ => some (0x24, 4)
  | .bra _ _ => some (0x2c, 0)
  | .brp _ _ => some (0x2c, 1)
  | .brx _ => some (0x2c, 2)
  | .call _ _ => some (0x2c, 3)
  | .callx _ => some (0x2c, 4)
  | .ret _ => some (0x2c, 5)
  | .switch _ _ => some (0x2c, 6)
  | .exit _ => some (0x2c, 7)
  | .meet _ _ => some (0x2c, 8)
  | .loop _ _ => some (0x2c, 9)
  | .nop _ => some (0x2c, 10)
  | .yield _ => some (0x2c, 11)
  | .shfl _ => some (0x2d, 0)
  | .vote _ => some (0x2d, 1)
  | .red _ => some (0x2d, 2)
  | .scan _ => some (0x2d, 3)
  | .matchLanes _ => some (0x2d, 4)
  | .elect _ => some (0x2d, 5)
  | .tidSet _ _ => some (0x30, 0)
  | .tidGet _ => some (0x30, 1)
  | .mxLdb _ => some (0x30, 2)
  | .mxLda _ => some (0x30, 3)
  | .mxMma _ _ => some (0x30, 4)
  | .mxZero _ => some (0x30, 5)
  | .accWin _ => some (0x30, 6)
  | .accPop _ => some (0x30, 7)
  | .accLd _ => some (0x30, 8)
  | .accSt _ => some (0x30, 9)
  | .cpTile _ => some (0x34, 0)
  | .cpLin _ => some (0x34, 1)
  | .cpMcast _ => some (0x34, 2)
  | .cpWptr _ => some (0x34, 3)
  | .cpCancel _ => some (0x34, 4)
  | .chain _ => some (0x35, 0)
  | .chainStat _ => some (0x35, 1)
  | .barInit _ => some (0x38, 0)
  | .barArrive _ => some (0x38, 1)
  | .barWait _ => some (0x38, 2)
  | .barExpect _ => some (0x38, 3)
  | .barTry _ => some (0x38, 4)
  | .gbar _ => some (0x38, 5)
  | .gridbar _ => some (0x38, 6)
  | .trap _ => some (0x39, 0)
  | .brk _ => some (0x39, 1)
  | .featq _ => some (0x39, 2)
  | .clock _ => some (0x39, 3)
  | .emtr _ => some (0x39, 4)
  | .opreq _ => some (0x39, 5)
  | .prog _ => some (0x39, 6)
  | .sleep _ => some (0x39, 7)
  | _ => none

/-- The literal of an L-form instruction; zero otherwise (R239). -/
def litOf : Instr → BitVec 32
  | .movl _ l => l
  | .xset _ l => l
  | .fmode _ l => l
  | .bra _ l => l
  | .brp _ l => l
  | .call _ l => l
  | .switch _ l => l
  | .meet _ l => l
  | .loop _ l => l
  | .tidSet _ l => l
  | .mxMma _ l => l
  | _ => 0

/-- The L-form opcodes (R248). -/
def isL (major minor : Nat) : Bool :=
  match major, minor with
  | 0x03, 9 => true
  | 0x04, 0 => true
  | 0x10, 15 => true
  | 0x2c, 0 => true
  | 0x2c, 1 => true
  | 0x2c, 3 => true
  | 0x2c, 6 => true
  | 0x2c, 8 => true
  | 0x2c, 9 => true
  | 0x30, 0 => true
  | 0x30, 4 => true
  | _, _ => false

/-- The number of assigned minors of a major (R248). -/
def minorCount : Nat → Nat
  | 0x01 => 16
  | 0x02 => 16
  | 0x03 => 14
  | 0x04 => 4
  | 0x05 => 8
  | 0x10 => 16
  | 0x11 => 12
  | 0x12 => 11
  | 0x14 => 13
  | 0x15 => 9
  | 0x20 => 5
  | 0x21 => 5
  | 0x22 => 4
  | 0x23 => 6
  | 0x24 => 5
  | 0x2c => 12
  | 0x2d => 6
  | 0x30 => 10
  | 0x34 => 5
  | 0x35 => 2
  | 0x38 => 7
  | 0x39 => 8
  | _ => 0

/-- The engine class of an assigned opcode (R247, R248). -/
def classOf (major minor : Nat) : Nat :=
  if major = 0x30 then (if minor = 6 ∨ minor = 7 then 0 else 3)
  else if major = 0x12 ∨ major = 0x15 then 1
  else if 0x20 ≤ major ∧ major ≤ 0x24 then 2
  else if major = 0x34 then 4
  else if major = 0x35 then 5
  else if major = 0x38 ∨ major = 0x39 then 6
  else 0

/-- The transfers of R235: bra, brp, brx, call, callx, ret, switch, exit. -/
def isTransfer (major minor : Nat) : Bool := major == 0x2C && minor ≤ 7

/-- MAJOR of a base word (R238). -/
def majorOf (w : Word) : Nat := w.toNat / 2 ^ 26
/-- MINOR of a base word. -/
def minorOf (w : Word) : Nat := w.toNat / 2 ^ 21 % 16
/-- X of a base word. -/
def xOf (w : Word) : Bool := w.toNat / 2 ^ 25 % 2 == 1

/-- Length of an instruction in words, 1 + X + L (R234). -/
def lengthOf (w : Word) : Nat :=
  1 + (if xOf w then 1 else 0) + (if isL (majorOf w) (minorOf w) then 1 else 0)

/-- A permutation from its pattern code and parameter (R204, R205). -/
def permOf (n : Nat) : Option Perm :=
  let q := n % 32
  match n / 32 with
  | 0 => if q = 0 then some .ident else none
  | 1 => some (.rot (BitVec.ofNat 5 q))
  | 2 => some (.bc (BitVec.ofNat 5 q))
  | 3 => if q = 0 then none else some (.xor (BitVec.ofNat 5 q))
  | 4 => if 1 ≤ q ∧ q ≤ 5 then some (.mir (BitVec.ofNat 5 q)) else none
  | 5 => some (.idx (BitVec.ofNat 2 (q / 8)) (BitVec.ofNat 3 q))
  | _ => none

/-- The fields of a base word and its extension word, if any (R238, R241). -/
def fieldsOfWords (b : Word) (e : Option Word) : Option Fields :=
  let n := b.toNat
  let vd := BitVec.ofNat 7 (n / 2 ^ 14)
  let vs0 := BitVec.ofNat 7 (n / 2 ^ 7)
  let vs1 := BitVec.ofNat 7 n
  match e with
  | none => some { x := false, guard := ⟨false, false, 0⟩, perm0 := .ident, perm1 := .ident, aux := 0, vd, vs0, vs1 }
  | some e =>
    let m := e.toNat
    match permOf (m / 2 ^ 19 % 256), permOf (m / 2 ^ 11 % 256) with
    | some p0, some p1 =>
      some { x := true, guard := ⟨m / 2 ^ 31 == 1, m / 2 ^ 30 % 2 == 1, BitVec.ofNat 3 (m / 2 ^ 27)⟩
             perm0 := p0, perm1 := p1, aux := BitVec.ofNat 11 m, vd, vs0, vs1 }
    | _, _ => none

/-- An instruction from its three possible words, judged (R245). -/
def assemble (b : Word) (e : Option Word) (lit : BitVec 32) : Except Reject Instr :=
  match fieldsOfWords b e with
  | none => .error .permutation
  | some f =>
    match ofCode (majorOf b) (minorOf b) f lit with
    | none => .error .unassigned
    | some i =>
      match i.judge with
      | some r => .error r
      | none => .ok i

/-- The decoder: an instruction and the words after it, or the reason it is refused. An unassigned opcode is refused
before its other fields are read (R245). -/
def decode (ws : List Word) : Except Reject (Instr × List Word) :=
  match ws with
  | [] => .error .truncated
  | b :: r =>
    if minorCount (majorOf b) ≤ minorOf b then .error .unassigned
    else
      match xOf b, isL (majorOf b) (minorOf b), r with
      | false, false, r => (assemble b none 0).map (·, r)
      | true, false, e :: r => (assemble b (some e) 0).map (·, r)
      | false, true, l :: r => (assemble b none l).map (·, r)
      | true, true, e :: l :: r => (assemble b (some e) l).map (·, r)
      | _, _, _ => .error .truncated

/-- Little-endian words of a run of bytes (R6). -/
def wordsOfBytes : List Byte → List Word
  | a :: b :: c :: d :: r =>
    BitVec.ofNat 32 (a.toNat + 256 * b.toNat + 65536 * c.toNat + 16777216 * d.toNat) :: wordsOfBytes r
  | _ => []

/-- The decoder on an instruction whose first 32-bit word is the low bits of `w`, later words following; the bits above
`nbits` are zero. The longest instruction has three words. -/
def decodeTableWord (nbits w : Nat) : Option Instr :=
  let n := w % 2 ^ nbits
  match decode (wordsOfBytes (toBytes 12 n)) with
  | .ok (i, _) => some i
  | .error _ => none

/-- The 8-bit code of a permutation (R204). -/
def Perm.encode : Perm → Nat
  | .ident => 0
  | .rot k => 32 + k.toNat
  | .bc j => 64 + j.toNat
  | .xor m => 96 + m.toNat
  | .mir k => 128 + k.toNat
  | .idx i o => 160 + i.toNat * 8 + o.toNat

/-- The base word (R238). -/
def encodeBase (major minor : Nat) (f : Fields) : Word :=
  BitVec.ofNat 32 (major * 2 ^ 26 + b2n f.x * 2 ^ 25 + minor * 2 ^ 21 + f.vd.toNat * 2 ^ 14 +
    f.vs0.toNat * 2 ^ 7 + f.vs1.toNat)

/-- The extension word (R241). -/
def encodeExt (f : Fields) : Word :=
  BitVec.ofNat 32 (b2n f.guard.en * 2 ^ 31 + b2n f.guard.neg * 2 ^ 30 + f.guard.pred.toNat * 2 ^ 27 +
    f.perm0.encode * 2 ^ 19 + f.perm1.encode * 2 ^ 11 + f.aux.toNat)

/-- The words of an instruction; none for an event. -/
def encode (i : Instr) : List Word :=
  match fieldsOf i, codeOf i with
  | some f, some (major, minor) =>
    encodeBase major minor f :: (if f.x then [encodeExt f] else []) ++
      (if isL major minor then [litOf i] else [])
  | _, _ => []

end Sys2Proof
end

