-- ==== Sys2Proof/Machine/FMap.lean ====
section
/-! DEFINITION. Finite maps as plain data: lists of key and value pairs in rising key order. A key that is not listed
has the default the reader names. -/

namespace Sys2Proof.Machine

/-- A finite map from naturals. -/
abbrev FMap (α : Type) := List (Nat × α)

/-- The value at a key, if listed. -/
def FMap.find? {α : Type} : FMap α → Nat → Option α
  | [], _ => none
  | (k, v) :: m, n => if k = n then some v else if n < k then none else FMap.find? m n

/-- The first listed pair that satisfies a test. -/
def FMap.search {α : Type} (m : FMap α) (p : Nat × α → Bool) : Option (Nat × α) := List.find? p m

/-- The value at a key, `d` when it is not listed. -/
def FMap.getD {α : Type} (m : FMap α) (n : Nat) (d : α) : α := (m.find? n).getD d

/-- Whether a key is listed. -/
def FMap.has {α : Type} (m : FMap α) (n : Nat) : Bool := (m.find? n).isSome

/-- The map with `v` at `n`. -/
def FMap.set {α : Type} : FMap α → Nat → α → FMap α
  | [], n, v => [(n, v)]
  | (k, w) :: m, n, v =>
    if n < k then (n, v) :: (k, w) :: m
    else if n = k then (n, v) :: m
    else (k, w) :: FMap.set m n v

/-- The map without `n`. -/
def FMap.del {α : Type} : FMap α → Nat → FMap α
  | [], _ => []
  | (k, w) :: m, n =>
    if k = n then m else if n < k then (k, w) :: m else (k, w) :: FMap.del m n

/-- The map with the value at `n` (default `d`) changed by `f`. -/
def FMap.upd {α : Type} (m : FMap α) (n : Nat) (d : α) (f : α → α) : FMap α := m.set n (f (m.getD n d))

/-- The map with the value at `n`, if listed, changed by `f`. -/
def FMap.adjust {α : Type} (m : FMap α) (n : Nat) (f : α → α) : FMap α :=
  match m.find? n with
  | some v => m.set n (f v)
  | none => m

/-- The keys of a map are strictly rising: its canonical form. -/
def FMap.sorted {α : Type} : FMap α → Bool
  | [] => true
  | [_] => true
  | (a, _) :: (b, w) :: m => a < b && FMap.sorted ((b, w) :: m)

end Sys2Proof.Machine
end

