-- ==== Sys2Proof/Machine/State.lean ====
section
/-! DEFINITION. The state of one Z40 package as plain data: threads, gangs, blocks, clusters, partitions, the shared
cache and memory, functions and contexts, the fabric port, energy, power and control (INVENTORY.md, '## State'). -/

namespace Sys2Proof.Machine

/-- Why the machine stops. -/
inductive Fault where
  /-- Raised by `exec` when it is given an instruction and no issue is in progress, so there is no thread to run
  it; `step` never does that. Safe. -/
  | noIssue
  /-- Raised by `step` when the agenda holds an instruction instead of an event. Safe. -/
  | notAnEvent
  deriving DecidableEq, Repr

/-- Instructions without a meaning. -/
inductive Refusal where
  /-- Raised by an arm of `exec` that has no meaning. Safe. -/
  | notModelled (mnemonic : String)
  deriving DecidableEq, Repr

/-! ## Threads -/

/-- One level of hardware loop (R342): count, end and start. -/
structure LoopLevel where
  lc : Word
  le : DWord
  ls : DWord
  deriving DecidableEq, Repr

/-- The clause a thread is passing through: its header's address and the words of its single fetch (R237), the
header first. -/
structure Clause where
  hdr : DWord
  words : List Word
  deriving DecidableEq, Repr

/-- What a waiting thread waits for (R195). -/
inductive Wait where
  /-- `wait C, #n` (R333). -/
  | counter (k n : Nat)
  /-- `yield` (R344): until the gang issues at another PC than `next`, or the cycle `till`. -/
  | yield (next : DWord) (till : Nat)
  /-- `sleep` (R396): until the cycle `till`. -/
  | sleep (till : Nat)
  /-- `fpop` on an empty FIFO (R320). -/
  | fifoData (b : Nat)
  /-- `fpush` on a full FIFO (R324). -/
  | fifoRoom (b : Nat)
  /-- `acc.pop` on an empty row queue (R365). -/
  | rowQueue (q : Nat)
  /-- `bar.wait` on the object at a block offset, with the token's bit (R387). -/
  | phase (off : Nat) (tok : Bool)
  /-- `gbar` in group `g` until its phase differs from `ph` (R389). -/
  | group (g ph : Nat)
  /-- `gridbar` until the grid's phase differs from `ph` (R389). -/
  | grid (ph : Nat)
  /-- Operations numbered below `upto` of the gang have to complete first: a release, a view or a slot (R129). -/
  | ops (ids : List Nat)
  /-- A `fence.sc` at a scope in its cadence wait (R144): when it had drained, and the time from which it waits further, once a tick was observed. -/
  | fenceSc (sc drained : Nat) (tick : Option Nat)
  /-- An invalidation of exported memory has to be acknowledged (R109). -/
  | exported
  /-- A release behind its flushing read (R148); `all`, a `fence.sc` behind those of its whole gang (R144). -/
  | flushing (all : Bool)
  /-- One of the accumulator rows of the instruction, named by the first and their number, is busy (R82). -/
  | rows (first n : Nat)
  /-- A release write-back has a live page request (R460): function and sequence number; `none` while no request can
  be held (R50); and the line address written back. -/
  | writeback (req : Option (Nat × Nat)) (va : Nat)
  /-- A write-back waits for the answer to a seal-record read of a line (R170). -/
  | record (line : Nat)
  /-- A fetch with a live page request (R20, R46), the PC fetched, and the launch site that its trap would name. -/
  | fetch (req : Option (Nat × Nat)) (va : Nat) (iaddr : DWord)
  /-- A counter class or a destination entry is full (R137, R111). -/
  | full
  /-- A slot of the gang is closing (R168). -/
  | slot (cs : Nat)
  /-- An access that it needs within a step has to wait for a walk, a slice, a plane or another package: it is tried again from the cycle
  `till` on. -/
  | retry (till : Nat)
  deriving DecidableEq, Repr

/-- One thread (R179). -/
structure Thread where
  live : Bool
  pc : DWord
  mr : DWord
  /-- p1 to p7 in bits 1 to 7; bit 0 is p0 and stays set. -/
  preds : BitVec 8
  /-- v0 on, including the reserved stack registers (R190, R337); an unlisted register holds zero. -/
  regs : FMap Word
  xregs : FMap Word
  scnt : Nat
  loop0 : Option LoopLevel
  loop1 : Option LoopLevel
  /-- A `loop` with count 0: the end clause and the header after it (R342). -/
  skip : Option (DWord × DWord)
  seed : Word
  clause : Option Clause
  wait : Option Wait
  /-- Registers whose write is outstanding (R195), with the operation that settles them. -/
  unsettled : FMap Nat
  /-- Predicates whose write is outstanding. -/
  unsettledP : FMap Nat
  /-- Address of the last instruction issued; zero when none (R20). -/
  last : DWord
  /-- Picks of the gang through which the thread stayed eligible without issuing (R200). -/
  passed : Nat
  /-- Host-window page the thread wrote since its last system release (R148). -/
  hostWrote : Option Nat
  /-- A wake of the slew limiter has placed or released the thread and its cluster is not yet admitted (R419). -/
  wake : Bool
  /-- The PC inside a clause that a debugger wrote, taken up when the header before it is passed (R457). -/
  target : Option DWord := none
  /-- The front-end cycle from which a thread that a release held again at its meeting point is released (R340). -/
  heldTill : Nat := 0
  deriving DecidableEq, Repr

/-- A thread at block start (R180). -/
def Thread.start (entry : DWord) (seed : Word) : Thread :=
  { live := true, pc := entry, mr := BitVec.allOnes 64, preds := 1, regs := [], xregs := [], scnt := 0
    loop0 := none, loop1 := none, skip := none, seed, clause := none, wait := none, unsettled := []
    unsettledP := [], last := 0, passed := 0, hostWrote := none, wake := false }

/-! ## Traps -/

/-- A trap record (R453), field by field. -/
structure TrapRec where
  cls : Nat
  subtype : Nat := 0
  stage : Nat := 0
  level : Nat := 0
  eng : Nat := 0
  async : Bool := false
  gone : Bool := false
  gang : Nat := 0
  cluster : Nat := 0
  ctxid : Nat := 0
  vf : Nat := 0
  pfn : Bool := false
  arg : Nat := 0
  pc : DWord := 0
  iaddr : DWord := 0
  cmdseq : Nat := 0
  seq : Nat := 0
  faddr : DWord := 0
  lanemask : Nat := 0
  actmask : Nat := 0
  stamp : DWord := 0
  jfl : Nat := 0
  lcause : Nat := 0
  deriving DecidableEq, Repr

/-! ## Gangs -/

/-- One role of a launch (R186): its entry, its engine bits and its allotment. -/
structure Role where
  entry : DWord
  mx : Bool
  cp : Bool
  ch : Bool
  gangs : Nat
  allot : Nat
  deriving DecidableEq, Repr

/-- The state of one lane's access inside an outstanding operation (R53-R55, R104). -/
inductive LaneSt where
  /-- Not yet translated. -/
  | fresh
  /-- A walk is outstanding for it (R43). -/
  | walking
  /-- It faulted while no request could be held for it (R50), and waits to walk again. -/
  | stalled
  /-- Translated and not yet performed: the package when it is another one, the physical address, the memory type and
  the CG attribute. -/
  | ready (far : Option Nat) (pa mt : Nat) (cg : Bool)
  /-- Waiting for the response to a page request (R53); with the line address of the write-back that it forced, if that is what failed
  (R520). -/
  | faulted (f seq : Nat) (wb : Option Nat)
  /-- Sent to a fabric home under a tag (R101, R104). -/
  | remote (tag : Nat)
  /-- Waiting at its line home for the answer to a seal-record read (R170). -/
  | parked
  /-- Performed, or delivered as a trap. -/
  | done
  deriving DecidableEq, Repr

/-- A combined translation (R39): function and CTXID, whether it is global, its page in units of 256 KiB and whether it
maps 2 GiB, the physical page, the effective attributes and D state, the guest-physical page of its stage-1 leaf and the
guest-physical pages of its stage-1 table reads. -/
structure TlbEntry where
  fn : Nat
  ctxid : Nat
  glob : Bool
  page : Nat
  big : Bool
  pa : Nat
  w : Bool
  x : Bool
  cg : Bool
  mt : Nat
  far : Option Nat
  dirty : Bool
  gpage : Nat
  tables : List Nat
  deriving DecidableEq, Repr

/-- One lane of an outstanding operation: its effective address, what it stores (data, comparand), and how far it has
come. -/
structure LaneAcc where
  lane : Nat
  va : Nat
  data : Nat
  cmp : Nat
  st : LaneSt
  /-- The translation through which its address is bound (R59). -/
  via : Option TlbEntry := none
  deriving DecidableEq, Repr

/-- Counter classes (R137), in the order of R233's codes less one. -/
inductive Ctr where
  | ld | st | cp | mx | ch | rm
  deriving DecidableEq, Repr

/-- An operation of a gang that has issued and not completed (R137): the instruction that launched it, the classes
that count it, its lanes, and what it captured at issue. -/
structure Op where
  id : Nat
  instr : Instr
  iaddr : DWord
  ctrs : List Ctr
  act : Nat
  fpmode : Word
  lanes : List LaneAcc
  /-- An engine command's sequence number; the command itself is in its engine. -/
  cmdseq : Nat
  /-- Stamps merged from acknowledgements (R168). -/
  stamp : DWord
  /-- Complete, but behind an older operation of a class (R55). -/
  complete : Bool
  /-- An arithmetic exception of it has been raised (R223). -/
  flagged : Bool := false
  deriving DecidableEq, Repr

/-- A consignment slot of a gang (R157): state 0 free, 1 open, 2 closing by a seal, 3 closing by an abort, 4 the abort's restores
are out. -/
structure CsgSlot where
  st : Nat
  csgid : Nat
  mrec : Nat
  /-- Lines counted, in MIDX order, as package and physical line address. -/
  lines : List (Nat × Nat)
  pkgs : List Nat
  stamp : DWord
  deriving DecidableEq, Repr

/-- A view slot of a gang (R157, R172). -/
structure ViewSlot where
  isOpen : Bool
  stamp : DWord
  expired : Bool
  deriving DecidableEq, Repr

/-- One gang (R182, R183). -/
structure Gang where
  ctx : Nat
  blk : Nat
  index : Nat
  role : Nat
  allot : Nat
  depth : Nat
  entry : DWord
  mx : Bool
  cp : Bool
  ch : Bool
  threads : List Thread
  fpmode : Word
  fpflags : Nat
  jord : Nat
  jflags : Nat
  /-- QMASK, ACCLIM and ACCBASE (R81). -/
  qmask : Nat
  acclim : Nat
  accbase : Nat
  rsb : Nat
  chainsDone : Nat
  ops : List Op
  nextOp : Nat
  slots : List CsgSlot
  views : List ViewSlot
  /-- Destination table of the fabric agent (R111): package and four plane counters. -/
  dests : List (Nat × List Nat)
  pstop : Bool
  estop : Bool
  tstop : Bool
  halt : Bool
  /-- The gang has ended and its registers drain (R417). -/
  draining : Bool
  /-- The cycle of the gang's last pick or since when it had an eligible thread (R200). -/
  picked : Nat
  records : List TrapRec
  /-- The breakpoint the gang's next issue is exempt from (R469). -/
  exempt : Option DWord
  /-- The front-end cycle up to which a causal trial holds the gang back (R480). -/
  delayed : Nat
  /-- The host-window address that an engine of the gang wrote last since a flushing read followed (R144, R148). -/
  engWrote : Option Nat
  /-- The issue in progress has completed a barrier phase of the gang's block, so that its own count ends at zero (R415). -/
  restarted : Bool
  /-- What a debugger's writes have added to the counters, by class; nothing when empty (R457). -/
  ctrOff : List Int
  deriving DecidableEq, Repr

/-- A gang at block start (R180, R183); `lin` is the linear number of its first thread. -/
def Gang.start (ctx blk index role : Nat) (r : Role) (depth lin : Nat) : Gang :=
  { ctx, blk, index, role, allot := r.allot, depth, entry := r.entry, mx := r.mx, cp := r.cp, ch := r.ch
    threads := (List.range 32).map fun l => Thread.start r.entry (BitVec.ofNat 32 (lin + l))
    fpmode := 0x00040000, fpflags := 0, jord := 0, jflags := 0, qmask := 0, acclim := 0, accbase := 0, rsb := 0
    chainsDone := 0, ops := [], nextOp := 0, slots := List.replicate 4 ⟨0, 0, 0, [], [], 0⟩
    views := List.replicate 2 ⟨false, 0, false⟩, dests := [], pstop := false, estop := false, tstop := false, halt := false
    draining := false, picked := 0, records := [], exempt := none, delayed := 0, engWrote := none, restarted := false, ctrOff := [] }

/-! ## Clusters -/

/-- A block resident on a cluster (R184, R185): its launch, its index, its share of scratchpad and accumulator rows. -/
structure Block where
  ctx : Nat
  launch : Nat
  lin : Nat
  bx : Nat
  by' : Nat
  bz : Nat
  sbase : Nat
  ssize : Nat
  accBase : Nat
  accRows : Nat
  cbase : DWord
  csize : Nat
  /-- Slots of its gangs, gang 0 first; `none` once released. -/
  gangs : List (Option Nat)
  groups : List Nat
  coop : Bool
  gridBlocks : Nat
  fifomask : Nat
  deriving DecidableEq, Repr

/-- A command of the matrix queue, a copy channel or the chain engine (R350, R368): the issuing gang, its launch site,
the instruction and the register values it sampled. -/
structure Cmd where
  slot : Nat
  ctx : Nat
  blk : Nat
  op : Nat
  iaddr : DWord
  cmdseq : Nat
  instr : Instr
  args : List Nat
  fpmode : Word
  begun : Bool
  /-- Bytes or elements done. -/
  done : Nat
  /-- Copied data of the command's beginning: a tensor entry or a chain descriptor. -/
  entry : List Nat
  /-- The page request it is stopped on. -/
  fault : Option (Nat × Nat)
  /-- The line whose seal-record read it waits for (R170). -/
  asked : Option Nat
  /-- The source code and the address of the fault for which it stopped (R47). -/
  site : Nat × Nat := (0, 0)
  deriving DecidableEq, Repr

/-- One compute array of the matrix unit (R356): its record and its tile. -/
structure MxUnit where
  ctx : Option Nat
  fmt : Nat
  sg : Bool
  tid : Nat
  row0 : Nat
  col0 : Nat
  /-- For each tile row n: its eight blocks, each one number in the layout of R212, and its four scales. -/
  tile : List (List Nat)
  scales : List (List Nat)
  deriving DecidableEq, Repr

/-- An entry of the A row buffer (R357): eight tiered blocks with their tags and scales. -/
structure AEntry where
  ctx : Nat
  slot : Nat
  fmt : Nat
  sg : Bool
  fin : Nat
  fout : Nat
  blocks : List Nat
  scales : List Nat
  deriving DecidableEq, Repr

/-- A busy accumulator row: the gang's slot and operation that write it (R82). -/
structure RowBusy where
  row : Nat
  slot : Nat
  op : Nat
  deriving DecidableEq, Repr

/-- A finished row that waits for room in its queue (R83). -/
structure RowWait where
  q : Nat
  /-- The compute array it holds. -/
  unit : Nat
  words : List Word
  row : Nat
  slot : Nat
  op : Nat
  /-- The flags that its command raises when it completes (R218). -/
  fl : Nat := 0
  deriving DecidableEq, Repr

/-- A FIFO bank's state register (R73). -/
structure FifoReg where
  owner : Option Nat
  head : Nat
  tail : Nat
  deriving DecidableEq, Repr

/-- A context's state of one copy channel (R76). -/
structure ChanReg where
  wptr : Nat
  st : Nat
  cmdseq : Nat
  /-- The sequence number of the context's next command on the channel. -/
  next : Nat
  deriving DecidableEq, Repr

/-- A line of the cluster's L1 (R68, R129): byte masks of 128 bits, the data, the recorded context and virtual line
address of its stores, whether it is pinned (R460), and its poisoned halves, bit 0 the lower one (R80, R93). -/
structure L1Line where
  way : Nat
  valid : Nat
  dirty : Nat
  data : List Byte
  ctx : Nat
  va : Nat
  pinned : Bool
  poison : Nat := 0
  /-- The launches whose stores it holds dirty (R404). -/
  grids : List Nat := []
  deriving DecidableEq, Repr

/-- A line of the instruction cache (R79): its context, its virtual line, the number of the fetch that read it (R237), its bytes. -/
structure InstrLine where
  ctx : Nat
  line : Nat
  pass : Nat
  bytes : List Byte
  deriving DecidableEq, Repr

/-- A user handler in scalar mode (R459): its thread state, which trap record it serves and when it began. -/
structure Handler where
  slot : Nat
  record : TrapRec
  gang : Gang
  mem : FMap Byte
  began : Nat
  /-- v1 at its `exit`; 2 when it took a trap or ran out of time. -/
  verdict : Option Nat
  deriving DecidableEq, Repr

/-- One cluster. -/
structure Cluster where
  bankReq : DWord
  bankCur : DWord
  refmask : Nat
  fifoBusy : Bool
  scratchCovered : Bool
  bmCode : Nat
  /-- Banks accepted by the last change and still draining (R64). -/
  drains : List Nat
  /-- Words of the banks by bank × 16,384 + row × 32 + column. -/
  sram : FMap Word
  sramPoison : FMap Bool
  fifos : FMap FifoReg
  l1 : FMap L1Line
  /-- Resident blocks by launch number × 2^32 + linear index. -/
  blocks : FMap Block
  /-- Gangs by slot (R182). A gang whose slot was released while operations of it are outstanding (R417) stays under its
  slot plus a multiple of 128. -/
  gangs : FMap Gang
  /-- Tensor identifier tables (R351): context × 64 + t to the four words of the entry. -/
  tids : FMap (List Nat)
  mxq : List Cmd
  units8 : List MxUnit
  arow : List AEntry
  /-- Accumulator words by row × 128 + column. -/
  acc : FMap Word
  accPoison : FMap Bool
  /-- Busy accumulator rows (R82). -/
  busy : List RowBusy
  /-- Row queues 0-3: bound block and rows; rows waiting for room (R83). -/
  rowqs : List (Option Nat × List (List Word))
  rowWait : List RowWait
  chans : FMap ChanReg
  chanq : List (List Cmd)
  chainq : List Cmd
  chainSeq : Nat
  mxSeq : Nat
  /-- Rotating pick pointers of the four lane rows (R416). -/
  ptr : List Nat
  /-- The lane row that the special-function unit served last, and the cycle up to which it is occupied (R296). -/
  sfuRow : Nat
  sfuTill : Nat
  /-- The cycle up to which the floating-point pipe of each lane row is held by a jet instruction (R304). -/
  fpTill : List Nat
  ring : List TrapRec
  held : List TrapRec
  /-- Records that the supervisor has taken out of the ring and not yet acted on, in ring order, each kept with its gang (R454). -/
  taken : List TrapRec
  dbgSel : DWord
  dbgData : DWord
  dbgStat : Nat
  /-- Local breakpoints: PC, control and the function that wrote it (R467, R490). -/
  lbp : FMap (DWord × DWord × Nat)
  pcc : FMap (DWord × DWord)
  handler : Option Handler
  wakePend : Bool
  /-- Constant-cache lines by (context, virtual line), and instruction-cache lines (R79). -/
  kcache : List (Nat × Nat × List Byte)
  icache : List InstrLine
  /-- L1 TLB, newest first (R39). -/
  tlb : List TlbEntry
  deriving DecidableEq, Repr

/-- A cluster after reset: bank modes of R62, nothing resident. -/
def Cluster.reset : Cluster :=
  { bankReq := 0x5555000000000000, bankCur := 0x5555000000000000, refmask := 0, fifoBusy := false
    scratchCovered := false, bmCode := 0, drains := [], sram := [], sramPoison := [], fifos := [], l1 := []
    blocks := [], gangs := [], tids := [], mxq := []
    units8 := List.replicate 8 ⟨none, 0, false, 0, 0, 0, [], []⟩, arow := [], acc := [], accPoison := []
    busy := [], rowqs := List.replicate 4 (none, []), rowWait := [], chans := [], chanq := List.replicate 8 []
    chainq := [], chainSeq := 0, mxSeq := 0, ptr := [0, 0, 0, 0], sfuRow := 0, sfuTill := 0, fpTill := [0, 0, 0, 0], ring := [], held := [], taken := []
    dbgSel := 0, dbgData := 0, dbgStat := 0, lbp := [], pcc := [], handler := none, wakePend := false
    kcache := [], icache := [], tlb := [] }

/-! ## Contexts, functions, partitions -/

/-- An exact meter (R426): units of 1/(5 × 2^20) pJ below 2^64 pJ, and the wrap count. -/
structure Meter where
  units : Nat
  wraps : Nat
  /-- The part of a unit that divisions of leakage left, in parts of which `subUnits` make a unit (R433). -/
  sub : Nat
  deriving DecidableEq, Repr

/-- A meter at zero. -/
def Meter.zero : Meter := ⟨0, 0, 0⟩

/-- An entry of a context's group table (R192): its member blocks and its barrier's arrivals and completed phases. -/
structure GroupSt where
  members : Nat
  arrived : Nat
  phase : Nat
  deriving DecidableEq, Repr

/-- A started launch (R186, R403): its queue entry, its header, what has been placed and ended, and its grid barrier. -/
structure Launch where
  ctx : Nat
  queue : Nat
  seq : Nat
  compAddr : Nat
  compInc : Nat
  coop : Bool
  gridX : Nat
  gridY : Nat
  gridZ : Nat
  accRows : Nat
  scratch : Nat
  fifomask : Nat
  depth : Nat
  cbase : DWord
  csize : Nat
  roles : List Role
  /-- Its entry had a dependence, whose acquire its blocks follow (R402). -/
  acq : Bool
  /-- Groups of each block, in linear order (R192). -/
  member : List (List Nat)
  placed : Nat
  ended : Nat
  clusters : List Nat
  arrived : Nat
  phase : Nat
  /-- When it began to wait for a full fit (R409), in ns, plus one; 0 while it does not wait. -/
  since : Nat
  /-- It has waited 1 ms for a full fit (R409). -/
  waited : Bool
  /-- Lines discarded at completion (R404). -/
  lost : Nat
  /-- The page request of a completion write-back, and the line address written back. -/
  fault : Option (Nat × Nat)
  faultVa : Nat := 0
  deriving DecidableEq, Repr

/-- A submission entry that its queue has consumed (R400, R494). -/
structure Entry where
  seq : Nat
  typ : Nat
  hdr : Nat
  depAddr : Nat
  depVal : Nat
  compAddr : Nat
  compInc : Nat
  deriving DecidableEq, Repr

/-- A completion to be made (R404, R405), and whether its record is written and only its counter add waits. -/
structure Done where
  seq : Nat
  status : Nat
  blocks : Nat
  compAddr : Nat
  compInc : Nat
  written : Bool := false
  deriving DecidableEq, Repr

/-- A submission queue and its completion ring (R398, R493). -/
structure Queue where
  base : DWord
  ctl : DWord
  head : Nat
  tail : Nat
  cqBase : DWord
  cqHead : Nat
  cqTail : Nat
  stat : Nat
  consumed : Nat
  seqSeen : Nat
  /-- CSEQ the next record carries, and the SEQ and CSEQ of the record written last. -/
  nextCseq : Nat
  doneSeq : Nat
  doneCseq : Nat
  /-- The consumed entry that holds the queue's head: not ready (R402), or its launch still placing (R403). -/
  entry : Option Entry
  launch : Option Nat
  /-- Completions that wait for ring space, oldest first (R406). -/
  waiting : List Done
  deriving DecidableEq, Repr

/-- A queue after reset. -/
def Queue.reset : Queue :=
  { base := 0, ctl := 0, head := 0, tail := 0, cqBase := 0, cqHead := 0, cqTail := 0, stat := 0, consumed := 0
    seqSeen := 0, nextCseq := 1, doneSeq := 0, doneCseq := 0, entry := none, launch := none, waiting := [] }

/-- A block in a save area (R465): the block, its gangs with the slots they held, its scratchpad, accumulator rows by
row × 128 + column, and its bound queues with their rows. -/
structure SavedBlock where
  key : Nat
  blk : Block
  gangs : List (Nat × Gang)
  scratch : List Byte
  /-- Offsets of poisoned scratchpad words. -/
  poisoned : List Nat
  acc : FMap Word
  accPoison : FMap Bool
  rowqs : List (Nat × List (List Word))
  deriving DecidableEq, Repr

/-- What a save area holds of one cluster (R465). -/
structure SavedCluster where
  cl : Nat
  tids : FMap (List Nat)
  units : List (Nat × MxUnit)
  arow : List AEntry
  /-- Claimed FIFOs: bank, register and words; and the poisoned words among them (R80). -/
  fifos : List (Nat × FifoReg × FMap Word)
  fifoPoison : List Nat := []
  /-- WPTR and status of the copy channels. -/
  chans : List (Nat × ChanReg)
  blocks : List SavedBlock
  /-- Checkpoints: copy commands with their channel, chain commands. -/
  copies : List (Nat × Cmd)
  chains : List Cmd
  deriving DecidableEq, Repr

/-- A page request that is live (R47, R48). -/
structure PageReq where
  seq : Nat
  ctx : Nat
  part : Nat
  va : Nat
  gpa : Nat
  eng : Nat
  tbl : Bool
  cmdseq : Nat
  atype : Nat
  kind : Nat
  stage : Nat
  level : Nat
  iaddr : DWord
  held : Bool
  deriving DecidableEq, Repr

/-- A context that is not free (R486). -/
structure Ctx where
  /-- Its state: 1 idle, 2 resident, 3 saved, 4 ended. -/
  st : Nat
  /-- When it became eligible without placing a block since (R408), in ns. -/
  eligNs : Nat
  /-- When it became resident (R410), in ns. -/
  resNs : Nat
  /-- The queue last served (R403). -/
  lastQ : Nat
  /-- A pre-emption is under way: its cause (R462). -/
  leaving : Option Nat
  /-- Its save area (R464, log 12, DESIGN CHOICE). -/
  saved : List SavedCluster
  /-- Responses accepted while it was not resident: the request answered and CODE (R56). -/
  responses : List (PageReq × Nat)
  meter : Meter
  level : Int
  grant : Option Nat
  stopped : Bool
  /-- S1ROOT and S2CTL as sampled for this residency (R22, R23). -/
  sroot : DWord
  s2ctl : DWord
  /-- Uncore charges of the running 100 µs interval (R434), in meter units. -/
  uncore : Nat
  groups : FMap GroupSt
  /-- Bytes of its save area that a save or a resume in course has written or read (R464). -/
  swapped : Nat := 0
  /-- Saved channel registers of clusters that held no block of it any more (R76): cluster, channel, register. -/
  chanRest : List (Nat × Nat × ChanReg) := []
  deriving DecidableEq, Repr

/-! ## Translation -/

/-- A leaf a walk has read: its level, its physical address and its value. -/
structure Leaf where
  level : Nat
  addr : Nat
  val : Nat
  deriving DecidableEq, Repr

/-- A stage-2 translation used for table reads (R40): function, guest-physical page of 256 KiB, the physical page, and
the leaf it came from. -/
structure S2Entry where
  fn : Nat
  page : Nat
  pa : Nat
  leaf : Leaf
  deriving DecidableEq, Repr

/-- A walk-cache entry (R40): stage and level, function, CTXID (stage 1), the input bits above the level's leaf reach and
the next node. -/
structure NodeEntry where
  stage : Nat
  level : Nat
  fn : Nat
  ctxid : Nat
  key : Nat
  node : Nat
  deriving DecidableEq, Repr

/-- What a walk fault reports (R34, R47). -/
structure WalkFault where
  kind : Nat
  stage : Nat
  level : Nat
  gpa : Nat
  tbl : Bool
  /-- 5 when the fault arose in a table update (R37), otherwise the access's own type. -/
  atype : Nat
  /-- A fault that raises no request but a trap, by its subtype: permission at the host window for an atomic or consignment store (R33),
  line-pending for an A or D update (R167). -/
  trap : Option Nat
  deriving DecidableEq, Repr

/-- One compare-and-swap of a walk on an A or D bit (R37): the entry's address, the value read and the value wanted. -/
structure AdUpdate where
  addr : Nat
  old : Nat
  new : Nat
  deriving DecidableEq, Repr

/-- A miss of a unit (a fetch, an engine, a write-back, the queue manager) that has joined a walk or waits for an engine (R43): its page of
256 KiB, its access type, and the fault the walk ended with, until it is taken up. -/
structure UnitMiss where
  cl : Nat
  ctx : Nat
  page : Nat
  at' : Nat
  fault : Option WalkFault
  deriving DecidableEq, Repr

/-- A walk in flight (R43, R44). `s1` is the stage-1 level whose entry is wanted next, 4 when the output address is being
translated; `s2` the stage-2 level to read next, 0 when `pa` holds the translated address. `leafT` is the stage-2 leaf
through which the stage-1 leaf was read. -/
structure Walk where
  cl : Nat
  ctx : Nat
  va : Nat
  at' : Nat
  s1 : Nat
  gpa : Nat
  s2 : Nat
  node : Nat
  pa : Nat
  leaf1 : Option Leaf
  leafT : Option Leaf
  leaf2 : Option Leaf
  tables : List Nat
  upd : List AdUpdate
  found : List S2Entry
  nodes : List NodeEntry
  result : Option (TlbEntry ⊕ WalkFault)
  deriving DecidableEq, Repr

/-! ## Slices, memory and fabric -/

/-- A line of the shared cache (R87). A read-only-remote copy names its package and holds its data; a local line's data is
the home value in `State.mem` (log 5, DEDUCED). -/
structure L2Line where
  line : Nat
  far : Option Nat
  way : Nat
  dirty : Bool
  data : List Byte
  /-- Last releaser: cluster and function (R138). -/
  rel : Option (Nat × Nat)
  /-- The functions whose promotion's write-backs have been made and are to be acknowledged (R140). -/
  promoted : List Nat := []
  deriving DecidableEq, Repr

/-- One lane of an outstanding operation, by cluster, gang slot, operation and lane. -/
structure LaneRef where
  cl : Nat
  slot : Nat
  op : Nat
  lane : Nat
  deriving DecidableEq, Repr

/-- A request that waits at a slice (R91): the line, whether it writes, its context and partition, its lane, whether its
line entered the filter for it, and the function whose mask its allocation uses (R89). -/
structure SliceWait where
  line : Nat
  write : Bool
  ctx : Nat
  part : Nat
  who : LaneRef
  filtered : Bool := false
  fn : Nat := 0
  deriving DecidableEq, Repr

/-- A miss register (R90): its line, the context whose miss took it, the ways sampled, the requests that joined. -/
structure MissReg where
  line : Nat
  ctx : Nat
  part : Nat
  ways : Nat
  write : Bool
  joined : List LaneRef
  deriving DecidableEq, Repr

/-- A slice's miss registers, waiting requests, filter and status (R90, R91, R94). -/
structure Slice where
  mrs : FMap MissReg
  waits : List SliceWait
  filter : List Nat
  bypassed : Nat
  fwaits : Nat
  filterFull : Bool
  missFull : Bool
  poison : Bool
  /-- Requests whose fill has just returned: their lookup was a miss (R474). -/
  filled : List LaneRef
  /-- Units whose fill has returned to them without an allocation (R89). -/
  back : List LaneRef := []
  deriving DecidableEq, Repr

/-- A slice after reset. -/
def Slice.reset : Slice :=
  { mrs := [], waits := [], filter := [], bypassed := 0, fwaits := 0, filterFull := false, missFull := false
    poison := false, filled := [] }

/-- An access of a unit of a cluster (an engine, a fetch, a write-back) to a line at a fabric home: for whom, the code of R47, what it
asks for, and which engine of the cluster makes it. -/
structure FarAsk where
  cl : Nat
  x : Nat
  eng : Nat
  write : Bool
  pkg : Nat
  pa : Nat
  n : Nat
  unit : Nat := 0
  deriving DecidableEq, Repr

/-- The end of such an access, kept for the step that takes it up: the bytes read, or the subtype of its access fault, and whether the answer
says that the line is tagged (R171). -/
structure FarGot where
  ask : FarAsk
  bytes : List Byte
  sub : Option Nat
  tagged : Bool := false
  deriving DecidableEq, Repr

/-- A request sent to a fabric home and not yet answered (R101, R104): the gang's operation and its lanes, in ascending
order, the package, the line and the plane, whether it is an ordinary store (R111), and the charge. -/
structure RemoteSent where
  cl : Nat
  slot : Nat
  op : Nat
  lanes : List Nat
  far : Nat
  pa : Nat
  plane : Nat
  port : Nat
  store : Bool
  ctx : Nat
  sentNs : Nat
  /-- Invalidated while its fill was outstanding (R108). -/
  noCopy : Bool
  /-- Quarters of its reply (R103), its memory type, and whether it was sent again when its port went down (R102). -/
  reply : Nat
  mt : Nat
  resent : Bool
  /-- Quarters of the request (R103), the domain it carries (R105), and the ways sampled for its copy (R89, R108). -/
  quarters : Nat := 1
  domain : Nat := 0
  ways : Nat := 0
  /-- The access of a unit that made it, if no lane did. -/
  unit : Option FarAsk := none
  /-- The translations through which its addresses are bound (R59). -/
  vias : List TlbEntry := []
  deriving DecidableEq, Repr

/-- A packet on a C-die's torus (R95-R99): class (0 request, 1 response, 2 acknowledgement), flits, die and stop, where it goes (die
4 is the H-die), channel (0 and 1 adaptive, 2 escape), the input by which it came (0 to 3 the direction it travelled in: +x, −x,
+y, −y; 4 injection), whether it is of the device type, its count of refused cycles, the cycles for which it still occupies the
link it came over, its place in the order of arrival at its buffer, the class and flits of a request's answer, and the access
it serves. -/
structure Packet where
  cls : Nat
  flits : Nat
  die : Nat
  x : Nat
  y : Nat
  toDie : Nat
  toX : Nat
  toY : Nat
  chan : Nat
  inp : Nat
  dev : Bool
  blocked : Nat
  busy : Nat
  order : Nat
  answer : Option (Nat × Nat)
  who : LaneRef
  deriving DecidableEq, Repr

/-- The answer to a seal-record read (R170): the line it was asked for, the consignment whose record was asked for, the stamp the read
carried, and the record's words 0 and 1. -/
structure RecAnswer where
  line : Nat
  csgid : Nat
  snap : Nat
  word0 : Nat
  sealT : Nat
  deriving DecidableEq, Repr

/-- What a profiling session selects and has gathered (R474, R476, R479). -/
structure SessData where
  run : Bool
  own : Nat
  evt : List DWord
  cnt : List Nat
  trBase : DWord
  trCtl : DWord
  dropped : Nat
  widx : Nat
  trFault : Bool
  cxLo : DWord
  cxHi : DWord
  cxCtl : DWord
  abandoned : Bool
  running : Bool
  finished : Bool
  ins : Nat
  /-- Cycles inserted so far in the running trial. -/
  insNow : Nat
  ns : Nat
  startNs : Nat
  snap : List Nat
  res : List Nat
  deriving DecidableEq, Repr

/-- A profiling resource (R472, R473). -/
structure Session where
  gen : Nat
  reclaimed : Bool
  evtLost : Bool
  st : Nat
  code : Nat
  data : SessData
  /-- The guest session taken over by the hypervisor. -/
  saved : Option SessData
  deriving DecidableEq, Repr

/-- A session's data when free. -/
def SessData.reset : SessData :=
  { run := false, own := 0, evt := [0, 0], cnt := List.replicate 8 0, trBase := 0, trCtl := 0, dropped := 0, widx := 0
    trFault := false, cxLo := 0, cxHi := 0, cxCtl := 0, abandoned := false, running := false, finished := false, ins := 0
    insNow := 0, ns := 0, startNs := 0, snap := List.replicate 16 0, res := List.replicate 16 0 }

/-- A resource after reset. -/
def Session.reset : Session :=
  { gen := 0, reclaimed := false, evtLost := false, st := 0, code := 0, data := SessData.reset, saved := none }

/-- A capture unit (R481). -/
structure Hcu where
  ctl : DWord
  min : Nat
  max : Nat
  cnt : Nat
  bins : List Nat
  deriving DecidableEq, Repr

/-- A capture unit after reset. -/
def Hcu.reset : Hcu := { ctl := 0, min := 0xFFFFFFFF, max := 0, cnt := 0, bins := List.replicate 16 0 }

/-- One partition of four clusters. -/
structure Part where
  corrF : Nat
  meter : Meter
  /-- Charges of the correction window before and after correction, in meter units (R432). -/
  raw : Nat
  /-- Running point (R440). -/
  op : Nat
  /-- The higher of the two points of a transition in progress (R442). -/
  trans : Option Nat
  prog : List Nat
  /-- L2 TLB, stage-2 translations and walk caches (R40), walk engines and waiting misses (R43). -/
  tlb2 : List TlbEntry
  s2tlb : List S2Entry
  nodes1 : List NodeEntry
  nodes2 : List NodeEntry
  walks : FMap Walk
  missq : List (Nat × Nat × Nat × Nat)
  joins : List UnitMiss := []
  /-- The power manager's ceiling (R444), and the ceilings of alarm actions in course: cause, unit, point and end in ns
  (R445). -/
  ceil : Nat
  acts : List (Nat × Nat × Nat × Nat)
  /-- A transition (R442): where it goes; 1 it waits for its step-start point, 2 the voltage ramps first, 3 the clocks pause,
  4 the voltage falls. -/
  dest : Nat
  phase : Nat
  /-- When the step of a waiting transition may start (R450), in ns. -/
  stepNs : Nat
  /-- Profiling resources (R471): banks 0-3, the trace unit 4, the causal unit 5. -/
  prof : FMap Session
  /-- Per-source sequence numbers of trace records (R477). -/
  sseq : FMap Nat
  /-- Records formed and not yet written, oldest first: their four words (R478). -/
  trbuf : List (List Nat)
  /-- Capture units (R481). -/
  hcu : FMap Hcu
  deriving DecidableEq, Repr

/-- A partition after reset. -/
def Part.reset : Part :=
  { corrF := 0x4000, meter := .zero, raw := 0, op := 2, trans := none, prog := List.replicate 16 0
    tlb2 := [], s2tlb := [], nodes1 := [], nodes2 := [], walks := [], missq := [], ceil := 15, acts := [], dest := 2, phase := 0, stepNs := 0
    prof := [], sseq := [], trbuf := [], hcu := [] }

/-- One function; 128 is the physical function. -/
structure Func where
  opmax : Nat
  opdef : Nat
  /-- Page-request and response rings (R49). -/
  prqBase : DWord
  prqCtl : DWord
  prqHead : Nat
  prqTail : Nat
  rsqBase : DWord
  rsqCtl : DWord
  rsqHead : Nat
  rsqTail : Nat
  badrsp : Nat
  badrspSeen : Bool
  fullSeen : Bool
  s2ctl : DWord
  prqSeq : Nat
  live : List PageReq
  /-- Invalidation (R57): address, counts, refused and full, pending commands with the accesses that each
  waits for (R59). -/
  tlbiAddr : DWord
  tlbiIssued : Nat
  tlbiDone : Nat
  tlbiRefused : Bool
  tlbiFull : Bool
  tlbiPend : List (DWord × List LaneRef)
  /-- VF_L2_WAYS, FAB_DOMAIN, VF_SCOPE_POL (R88, R105, R151). -/
  l2Ways : Word
  fabDomain : DWord
  demotions : Nat
  trapOnDemote : Bool
  scopeDemoted : Bool
  capTnt : Bool
  /-- Version store (R160). -/
  vstoreBase : DWord
  vstoreGeom : DWord
  /-- Prior records and consignment records in use; POOLFREE and RECFREE are the others (R160). -/
  poolUsed : List Nat
  recUsed : List Nat
  tagFull : Bool
  poolFull : Bool
  recFull : Bool
  viewLwm : DWord
  csgNext : Nat
  /-- The function's exact meter and the value its block shows (R427, R430). -/
  meter : Meter
  shown : Meter
  /-- MSI-X mask and pending bits of the 20 vectors (R492). -/
  msixMask : Nat
  msixPend : Nat
  /-- MSI-X addresses and data by vector × 2 + word (R484). -/
  msixTab : FMap DWord
  /-- VF_PARTS, VF_SHARE, VF_RATE_CAP, VF_PERIOD, CTX_TBL, XC_BASE, XC_SIZE (R407, R436, R430, R486, R504). -/
  parts : Nat
  share : Nat
  rateCap : Nat
  vfPeriod : Nat
  /-- When the current update period of the visible meter began (R430). -/
  periodNs : Nat
  ctxTbl : DWord
  xcBase : DWord
  xcPages : Nat
  /-- CTX_SEL, METER_SEL, CLU_SEL and the last result of CTX_OP (R428, R488, R490). -/
  ctxSel : Nat
  meterSel : Nat
  cluSel : Nat
  ctxResult : Nat
  /-- Words staged for free contexts by CTXID × 32 + word (R488). -/
  staged : FMap DWord
  /-- CTX_CMD's context, and CTX_STAT (R462). -/
  cmdCtx : Nat
  lostLines : Nat
  saveFault : Bool
  preCause : Nat
  /-- The 16 submission queues. -/
  queues : FMap Queue
  /-- The translator's request registers, its pending level and result, and the cache, newest first: hash and section
  (R504, R505). -/
  xlSrc : DWord
  xlSlen : DWord
  xlDst : DWord
  xlCap : DWord
  xlPend : Option Nat
  xlOutlen : Nat
  xlStatus : Nat
  xcCache : List (Nat × List Byte)
  /-- Records whose seal notices or restores are not all acknowledged: record, packages left, whether an abort, and the context
  (R168, R169). -/
  notices : List (Nat × List Nat × Bool × Nat)
  /-- In function-level reset (R491). -/
  flr : Bool
  deriving DecidableEq, Repr

/-- A function after reset. -/
def Func.reset : Func :=
  { opmax := 8, opdef := 8, prqBase := 0, prqCtl := 0, prqHead := 0, prqTail := 0, rsqBase := 0, rsqCtl := 0
    rsqHead := 0, rsqTail := 0, badrsp := 0, badrspSeen := false, fullSeen := false, s2ctl := 0, prqSeq := 0
    live := [], tlbiAddr := 0, tlbiIssued := 0, tlbiDone := 0, tlbiRefused := false, tlbiFull := false
    tlbiPend := [], l2Ways := 0xFFFFFFFF, fabDomain := 0, demotions := 0, trapOnDemote := false
    scopeDemoted := false, capTnt := false, vstoreBase := 0, vstoreGeom := 0, poolUsed := [], recUsed := []
    tagFull := false, poolFull := false, recFull := false, viewLwm := 0, csgNext := 1, meter := .zero, shown := .zero, msixMask := 0xFFFFF
    msixPend := 0, msixTab := [], parts := 0, share := 1, rateCap := 0, vfPeriod := 0x3E8, periodNs := 0, ctxTbl := 0, xcBase := 0, xcPages := 0
    ctxSel := 0, meterSel := 0, cluSel := 0, ctxResult := 0, staged := [], cmdCtx := 0, lostLines := 0, saveFault := false
    preCause := 0, queues := [], xlSrc := 0, xlSlen := 0, xlDst := 0, xlCap := 0, xlPend := none, xlOutlen := 0, xlStatus := 0
    xcCache := [], notices := [], flr := false }

/-! ## The package -/

/-- An instruction that the front end has selected for issue (R196): cluster, slot, port, address, active set. -/
structure Issue where
  cl : Nat
  slot : Nat
  portB : Bool
  addr : DWord
  lanes : List Nat
  /-- A user handler's thread issues (R459). -/
  scalar : Bool
  deriving DecidableEq, Repr

/-- A write of a register window that a context made and that is performed at the next step (R485): the window, the offset, the bytes
and the value. -/
structure RegWrite where
  win : Nat
  off : Nat
  len : Nat
  val : Nat
  deriving DecidableEq, Repr

/-- An event of the agenda: it happens at the first step boundary at or after a front-end cycle, when the package's time
unit reads `ns`. -/
structure Agenda where
  cyc : Nat
  ns : Nat
  ev : Instr
  deriving DecidableEq, Repr

/-- A fabric port (R115-R122). -/
structure PortSt where
  keyed : Bool
  session : Nat
  txCtr : Nat
  rxCtr : Nat
  /-- Next SEQ to send, next SEQ expected, and whether any slot was accepted. -/
  txSeq : Nat
  rxSeq : Nat
  ackv : Bool
  /-- The replay buffer: SEQ and payload, oldest first; how many of its head are still to be sent; replays without
  progress. -/
  replay : List (Nat × List Byte)
  unsent : Nat
  tries : Nat
  nak : Bool
  epoch : Nat
  switchAt : Option Nat
  tagFails : Nat
  authFail : Nat
  authDown : Bool
  crcErr : Nat
  replays : Nat
  /-- Quarters of messages that wait to be sent (R103), when an acknowledgement last advanced, and when it went down. -/
  queued : Nat
  ackNs : Nat
  downNs : Nat
  /-- It retrains (R119). -/
  retrain : Bool := false
  /-- When its keys last changed; the switch it proposes; whether a management slot is to be sent, and whether one came (R120). -/
  keyNs : Nat := 0
  proposed : Option Nat := none
  mgmtOut : Bool := false
  mgmtIn : Bool := false
  /-- The slot it sent last, and quarters of messages received and not yet taken (R115, R118). -/
  slot : List Byte := []
  credit : Nat := 0
  deriving DecidableEq, Repr

/-- A port after reset. -/
def PortSt.reset : PortSt :=
  { keyed := false, session := 0, txCtr := 0, rxCtr := 0, txSeq := 0, rxSeq := 0, ackv := false, replay := [], unsent := 0
    tries := 0, nak := false, epoch := 0, switchAt := none, tagFails := 0, authFail := 0, authDown := false, crcErr := 0
    replays := 0, queued := 0, ackNs := 0, downNs := 0 }

/-- Kinds of messages to other packages. -/
inductive FabKind where
  /-- A request to a fabric home (R101, R103): its domain, address and operation; for a write the mask of its line's bytes stands in
  the words. -/
  | request (dom pa : Nat) (op : RemoteOp)
  /-- The answer to a request: its bytes; none for an acknowledgement and for an expired view lane; one byte names the access
  fault that the request met. -/
  | answer
  | refusal
  /-- A seal-record read: the consignment and the view's stamp (R170). -/
  | recordRead
  /-- A seal's notice with its stamp (R168); an abort's restore (R169). -/
  | notice
  | restore
  /-- Words 0 and 1 of a seal record. -/
  | record
  | noticeAck
  | restoreAck
  | invalidationAck
  /-- To a line's fabric home: an invalidation of the copies that other packages hold, and a recall of its owned value (R109). -/
  | invalidate
  | recall
  /-- A domain's low-water marks: this package's report, and the minimum (R176). -/
  | lwmReport
  | lwmCast
  /-- Floor and demand in watts (R447); a grant in watts (R448). -/
  | demand
  | grant
  deriving DecidableEq, Repr

/-- A message this package has sent to package `dst`: what it answers or counts, its words and bytes, and its stamp (R155). -/
structure FabMsg where
  kind : FabKind
  dst : Nat
  id : Nat
  words : List Nat
  bytes : List Byte
  stamp : DWord
  deriving DecidableEq, Repr

/-- Kinds of messages that are answered. -/
def FabKind.tracked : FabKind → Bool
  | .recordRead | .notice | .restore | .invalidate | .recall => true
  | _ => false

/-- A message that is no request, with its line and its quarters: sent through a port and not yet answered, or waiting for a port of its
plane (R102). -/
structure SentMsg where
  m : FabMsg
  pa : Nat
  quarters : Nat
  port : Option Nat
  deriving DecidableEq, Repr

/-- A demand received or sent (R447): package, floor, demand, and when. -/
structure Demand where
  pkg : Nat
  floor : Nat
  demand : Nat
  ns : Nat
  deriving DecidableEq, Repr

/-- The power manager's registers and memory (R432, R443-R450). -/
structure Power where
  windowMs : Nat
  windowNs : Nat
  capCtl : DWord
  stepCtl : DWord
  throttled : Bool
  /-- Some ceiling has stood below its partition's target in the current 100 µs period (R444). -/
  below : Bool
  demands : List Demand
  demandSeq : Nat
  grantSeq : Nat
  /-- The leader last judged, and the number of its last applied grant. -/
  leader : Option Nat
  applied : Option Nat
  /-- The cap in force, and when a grant was last applied. -/
  cap : Option Nat
  capNs : Nat
  deriving DecidableEq, Repr

/-- A version-minima and image slot of module flash (R500): its image and its security version. -/
structure FlashSlot where
  image : List Byte
  svn : Nat
  deriving DecidableEq, Repr

/-- The security complex: mailbox, semaphore, boot (R495-R503). -/
structure Mgmt where
  mbxCmd : DWord
  mbxStatus : Nat
  mbxRlen : Nat
  mbxBusy : Bool
  mbxBuf : FMap Byte
  /-- The out-of-band port's last response: status and body. -/
  oob : Nat × List Byte
  gseq : Nat
  tmo : Nat
  last : Nat
  owner : Nat
  semNs : Nat
  recovery : Bool
  epoch : Nat
  readings : Nat
  slots : List FlashSlot
  active : Nat
  nextActive : Nat
  minSvn : Nat
  /-- The configuration record in force and the one stored for the next cold boot (R499, R501). -/
  record : List Byte
  stored : Option (List Byte)
  deriving DecidableEq, Repr

/-- A shadow of a meter block for one window (R429): HI, WRAPS, the last read (1 LO, 2 STAT after LO, 0 another), TORN. -/
structure Shadow where
  hi : Nat
  wraps : Nat
  last : Nat
  torn : Bool
  /-- The latched WRAPS belong to the last read of LO or of both halves. -/
  good : Bool
  deriving DecidableEq, Repr

/-- A domain's low-water marks (R176): reports by package, and the mark last received. -/
structure Lwm where
  reports : FMap Nat
  latest : Nat
  deriving DecidableEq, Repr

/-- The state of the package. -/
structure State where
  /-- The issue in progress; `exec` of an instruction runs it. -/
  cur : Option Issue
  sels : List Issue
  inputs : List Agenda
  /-- Register writes of contexts, oldest first. -/
  regq : List RegWrite
  /-- The functions whose translator requests are pending, oldest first (R506). -/
  xlQueue : List Nat
  /-- The lane row whose turn it is: cluster × 5 + row, row 4 for the cluster control core (R459). -/
  turn : Nat
  /-- Front-end cycles since reset (R393), the same for every cluster (log 1, DESIGN CHOICE). -/
  cycles : Nat
  /-- Counter of free values (log 7, DESIGN CHOICE). -/
  fresh : Nat
  timeNs : Nat
  timeLocked : Bool
  /-- The heartbeat ticks up to the last one that the clusters have observed, by its number (R146); 0 for none. -/
  beats : Nat
  hlc : DWord
  clusters : FMap Cluster
  parts : FMap Part
  funcs : FMap Func
  /-- Contexts by function × 4,096 + CTXID. -/
  ctxs : FMap Ctx
  pkgMeter : Meter
  uncoreF : Nat
  uncoreRaw : Nat
  alarm : DWord
  /-- Corrected uncore charges of the running 100 µs interval (R434), in meter units. -/
  uncoreSum : Nat
  /-- Shared-cache lines by slice × 1,024 + set (R87), and the slices. -/
  l2 : FMap (List L2Line)
  slices : FMap Slice
  /-- Poisoned 64-byte halves (R93) and tag-present bits of lines (R162), by half and line number. -/
  poison : FMap Bool
  tagBit : FMap Bool
  /-- Export states (R109), lines whose invalidation is unacknowledged, export table (R106). -/
  exportSt : FMap Nat
  exportInv : List Nat
  /-- Lines whose invalidation has been sent to the fabric home, and lines that a slice recalls, each with whether its recall has been
  sent (R109). -/
  invSent : List Nat
  recalls : FMap Bool
  /-- Writes of units that wait for the recall of their line (R109), oldest first: address and bytes. -/
  heldWrites : List (Nat × List Byte)
  exports : List (DWord × DWord)
  fabCtl : DWord
  remotes : FMap RemoteSent
  nextTag : Nat
  /-- Answers and domain messages sent to other packages, oldest first. -/
  fabOut : List FabMsg
  /-- Messages that are no requests, kept until they are answered or a port takes them (R102). -/
  sentMsgs : List SentMsg
  /-- Slots of ended contexts whose abort waits for their remote consignment stores (R168, R169): the context and the slot. -/
  aborts : List (Nat × CsgSlot)
  /-- Requests of other packages that wait for the answer to a seal-record read (R170). -/
  heldReqs : List RemoteReq
  /-- MSI-X messages sent, oldest first: function and vector (R492). -/
  msgs : List (Nat × Nat)
  /-- Live ports, bit per port (R102). -/
  ports : Nat
  /-- Started launches by number. -/
  launches : FMap Launch
  nextLaunch : Nat
  /-- The cluster wakes that wait for the slew limiter (R420). -/
  wakes : List Nat
  /-- Seal-record reads sent to other packages and not answered: line, consignment and the stamp each carries; and answers not yet used
(R170). -/
  asks : List (Nat × Nat × Nat)
  answers : List RecAnswer
  /-- SCHED_CTL's QUANTUM_US and ADMIT_PER_US, PROM, and the running batch: clusters not yet admitted, begin in ns
  (R420, R421). -/
  quantum : Nat
  perUs : Nat
  prom : Nat
  batch : List Nat
  batchNs : Nat
  /-- The batch waits for its step-start point (R450), in ns. -/
  batchStep : Option Nat
  /-- When the batch's next cluster resumes, and the time between two of them, in ns (R420). -/
  admitNs : Nat
  admitGap : Nat
  power : Power
  mgmt : Mgmt
  /-- Shadows by window and meter (R429). -/
  shadows : List ((Nat × MeterName) × Shadow)
  lwms : FMap Lwm
  /-- Fabric ports (R115-R122). -/
  portSt : FMap PortSt
  /-- ESC_WAIT and ESCCOUNT of each C-die (R98). -/
  torus : FMap (Nat × Nat)
  /-- Values of ESC_WAIT written in this cycle, by C-die: they take effect with the next (R98). -/
  escNew : FMap Nat
  /-- Packets on the tori by number, and the next number (R95-R99). -/
  net : FMap Packet
  nextPkt : Nat
  /-- Ended accesses of units to fabric homes, not yet taken up. -/
  farGot : List FarGot
  /-- Fault-ring records that wait to be written (R487), oldest first: context and record. -/
  frq : List (Nat × TrapRec)
  /-- HBM4 and the host window's memory (R14): strictly rising addresses, no entry 0. -/
  mem : List Host.Cell
  deriving DecidableEq, Repr

/-- The package after reset. -/
def State.reset : State :=
  { cur := none, sels := [], inputs := [], regq := [], xlQueue := [], turn := 0, cycles := 0, fresh := 0, timeNs := 0, timeLocked := false, beats := 0, hlc := 0
    clusters := [], parts := [], funcs := [], ctxs := [], pkgMeter := .zero, uncoreF := 0x4000, uncoreRaw := 0
    alarm := 0, uncoreSum := 0, l2 := [], slices := [], poison := [], tagBit := [], exportSt := [], exportInv := [], invSent := [], recalls := [], heldWrites := []
    exports := List.replicate 16 (0, 0), fabCtl := 0x0000000007D00258, remotes := [], nextTag := 0, fabOut := [], sentMsgs := [], aborts := [], heldReqs := [], msgs := [], ports := 0
    launches := [], nextLaunch := 0, wakes := [], asks := [], answers := [], quantum := 0x3E8, perUs := 0x28, prom := 0, batch := [], batchNs := 0, batchStep := none, admitNs := 0
    admitGap := 0
    power := { windowMs := 0x64, windowNs := 0, capCtl := 0x3E8, stepCtl := 0x0000010000040000, throttled := false, below := false, demands := []
               demandSeq := 0, grantSeq := 0, leader := none, applied := none, cap := none, capNs := 0 }
    mgmt := { mbxCmd := 0, mbxStatus := 0, mbxRlen := 0, mbxBusy := false, mbxBuf := [], oob := (0, []), gseq := 0, tmo := 0x3E8, last := 0
              owner := 0, semNs := 0, recovery := false, epoch := 0, readings := 0, slots := [⟨[], 0⟩, ⟨[], 0⟩], active := 0
              nextActive := 0, minSvn := 0, record := [], stored := none }
    shadows := [], lwms := [], portSt := [], torus := [], escNew := [], net := [], nextPkt := 0, farGot := [], frq := [], mem := [] }

end Sys2Proof.Machine
end

