-- ==== Sys2Proof/Machine/Ops.lean ====
section
/-! DEFINITION. The shared operations of the machine: access to clusters, gangs, threads and registers; stamps and
charges; taking a trap (20:R452-R456); and the one driver through which every instruction issues (10:R243-R246). -/

namespace Sys2Proof.Machine

/-- What a meaning answers. -/
abbrev Out := Host.Outcome State Fault Refusal

/-! ## Clusters, gangs, threads -/

/-- Cluster `c`. -/
def State.cluster (s : State) (c : Nat) : Cluster := s.clusters.getD c Cluster.reset

/-- The state with cluster `c` changed. -/
def State.updCluster (s : State) (c : Nat) (f : Cluster → Cluster) : State :=
  { s with clusters := s.clusters.set c (f (s.cluster c)) }

/-- The slot number that stands for the user handler's gang of one thread (R459); gang slots are 0 to 63 (R182). -/
def handlerSlot : Nat := 64

/-- The gang in a slot of cluster `c`. -/
def State.gang? (s : State) (c slot : Nat) : Option Gang :=
  if slot = handlerSlot then (s.cluster c).handler.map (·.gang) else (s.cluster c).gangs.find? slot

/-- The state with the gang of a slot changed. -/
def State.updGang (s : State) (c slot : Nat) (f : Gang → Gang) : State :=
  s.updCluster c fun k =>
    if slot = handlerSlot then { k with handler := k.handler.map fun h => { h with gang := f h.gang } }
    else { k with gangs := k.gangs.adjust slot f }

/-- The slot of an issue: the slot's gang, or the user handler's (R459). -/
def Issue.gangSlot (q : Issue) : Nat := if q.scalar then handlerSlot else q.slot

/-- The gang of an issue. -/
def State.issGang? (s : State) (q : Issue) : Option Gang := s.gang? q.cl q.gangSlot

/-- The state with the issue's gang changed. -/
def State.updIss (s : State) (q : Issue) (f : Gang → Gang) : State := s.updGang q.cl q.gangSlot f

/-- The thread that stands for a lane number that has none. -/
def Thread.absent : Thread := { Thread.start 0 0 with live := false }

/-- Thread `l` of a gang. -/
def Gang.thread (g : Gang) (l : Nat) : Thread := g.threads.getD l Thread.absent

/-- The gang with thread `l` changed. -/
def Gang.updThread (g : Gang) (l : Nat) (f : Thread → Thread) : Gang :=
  { g with threads := g.threads.modify l f }

/-- The gang with the threads of some lanes changed. -/
def Gang.updLanes (g : Gang) (ls : List Nat) (f : Nat → Thread → Thread) : Gang :=
  ls.foldl (fun g l => g.updThread l (f l)) g

/-- Usable registers U = A − D (R190). -/
def Gang.usable (g : Gang) : Nat := g.allot - g.depth

/-- The lanes of a gang whose threads are live. -/
def Gang.liveLanes (g : Gang) : List Nat := (List.range g.threads.length).filter fun l => (g.thread l).live

/-- The partition of a cluster (R201): four clusters each. -/
def partOf (c : Nat) : Nat := c / 4

/-! ## Registers and predicates -/

/-- Register `n` of a thread as a number. -/
def Thread.reg (t : Thread) (n : Nat) : Nat := (t.regs.getD n 0).toNat

/-- `k` registers from `n` on as one number, the lowest register in the low bits (R208). -/
def Thread.regsN (t : Thread) (n : Nat) : Nat → Nat
  | 0 => 0
  | k + 1 => t.reg n + 2 ^ 32 * Thread.regsN t (n + 1) k

/-- The thread with register `n` written. -/
def Thread.setReg (t : Thread) (n v : Nat) : Thread := { t with regs := t.regs.set n (BitVec.ofNat 32 v) }

/-- The thread with `k` registers from `n` on written from one number (R208). -/
def Thread.setRegs (t : Thread) (n : Nat) : Nat → Nat → Thread
  | 0, _ => t
  | k + 1, v => Thread.setRegs (t.setReg n v) (n + 1) k (v / 2 ^ 32)

/-- Predicate `p`; p0 reads true (R179). -/
def Thread.pred (t : Thread) (p : Nat) : Bool := p == 0 || t.preds.toNat.testBit p

/-- The thread with predicate `p` written; a write to p0 is discarded (R179). -/
def Thread.setPred (t : Thread) (p : Nat) (v : Bool) : Thread :=
  if p = 0 then t
  else { t with preds := BitVec.ofNat 8 (setBits t.preds.toNat p 1 (b2n v)) }

/-- Index register `i` as a number. -/
def Thread.xreg (t : Thread) (i : Nat) : Nat := (t.xregs.getD i 0).toNat

/-- BASE, LEN (above 128 acts as 128) and signed IDX of an index register (R202). -/
def xBase (x : Nat) : Nat := bitsOf x 25 7
/-- LEN of an index register. -/
def xLen (x : Nat) : Nat := Nat.min 128 (bitsOf x 17 8)
/-- IDX of an index register. -/
def xIdx (x : Nat) : Int := sgn 16 x

/-- The register that window element IDX + o + j of index register `i` names (R203). -/
def Thread.winReg (t : Thread) (i o j : Nat) : Nat :=
  ((xBase (t.xreg i) : Int) + xIdx (t.xreg i) + (o + j : Nat)).toNat

/-- An indexed operand of `n` registers, aligned to `al`, is in range (R203). -/
def Thread.winOk (t : Thread) (u i o n al : Nat) : Bool :=
  (List.range n).all (fun j =>
    let k := xIdx (t.xreg i) + (o + j : Nat)
    decide (0 ≤ k ∧ k < xLen (t.xreg i) ∧ (xBase (t.xreg i) : Int) + k < u)) &&
  t.winReg i o 0 % al == 0

/-- The source lane of a permuted operand (R204); in scalar mode every pattern reads lane 0 (R459). -/
def permLane (scalar : Bool) (p : Perm) (l : Nat) : Nat :=
  if scalar then l
  else match p with
    | .ident => l
    | .rot k => (l + k.toNat) % 32
    | .bc j => j.toNat
    | .xor m => l ^^^ m.toNat
    | .mir k => l ^^^ (2 ^ k.toNat - 1)
    | .idx _ _ => l

/-- A source operand of `n` registers in lane `l` (R203, R204, R206). -/
def Gang.src (g : Gang) (scalar : Bool) (p : Perm) (r : BitVec 7) (l n : Nat) : Nat :=
  match p with
  | .idx i o => (g.thread l).regsN ((g.thread l).winReg i.toNat o.toNat 0) n
  | p => (g.thread (permLane scalar p l)).regsN r.toNat n

/-! ## Stamps and charges -/

/-- take() (R154): the next stamp of the package's clock. -/
def State.take (s : State) : DWord × State :=
  let h := BitVec.ofNat 64 (Nat.max ((s.hlc.toNat + 1) % 2 ^ 64) (s.timeNs / 1000 * 2 ^ 16 % 2 ^ 64))
  (h, { s with hlc := h })

/-- merge(m) (R154). -/
def State.merge (s : State) (m : DWord) : State :=
  { s with hlc := BitVec.ofNat 64 (Nat.max (Nat.max ((s.hlc.toNat + 1) % 2 ^ 64) ((m.toNat + 1) % 2 ^ 64))
      (s.timeNs / 1000 * 2 ^ 16 % 2 ^ 64)) }

/-- Meter units per picojoule: 5 × 2^20 (log 9, DESIGN CHOICE). -/
def unitsPerPj : Nat := 5 * 2 ^ 20

/-- The meter with units added; a carry past 2^64 − 1 pJ raises the wrap count (R426). -/
def Meter.add (m : Meter) (u : Nat) : Meter :=
  let t := m.units + u
  let lim := unitsPerPj * 2 ^ 64
  { m with units := t % lim, wraps := (m.wraps + t / lim) % 2 ^ 16 }

/-- The whole-picojoule value (R426). -/
def Meter.pj (m : Meter) : Nat := m.units / unitsPerPj

/-- A context as its meters and bucket stand before anything was charged. -/
def Ctx.new : Ctx := { st := 0, eligNs := 0, resNs := 0, lastQ := 15, leaving := none, saved := [], responses := [], meter := .zero, level := 0, grant := none, stopped := false, sroot := 0, s2ctl := 0, uncore := 0, groups := [] }

/-- Partition `p`. -/
def State.part (s : State) (p : Nat) : Part := s.parts.getD p Part.reset

/-- The toll table of a partition: during a transition, that of the higher-numbered point (R442). -/
def Part.point (p : Part) : Nat := match p.trans with | some o => Nat.max o p.op | none => p.op

/-- Function `f`; 128 is the physical function. -/
def State.func (s : State) (f : Nat) : Func := s.funcs.getD f Func.reset

/-- The state with function `f` changed. -/
def State.updFunc (s : State) (f : Nat) (g : Func → Func) : State := { s with funcs := s.funcs.set f (g (s.func f)) }

/-- A function's window ignores writes and reads zero: in function-level reset (R491), and in recovery mode, where the endpoint
shows the control region alone (R500). -/
def State.shut (s : State) (f : Nat) : Bool := s.mgmt.recovery || (s.func f).flr

/-- A context that is not free. -/
def State.ctx (s : State) (x : Nat) : Ctx := s.ctxs.getD x Ctx.new

/-- The state with a context changed. -/
def State.updCtx (s : State) (x : Nat) (g : Ctx → Ctx) : State := { s with ctxs := s.ctxs.set x (g (s.ctx x)) }

/-- Charge a context with meter units (R427, R437): its meter, its bucket, its function's meter and the package meter. A
level at or below zero stops the context (R438). -/
def State.chargeCtx (s : State) (x u : Nat) : State :=
  let c := s.ctxs.getD x Ctx.new
  let m := c.meter.add u
  let adv := (c.meter.units + u) / unitsPerPj - c.meter.pj
  let lv := max (c.level - adv) (-(2 ^ 62 : Int))
  { s with
    ctxs := s.ctxs.set x { c with meter := m, level := lv, stopped := c.stopped || decide (0 < u ∧ lv ≤ 0) }
    funcs := s.funcs.set (x / 4096) { s.func (x / 4096) with meter := (s.func (x / 4096)).meter.add u }
    pkgMeter := s.pkgMeter.add u }

/-- Events of the uncore domain (R424). -/
def uncoreEvent (e : Nat) : Bool := e == 11 || e == 12 || e == 13 || e == 17

/-- The charge of `chargeQ` alone: meters, correction sums, bucket. -/
def State.chargeRaw (s : State) (p x e q : Nat) : State :=
  let pt := s.part p
  let per := if 1 ≤ e ∧ e ≤ 7 then 1 else 5
  let raw := Config.toll s.mgmt.record pt.point e * q * per
  if uncoreEvent e then
    let u := raw * s.uncoreF
    ({ s with uncoreRaw := s.uncoreRaw + raw * 0x4000, uncoreSum := s.uncoreSum + u }.chargeCtx x u).updCtx x
      fun c => { c with uncore := c.uncore + u }
  else
    let u := raw * pt.corrF
    { s with parts := s.parts.set p { pt with meter := pt.meter.add u, raw := pt.raw + raw * 0x4000 } }.chargeCtx x u

/-! ## Counting and tracing (R472-R478) -/

/-- A session counts events of function `f` (R472): a guest session its own function's, the hypervisor's by its filter. -/
def Session.covers (se : Session) (f : Nat) : Bool :=
  se.data.run && ((se.st == 1 && se.data.own == f) || (se.st == 2 && (se.data.own == 0xFF || se.data.own == f)))

/-- A trial of a session selects context `x` (R479, R480). -/
def Session.selects (se : Session) (x : Nat) : Bool :=
  se.covers (x / 4096) && (!bitOf se.data.cxCtl.toNat 51 || bitsOf se.data.cxCtl.toNat 52 12 == x % 4096)

/-- A trial ends (R480): its results are written. -/
def SessData.endTrial (d : SessData) (prog : List Nat) (now : Nat) (abandoned : Bool) : SessData :=
  { d with
    run := false, running := false, finished := true, abandoned := d.abandoned || abandoned, ins := d.insNow
    ns := now - d.startNs
    res := (List.range 16).map fun k => (prog.getD k 0 + 2 ^ 64 - d.snap.getD k 0) % 2 ^ 64 }

/-- A context is saved or energy-stopped: the trials that select it, on the partitions where it is resident, end abandoned
(R480). -/
def State.abandon (s : State) (x : Nat) : State :=
  { s with parts := s.parts.map fun p => (p.1,
      match p.2.prof.find? 5 with
      | none => p.2
      | some se =>
        if (se.data.running && se.selects x && (List.range 4).any fun i =>
            (s.cluster (4 * p.1 + i)).blocks.any fun b => b.2.ctx == x) = true then
          { p.2 with prof := p.2.prof.set 5 { se with data := se.data.endTrial p.2.prog s.timeNs true } }
        else p.2) }

/-- A gang without pending wakes; stopped for energy, where `e` says so (R456). -/
def Gang.noWake (g : Gang) (e : Bool) : Gang :=
  { g with threads := g.threads.map fun t => { t with wake := false }, estop := g.estop || e }

/-- The gangs of a context without pending wakes. -/
def dropGangWakes (x : Nat) (e : Bool) (m : FMap Gang) : FMap Gang := m.map fun g => (g.1, if g.2.ctx = x then g.2.noWake e else g.2)

/-- A cluster whose gangs of a context have no pending wake. -/
def Cluster.dropWakes (k : Cluster) (x : Nat) (e : Bool) : Cluster :=
  let gangs := dropGangWakes x e k.gangs
  { k with gangs, wakePend := k.wakePend && gangs.any fun g => g.2.threads.any (·.wake) }

/-- The clusters of a context leave the pending set (R422), its gangs being stopped for energy where `e` says so (R438, R456). -/
def State.dropWakes (s : State) (x : Nat) (e : Bool) : State :=
  let clusters := s.clusters.map fun k => (k.1, k.2.dropWakes x e)
  { s with clusters, wakes := s.wakes.filter fun c => ((FMap.find? clusters c).map (·.wakePend)).getD false }

/-- The event codes a bank knows (R474). -/
def knownEvents : List Nat :=
  [0x001, 0x002, 0x003, 0x004, 0x010, 0x011, 0x012, 0x013, 0x014, 0x015, 0x020, 0x021, 0x030, 0x031]

/-- The field of counter `j` in the selections: its code when it is enabled. -/
def SessData.eventOf (d : SessData) (j : Nat) : Option Nat :=
  let w := bitsOf (d.evt.getD (j / 4) 0).toNat (16 * (j % 4)) 16
  if bitOf w 15 then some (w % 4096) else none

/-- A bank's counters of an event raised by `n` (R474). -/
def SessData.count (d : SessData) (code n : Nat) : SessData :=
  { d with cnt := (List.range 8).map fun j =>
      if d.eventOf j = some code then (d.cnt.getD j 0 + n) % 2 ^ 64 else d.cnt.getD j 0 }

/-- Count `n` events of a code caused in partition `p` by function `f` (R474). -/
def State.count (s : State) (p f code n : Nat) : State :=
  let pt := s.part p
  if pt.prof = [] then s
  else
    { s with parts := s.parts.set p { pt with prof := pt.prof.map fun r =>
        if (decide (r.1 < 4) && r.2.covers f) = true then (r.1, { r.2 with data := r.2.data.count code n }) else r } }

/-- A trace record formed for partition `p` (R476-R478): its event, source, gang slot, context, argument, address, command
number and data. A full buffer drops it. -/
def State.trace (s : State) (p ev src gang x arg : Nat) (iaddr : DWord) (cmdseq data : Nat) : State :=
  let pt := s.part p
  match pt.prof.find? 4 with
  | none => s
  | some se =>
    let bit := if ev = 0 then 0 else if ev ≤ 2 then 1 else if ev = 3 then 2 else if ev ≤ 5 then 3 else if ev ≤ 7 then 4 else 5
    if !se.covers (x / 4096) || !bitOf se.data.trCtl.toNat (24 + bit) then s
    else if 64 ≤ pt.trbuf.length then
      let d := { se.data with dropped := Nat.min (2 ^ 24 - 1) (se.data.dropped + 1) }
      { s with parts := s.parts.set p { pt with prof := pt.prof.set 4 { se with data := d } } }
    else
      let (st, s) := s.take
      let n := pt.sseq.getD src 0
      let w0 := ev * 2 ^ 58 + src * 2 ^ 46 + gang % 64 * 2 ^ 40 + x % 4096 * 2 ^ 28 + n % 256 * 2 ^ 20 + arg % 2 ^ 20
      { s with parts := s.parts.set p { pt with
          sseq := pt.sseq.set src ((n + 1) % 256)
          trbuf := pt.trbuf ++ [[w0, st.toNat, iaddr.toNat, cmdseq % 2 ^ 24 * 2 ^ 40 + data % 2 ^ 40]] } }

/-- The bank event that a toll's event is (R474); 0 for none. -/
def bankCode (e : Nat) : Nat :=
  if e = 0 then 0x001 else if e = 10 then 0x010 else if e = 12 then 0x014 else if e = 13 then 0x015 else if e = 14 then 0x020
  else if e = 16 then 0x021 else 0

/-- An energy stop that charges made in partition `p` have caused is counted and traced (R474, R477); it ends trials (R480) and
takes the context's clusters out of the pending set (R422). `old` tells whether the context was stopped before. -/
def State.noteStop (s : State) (p x : Nat) (old : Bool) : State :=
  if (s.ctx x).stopped = old then s else (((s.count p (x / 4096) 0x031 1).trace p 6 (64 * p + 15) 0 x 1 0 0 0).abandon x).dropWakes x true

/-- Charge `n` units of event `e` made in partition `p` to context `x` (R425): with F in Q2.14 and kind L priced per five
lanes. `q` counts quarters of a unit (R103). -/
def State.chargeQ (s : State) (p x e q : Nat) : State :=
  let old := (s.ctx x).stopped
  let s := s.chargeRaw p x e q
  let s := if bankCode e = 0 then s else s.count p (x / 4096) (bankCode e) (if e = 13 then q else q / 4)
  s.noteStop p x old

/-- Charge `n` whole units of event `e`. -/
def State.charge (s : State) (p x e n : Nat) : State := s.chargeQ p x e (4 * n)

/-- The toll of a constant line (R79), that of an L1 hit, which no bank counts as one (R474). -/
def State.chargeConst (s : State) (p x : Nat) : State := (s.chargeRaw p x 10 4).noteStop p x (s.ctx x).stopped

/-! ## Traps -/

/-- Trap classes (R452). -/
def clsIllegalInstr : Nat := 0x01
def clsIllegalClause : Nat := 0x02
def clsIllegalOperand : Nat := 0x03
def clsIndexRange : Nat := 0x04
def clsRole : Nat := 0x05
def clsConvergence : Nat := 0x06
def clsDesync : Nat := 0x07
def clsTranslation : Nat := 0x08
def clsAccess : Nat := 0x09
def clsAlignment : Nat := 0x0A
def clsReturnUnderflow : Nat := 0x0B
def clsDivergence : Nat := 0x0C
def clsAccWindow : Nat := 0x0D
def clsReleaseWb : Nat := 0x0E
def clsBreakpoint : Nat := 0x0F
def clsArith : Nat := 0x10
def clsUser : Nat := 0x11

/-- A record enters the cluster's trap ring of 256, or is held while the ring is full (R454). -/
def Cluster.report (k : Cluster) (r : TrapRec) : Cluster :=
  if k.ring.length < 256 ∧ k.held = [] then { k with ring := k.ring ++ [r] } else { k with held := k.held ++ [r] }

/-- A user handler that takes a trap has ended with verdict 2 (R459): the context of the stopped gang ends. -/
def trapHandler (s : State) (c : Nat) : State :=
  s.updCluster c fun k => { k with handler := k.handler.map fun h => { h with verdict := some 2 } }

/-- A written trap record, counted and traced (R474, R477), and the gang's stop. -/
def State.traceTrap (s : State) (c x row : Nat) (r : TrapRec) : State :=
  let p := partOf c
  let s := (s.count p (x / 4096) 0x030 1).trace p 0 (16 * c + 14) r.gang x (r.cls * 256 + r.subtype) r.iaddr r.cmdseq 0
  if r.gone then s else s.trace p 6 (16 * c + row) r.gang x 0 r.iaddr 0 0

/-- Taking a trap (R454, R456): the record is completed with the gang's identity and a stamp and reported, and the gang is
stopped with TSTOP and HALT. A handler that takes a trap ends (R459). -/
def trapGang (s : State) (c slot : Nat) (r : TrapRec) : State :=
  if slot = handlerSlot then trapHandler s c
  else
    match s.gang? c slot with
    | none => s
    | some g =>
      let (st, s) := s.take
      let r := { r with gang := slot, cluster := c, ctxid := g.ctx % 4096
                        vf := if g.ctx / 4096 = 128 then 0 else g.ctx / 4096
                        pfn := g.ctx / 4096 == 128, stamp := st }
      let s := (s.updCluster c (·.report r)).updGang c slot fun g => { g with tstop := true, halt := true }
      s.traceTrap c g.ctx (slot / 16) r

/-- A trap of an issue. -/
def trapIssue (s : State) (q : Issue) (r : TrapRec) : State := trapGang s q.cl q.gangSlot r

/-! ## Leaving an instruction -/

/-- An end step of a level (R343): the level after it and whether the thread goes back to LS. -/
def endLevel (l : LoopLevel) : Option LoopLevel × Bool :=
  if l.lc.toNat ≤ 1 then (none, false) else (some { l with lc := l.lc - 1 }, true)

/-- A thread leaves the clause at `hdr` sequentially, the next header being `h` (R235, R342, R343). -/
def Thread.leave (t : Thread) (hdr h : DWord) : Thread :=
  let next := match t.skip with | some (e, a) => if e = hdr then a else h | none => h
  let t := { t with clause := none, skip := none }
  let zero (t : Thread) : Thread :=
    match t.loop0 with
    | some l =>
      if l.le = hdr then
        let (l', back) := endLevel l
        { t with loop0 := l', pc := if back then l.ls else next }
      else { t with pc := next }
    | none => { t with pc := next }
  match t.loop1 with
  | some l =>
    if l.le = hdr then
      let (l', back) := endLevel l
      if back then { t with loop1 := l', pc := l.ls } else zero { t with loop1 := none }
    else zero t
  | none => zero t

/-- The header after a clause: PC_header + 4 × (W + 1) (R235). -/
def Clause.next (c : Clause) : DWord := c.hdr + BitVec.ofNat 64 (4 * c.words.length)

/-- A thread moves past an instruction of `len` words at its PC. -/
def Thread.advance (t : Thread) (len : Nat) : Thread :=
  let p := t.pc + BitVec.ofNat 64 (4 * len)
  match t.clause with
  | none => { t with pc := p }
  | some c => if p = c.next then t.leave c.hdr p else { t with pc := p }

/-- A thread takes a transfer to `a` (R235). -/
def Thread.transfer (t : Thread) (a : DWord) : Thread := { t with clause := none, skip := none, pc := a }

/-! ## Issue -/

/-- What a meaning reads: the issue, the gang as it stood at issue, the fields and the active lanes (R243). -/
structure Ctxt where
  q : Issue
  g : Gang
  f : Fields
  act : List Nat
  deriving DecidableEq, Repr

/-- How an instruction's own effect ends. -/
inductive Eff where
  /-- Performed; the lanes listed transfer, the other issuing threads advance. -/
  | go (s : State) (ts : List (Nat × DWord))
  /-- Performed; the gang then stops with the PC on the next instruction. -/
  | after (s : State) (r : TrapRec)
  /-- Performed with the PC left on the instruction: the gang stops there (`brk`). -/
  | on (s : State) (r : TrapRec)
  /-- Unperformed: the gang stops with the PC on the instruction (R246). -/
  | trap (r : TrapRec)
  /-- Unperformed: a fault whose record carries its own PC (a fetch fault). -/
  | stop (s : State) (r : TrapRec)
  /-- Waits at issue; nothing is performed and nothing charged. -/
  | wait (s : State) (w : Wait)
  /-- Performed for the issuing threads but `stay`, which wait on the instruction; charged when it says so. -/
  | split (s : State) (charged : Bool) (stay : List Nat) (w : Wait)
  deriving DecidableEq, Repr

/-- The guard value of a lane (R243). -/
def guardTrue (f : Fields) (t : Thread) : Bool :=
  !f.guard.en || (t.pred f.guard.pred.toNat != f.guard.neg)

/-- The registers of an operand: first register and count for a register operand. -/
def opndRegs (jord : Nat) : Opnd → Option (Nat × Nat)
  | .regs n al => some (n, al)
  | .block _ => some (1, 1)
  | .jet => some (1, if jord = 0 then 1 else if jord = 1 then 2 else if jord ≤ 3 then 4 else 8)
  | _ => none

/-- R246 item 2: a named register at or above U, or a misaligned pair or quad. A jet group and a tiered block are judged
here by their first register, and their alignment with the instruction's own traps (R294, R299). -/
def fieldBad (u : Nat) (o : Opnd) (p : Perm) (r : BitVec 7) : Bool :=
  match p with
  | .idx _ _ => false
  | _ =>
    match o with
    | .regs n al => r.toNat % al != 0 || u < r.toNat + n
    | .block _ => u ≤ r.toNat
    | .jet => u ≤ r.toNat
    | _ => false

/-- Every register field of an instruction passes item 2. -/
def operandBad (u : Nat) (sh : Shape) (f : Fields) : Bool :=
  fieldBad u sh.vd .ident f.vd || fieldBad u sh.vs0 f.perm0 f.vs0 || fieldBad u sh.vs1 f.perm1 f.vs1 ||
  fieldBad u sh.third .ident (BitVec.ofNat 7 (auxBits f 4 7))

/-- R246 item 3: the lanes of the active set whose indexed operand is out of range (R203). -/
def indexBad (g : Gang) (lanes : List Nat) (o : Opnd) (p : Perm) : List Nat :=
  match p with
  | .idx i k =>
    let (n, al) := match o with | .regs n al => (n, al) | .block n => (n, 1) | _ => (1, 1)
    lanes.filter fun l => !(g.thread l).winOk g.usable i.toNat k.toNat n al
  | _ => []

/-- The record fields of an instruction-level trap. -/
def trapOf (cls : Nat) (lanes : List Nat) : TrapRec := { cls, lanemask := maskOf lanes }

/-- The operand judgements before an instruction's own traps (R246 items 2 and 3). -/
def judgeOperands (c : Ctxt) (sh : Shape) : Option TrapRec :=
  if operandBad c.g.usable sh c.f then some (trapOf clsIllegalOperand c.act)
  else
    match indexBad c.g c.q.lanes sh.vs0 c.f.perm0 ++ indexBad c.g c.q.lanes sh.vs1 c.f.perm1 with
    | [] => none
    | ls => some (trapOf clsIndexRange ls)

/-- Whether a permutation is charged (R205): codes 1 to 4. -/
def permCharged : Perm → Nat
  | .ident => 0
  | .idx _ _ => 0
  | _ => 1

/-- A running trial holds back a gang of a selected context that issues outside its range (R480); two ports of one cycle count
once. The cycles lie outside the bound of R200. -/
def State.causalHold (s : State) (c : Ctxt) : State :=
  let p := partOf c.q.cl
  match (s.part p).prof.find? 5 with
  | none => s
  | some se =>
    let a := c.q.addr.toNat / 4
    let d := bitsOf se.data.cxCtl.toNat 32 8
    let out := decide (a < se.data.cxLo.toNat / 4 ∨ se.data.cxHi.toNat / 4 ≤ a)
    if (se.data.running && se.selects c.g.ctx && out && !c.q.scalar && decide (c.g.delayed ≤ s.cycles)) = true then
      let pt := s.part p
      let se := { se with data := { se.data with insNow := (se.data.insNow + d) % 2 ^ 64 } }
      ({ s with parts := s.parts.set p { pt with prof := pt.prof.set 5 se } }).updIss c.q fun g =>
        { g with delayed := s.cycles + 1 + d, picked := g.picked + d }
    else s

/-- The issue toll and the permutation tolls (R243, R205). -/
def chargeIssue (s : State) (c : Ctxt) : State :=
  let s := s.causalHold c
  let s := s.charge (partOf c.q.cl) c.g.ctx 0 1
  let s := s.count (partOf c.q.cl) (c.g.ctx / 4096) 0x002 c.act.length
  let s := if c.q.portB then s.count (partOf c.q.cl) (c.g.ctx / 4096) 0x003 1 else s
  match permCharged c.f.perm0 + permCharged c.f.perm1 with
  | 0 => s
  | n => s.charge (partOf c.q.cl) c.g.ctx 8 n

/-- Where a thread's instruction behind one of `len` words stands (R344): past the header of the following clause, if the clause ends
with it. -/
def Thread.nextInstr (t : Thread) (len : Nat) : DWord :=
  let t' := t.advance len
  if t'.clause.isNone then t'.pc + 4 else t'.pc

/-- An issue of the gang at another PC than a yielded thread's next instruction ends the yield (R344). -/
def Thread.unyield (t : Thread) (a : DWord) : Thread :=
  match t.wait with
  | some (.yield n _) => if n = a then t else { t with wait := none }
  | _ => t

/-- The waits that outlast the instruction that sets them: `yield` and `sleep`. -/
def keptWait : Option Wait → Option Wait
  | some (.yield n x) => some (.yield n x)
  | some (.sleep x) => some (.sleep x)
  | _ => none

/-- A stopped thread as it resumes: one that slept is eligible (R396), and one that waited at a `bar.wait` tests again (R387). -/
def Thread.resumed (t : Thread) : Thread :=
  match t.wait with
  | some (.sleep _) | some (.phase _ _) => { t with wait := none }
  | _ => t

/-- Book-keeping of a performed issue: RSB, which ends at zero where the issue itself restarted its block's counts (R415), the yields of the other threads that it ends (R344), and for every issuing thread the
launch site (R20) and the PC. -/
def Gang.issued (g : Gang) (q : Issue) (len : Nat) (ts : List (Nat × DWord)) : Gang :=
  let g : Gang := { g with rsb := if g.restarted then 0 else Nat.min 0xFFFF (g.rsb + 1), restarted := false }
  let others := (List.range 32).filter fun l => !q.lanes.contains l
  (g.updLanes others fun _ t => t.unyield q.addr).updLanes q.lanes fun l t =>
    let t := { t with last := q.addr, wait := keptWait t.wait }
    match ts.find? (fun x => x.1 == l) with
    | some x => t.transfer x.2
    | none => t.advance len

/-- The PC of the lowest of some lanes. -/
def Gang.pcOf (g : Gang) (ls : List Nat) : DWord := (g.thread (ls.headD 0)).pc

/-- Asynchronous records that an issue itself brought about name the boundary behind it (R455). -/
def State.boundary (s s0 : State) (q : Issue) : State :=
  match s.issGang? q with
  | none => s
  | some g =>
    if !g.tstop then s
    else
      let k0 := s0.cluster q.cl
      let fix := fun (n : Nat) (rs : List TrapRec) =>
        rs.take n ++ (rs.drop n).map fun r => if r.async && !r.gone && r.gang == q.gangSlot then { r with pc := g.pcOf g.liveLanes } else r
      s.updCluster q.cl fun k => { k with ring := fix k0.ring.length k.ring, held := fix k0.held.length k.held }

/-- Ending of an instruction's effect: PCs, tolls and traps. -/
def finishIssue (c : Ctxt) (len : Nat) : Eff → State → State
  | .go s ts, s0 => ((chargeIssue s c).updIss c.q (·.issued c.q len ts)).boundary s0 c.q
  | .after s r, _ =>
    let s := (chargeIssue s c).updIss c.q (·.issued c.q len [])
    let pc := match s.issGang? c.q with | some g => g.pcOf c.q.lanes | none => 0
    trapIssue s c.q { r with pc, iaddr := c.q.addr, actmask := maskOf c.act }
  | .on s r, _ =>
    trapIssue (chargeIssue s c) c.q { r with pc := c.q.addr, iaddr := c.q.addr, actmask := maskOf c.act }
  | .trap r, s => trapIssue s c.q { r with pc := c.q.addr, iaddr := c.q.addr, actmask := maskOf c.act }
  | .stop s r, _ => trapIssue s c.q { r with iaddr := c.q.addr, actmask := maskOf c.act }
  | .wait s w, _ => s.updIss c.q (·.updLanes c.q.lanes fun _ t => { t with wait := some w })
  | .split s charged stay w, _ =>
    let q := { c.q with lanes := c.q.lanes.filter (!stay.contains ·) }
    (if charged then chargeIssue s c else s).updIss c.q fun g =>
      let g' := if charged then g.issued q len []
        else { g.issued q len [] with rsb := g.rsb }
      g'.updLanes stay fun _ t => { t with wait := some w, last := c.q.addr }

/-- The one way an instruction issues: the issue in progress names the gang and the active set; the operand
judgements come first (R246), then the instruction's own effect. -/
def issueWith (i : Instr) (f : Fields) (s : State) (body : Ctxt → State → Eff) :
    Host.Outcome State Fault Refusal :=
  match s.cur with
  | none => .fault .noIssue
  | some q =>
    match s.issGang? q with
    | none => .fault .noIssue
    | some g =>
      let c : Ctxt := { q, g, f, act := q.lanes.filter fun l => guardTrue f (g.thread l) }
      let s := { s with cur := none }
      let e := match judgeOperands c (shape i) with
        | some r => .trap r
        | none => body c s
      .next (finishIssue c (encode i).length e s)

end Sys2Proof.Machine
end

