-- ==== Sys2Proof/Machine/Phys.lean ====
section
/-! DEFINITION. Physical memory and its home: bytes of HBM4 and of the host window (01:R14), channels and slices
(04:R84-R86), the residency of lines in the shared cache and what an access to it charges (04:R87-R92). -/

namespace Sys2Proof.Machine

/-- The function of a context. -/
def fnOf (x : Nat) : Nat := x / 4096

/-! ## Bytes -/

/-- The byte at a physical address; a byte that nothing has written reads 0 (log 3, DESIGN CHOICE). -/
def readByte (m : List Host.Cell) (a : Nat) : Byte := FMap.getD m a 0

/-- The memory with one byte written, in its canonical form: a byte of 0 is not listed. -/
def writeByte (m : List Host.Cell) (a : Nat) (v : Byte) : List Host.Cell :=
  if v = 0 then FMap.del m a else FMap.set m a v

/-- `n` bytes from an address on. -/
def readBytes (m : List Host.Cell) (a n : Nat) : List Byte := (List.range n).map fun i => readByte m (a + i)

/-- The memory with bytes written from an address on. -/
def writeBytes (m : List Host.Cell) (a : Nat) : List Byte → List Host.Cell
  | [] => m
  | b :: bs => writeBytes (writeByte m a b) (a + 1) bs

/-- The memory is canonical: strictly rising addresses and no listed 0. -/
def Memory.wf (m : List Host.Cell) : Bool := FMap.sorted m && m.all fun c => c.2 != 0

/-- `n` bytes as a little-endian number (R6). -/
def State.readNum (s : State) (a n : Nat) : Nat := fromBytes (readBytes s.mem a n)

/-- The state with `n` bytes of memory written from a number. -/
def State.writeNum (s : State) (a n v : Nat) : State := { s with mem := writeBytes s.mem a (toBytes n v) }

/-- Bytes of memory made zero: no byte of the range is listed. -/
def State.zeroRange (s : State) (a n : Nat) : State :=
  { s with mem := s.mem.filter fun c => !(decide (a ≤ c.1) && decide (c.1 < a + n)) }

/-! ## The physical map (R14) -/

/-- HBM4. -/
def inHbm (a : Nat) : Bool := a < 2 ^ 39
/-- The host window. -/
def inHost (a : Nat) : Bool := 0x8000000000000 ≤ a && a < 0x9000000000000
/-- The device register aperture. -/
def inAperture (a : Nat) : Bool := 0xFF00000000000 ≤ a && a < 0x10000000000000

/-- The package's own identifier, FAB_CTL.PKGID (R121). -/
def State.pkgId (s : State) : Nat := s.fabCtl.toNat / 2 ^ 54

/-! ## Home slices (R84, R85, R87) -/

/-- The pseudo-channel of an HBM4 address. -/
def channelOf (pa : Nat) : Nat :=
  let g := bitsOf pa 9 30
  bitsOf g 0 9 ^^^ bitsOf g 9 9 ^^^ bitsOf g 18 9 ^^^ bitsOf g 27 3

/-- The byte offset in its pseudo-channel. -/
def channelOff (pa : Nat) : Nat := bitsOf pa 18 21 * 512 + pa % 512

/-- The home slice. -/
def homeSlice (pa : Nat) : Nat :=
  let q := channelOf pa
  16 * (bitsOf q 6 3 / 2) + 8 * (bitsOf q 6 3 % 2) + bitsOf (bitsOf q 1 5) 2 3

/-- The set of a line in its slice (R87). -/
def sliceSet (pa : Nat) : Nat :=
  let q := channelOf pa
  (bitsOf (channelOff pa) 7 10 ^^^ (8 * (4 * bitsOf (bitsOf q 1 5) 0 2 + 2 * (q % 2)))) % 1024

/-- The key of a line's set: slice × 1,024 + set. A remote line is placed by the low 39 bits of its address (R108). -/
def setKey (pa : Nat) : Nat := homeSlice (pa % 2 ^ 39) * 1024 + sliceSet (pa % 2 ^ 39)

/-- A slice. -/
def State.slice (s : State) (k : Nat) : Slice := s.slices.getD k Slice.reset

/-- The state with a slice changed. -/
def State.updSlice (s : State) (k : Nat) (f : Slice → Slice) : State :=
  { s with slices := s.slices.set k (f (s.slice k)) }

/-- The shared-cache line of an address, if present: `far` names the package of a read-only-remote copy. -/
def State.l2Find (s : State) (far : Option Nat) (pa : Nat) : Option L2Line :=
  (s.l2.getD (setKey pa) []).find? fun l => l.line == pa / 128 && l.far == far

/-- The lines of an address's set changed. -/
def State.updSet (s : State) (pa : Nat) (f : List L2Line → List L2Line) : State :=
  { s with l2 := s.l2.set (setKey pa) (f (s.l2.getD (setKey pa) [])) }

/-- The line of an address changed where it is present. -/
def State.updLine (s : State) (far : Option Nat) (pa : Nat) (f : L2Line → L2Line) : State :=
  s.updSet pa fun ls => ls.map fun l => if l.line == pa / 128 && l.far == far then f l else l

/-- The line of an address dropped from the shared cache. -/
def State.dropLine (s : State) (far : Option Nat) (pa : Nat) : State :=
  s.updSet pa fun ls => ls.filter fun l => !(l.line == pa / 128 && l.far == far)

/-- The ways a function may allocate in (R88, R89). -/
def State.waysOf (s : State) (fn : Nat) : Nat := (s.func fn).l2Ways.toNat

/-- A free permitted way of a set. -/
def freeWay (ways : Nat) (ls : List L2Line) : Option Nat :=
  (bitList 32 ways).find? fun w => ls.all fun l => l.way != w

/-- The filter has room for a line: 32 line addresses (R91). -/
def Slice.filterRoom (k : Slice) (line : Nat) : Bool := k.filter.contains line || decide (k.filter.eraseDups.length < 32)

/-- The filter is full (R91). -/
def Slice.full (k : Slice) : Bool := decide (32 ≤ k.filter.eraseDups.length)

/-- A line address enters the filter; the status tells when that fills it (R91, R94). -/
def Slice.enter (k : Slice) (line : Nat) : Slice :=
  let k := { k with filter := k.filter ++ [line] }
  { k with filterFull := k.filterFull || k.full }

/-- The line an allocation evicts: the first in a permitted way that has no last releaser (its promotion comes first,
R142) and, when dirty, finds room in the filter (R91). Replacement cannot be seen by software (R87). -/
def victim (ways : Nat) (k : Slice) (ls : List L2Line) : Option L2Line :=
  ls.find? fun l => bitOf ways l.way && l.rel.isNone && (!l.dirty || k.filterRoom l.line)

/-- An allocation of a line need not wait for the promotion of a releaser (R142) or for room in the filter (R91). -/
def State.allocRoom (s : State) (ways pa : Nat) : Bool :=
  let ls := s.l2.getD (setKey pa) []
  bitsOf ways 0 32 == 0 || (freeWay ways ls).isSome || (victim ways (s.slice (setKey pa / 1024)) ls).isSome

/-- Allocate a line in a permitted way, evicting where there is no free one; a dirty victim charges its two bursts to the
context whose allocation evicts it and enters the pending-write filter (R91, R92). With no way to take, nothing is
allocated. -/
def State.l2Alloc (s : State) (p x ways : Nat) (far : Option Nat) (pa : Nat) (dirty : Bool) (data : List Byte) : State :=
  let ls := s.l2.getD (setKey pa) []
  let k := setKey pa / 1024
  let new := fun w => ({ line := pa / 128, far, way := w, dirty, data, rel := none } : L2Line)
  match freeWay ways ls with
  | some w => s.updSet pa fun ls => ls ++ [new w]
  | none =>
    match victim ways (s.slice k) ls with
    | none => s
    | some v =>
      let s := s.updSet pa fun ls => ls.filter (· != v) ++ [new v.way]
      if v.dirty then (s.charge p x 12 2).updSlice k (·.enter v.line) else s

/-- What an access asks of a line: bytes `lo` to `lo + n − 1`. -/
structure Span where
  pa : Nat
  n : Nat
  deriving DecidableEq, Repr

/-- Halves of 64 bytes that a span touches within its line. -/
def Span.halves (a : Span) : Nat := if a.n = 0 then 0 else (a.pa % 128 + a.n - 1) / 64 - a.pa % 128 / 64 + 1

/-! ## Misses (R90, R91) -/

/-- A free miss register of a slice. -/
def Slice.freeReg (k : Slice) : Option Nat := (List.range 64).find? fun i => !k.mrs.has i

/-- A miss of a line at its slice: it joins the line's register, takes a free one, waits, or bypasses. A write of the whole line
takes none; while the filter is full a write waits outside the slice. `fn` is the function whose mask its allocation uses (R89). -/
def State.askFor (s : State) (p x fn line : Nat) (write whole : Bool) (who : LaneRef) : State :=
  let k := homeSlice (line * 128)
  let sl := s.slice k
  if (s.l2Find none (line * 128)).isSome ∨ (write && whole) = true ∨ sl.waits.any (·.who == who) ∨
      sl.mrs.any (·.2.joined.contains who) then s
  else
    let wait : SliceWait := { line, write, ctx := x, part := p, who, fn }
    if write && sl.full then s.updSlice k fun c => { c with waits := c.waits ++ [wait] }
    else
      match sl.mrs.search fun m => m.2.line == line with
      | some m =>
        if m.2.joined.length < 16 then
          s.updSlice k fun c => { c with mrs := c.mrs.adjust m.1 fun r => { r with joined := r.joined ++ [who], write := r.write && write } }
        else s.updSlice k fun c => { c with waits := c.waits ++ [wait] }
      | none =>
        match sl.freeReg with
        | some i =>
          let r : MissReg := { line, ctx := x, part := p, ways := s.waysOf fn, write, joined := [who] }
          s.updSlice k fun c => { c with mrs := c.mrs.set i r, missFull := c.missFull || decide (c.mrs.length = 63) }
        | none =>
          if write then s.updSlice k fun c => { c with waits := c.waits ++ [{ wait with filtered := true }] }.enter line
          else if sl.filter.contains line then
            s.updSlice k fun c => { c with waits := c.waits ++ [wait], fwaits := Nat.min 0xFFFF (c.fwaits + 1) }
          else s.updSlice k fun c => { c with bypassed := (c.bypassed + 1) % 2 ^ 32 }

/-- The same in the ways of the context's own function. -/
def State.ask (s : State) (p x line : Nat) (write whole : Bool) (who : LaneRef) : State := s.askFor p x (fnOf x) line write whole who

/-- The fill of a line that came back to a unit of a partition without an allocation (R89). -/
def Slice.backFor (k : Slice) (p line : Nat) : Option LaneRef := k.back.find? fun w => w.op == line && partOf w.cl == p

/-- An access at the home slice whose own fill is made within the step (R45, R89, R90, R92; log 126, DESIGN CHOICE): one hit toll
for the lookup. A miss joins the register that its line has, takes a free one for the step, with two bursts and an
allocation, or bypasses when all 64 are busy (R91). A write of the whole line allocates without a fetch; with no way
to allocate in, a write goes out masked, and a fill that came back to the unit is used (R89). A span of 128 bytes is a write of the
whole line; one of a masked write that covers both halves has 127. -/
def State.l2AccessFor (s : State) (p x ways : Nat) (a : Span) (write : Bool) : State :=
  let sl := s.slice (homeSlice a.pa)
  let s := s.charge p x 11 1
  let s := s.count p (fnOf x) (if (s.l2Find none a.pa).isSome then 0x012 else 0x013) 1
  match s.l2Find none a.pa with
  | some _ => if write then s.updLine none a.pa fun l => { l with dirty := true } else s
  | none =>
    if write && bitsOf ways 0 32 == 0 then
      (s.charge p x 12 a.halves).updSlice (homeSlice a.pa) fun c => { c with missFull := c.missFull || decide (a.n ≠ 128 ∧ c.mrs.length = 63) }
    else if write && a.n == 128 then s.l2Alloc p x ways none a.pa true []
    else if sl.mrs.any fun m => m.2.line == a.pa / 128 then s
    else if (sl.backFor p (a.pa / 128)).isSome then
      s.updSlice (homeSlice a.pa) fun c => { c with back := match c.backFor p (a.pa / 128) with | some w => c.back.erase w | none => c.back }
    else if !write && sl.freeReg.isNone && !sl.filter.contains (a.pa / 128) then
      (s.charge p x 12 a.halves).updSlice (homeSlice a.pa) fun c => { c with bypassed := (c.bypassed + 1) % 2 ^ 32 }
    else
      ((s.charge p x 12 2).l2Alloc p x ways none a.pa write []).updSlice (homeSlice a.pa) fun c =>
        { c with missFull := c.missFull || decide (c.mrs.length = 63) }

/-- The same in the ways of the context's own function (R89). -/
def State.l2Access (s : State) (p x : Nat) (a : Span) (write : Bool) : State := s.l2AccessFor p x (s.waysOf (fnOf x)) a write

/-- The reference under which a unit of a cluster (an engine, a walker, a write-back) waits at a slice: no gang has such a slot. -/
def unitRef (cl line : Nat) : LaneRef := ⟨cl, 2 ^ 20, line, 0⟩

/-- An access that waits for a line the fabric home owns makes the slice recall it (R109). -/
def State.recallLine (s : State) (line : Nat) : State :=
  if s.exportSt.getD line 0 = 2 ∧ s.recalls.has line = false then { s with recalls := s.recalls.set line false } else s

/-- Whether a unit's access to a line has to wait at the home slice: for the recall of an owned line (R109), for a write
while the filter is full, for the register of its line or a free one, for a filter match (R91), or for what its
allocation would evict (R142). The state is that with the unit's place in the slice's queues. -/
def State.unitWaitsFor (s : State) (cl x fn line : Nat) (write whole : Bool) : State × Bool :=
  let sl := s.slice (homeSlice (line * 128))
  if s.exportSt.getD line 0 = 2 then (s.recallLine line, true)
  else if (s.l2Find none (line * 128)).isSome then (s, write && sl.full)
  else
    let stuck := (write && sl.full) || (sl.mrs.any fun m => m.2.line == line) ||
      (sl.freeReg.isNone && (write || sl.filter.contains line))
    if (write && whole) = true then (s, sl.full || !s.allocRoom (s.waysOf fn) (line * 128))
    else if (sl.backFor (partOf cl) line).isSome then (s, false)
    else if stuck then (s.askFor (partOf cl) x fn line write whole (unitRef cl line), true)
    else (s, sl.freeReg.isSome && !s.allocRoom (s.waysOf fn) (line * 128))

/-- The same for a context's own function. -/
def State.unitWaits (s : State) (cl x line : Nat) (write whole : Bool) : State × Bool := s.unitWaitsFor cl x (fnOf x) line write whole

/-- Whether one of several lines that a step needs has to be waited for; each with whether it is written, and whole. -/
def State.linesWait (p x : Nat) : List (Nat × Bool × Bool) → State → State × Bool
  | [], s => (s, false)
  | q :: qs, s =>
    match s.unitWaits (4 * p) x q.1 q.2.1 q.2.2 with
    | (s, true) => (s, true)
    | (s, false) => State.linesWait p x qs s

/-- A line's releaser has to be promoted before an uncached access drops it (R30, R142), an owned line recalled (R109), and there has to be
room in the filter for its write-back and for a write (R91). -/
def State.dropWaits (s : State) (line : Nat) (write : Bool) : Bool :=
  let sl := s.slice (homeSlice (line * 128))
  s.exportSt.getD line 0 == 2 || (write && sl.full) || match s.l2Find none (line * 128) with
    | some l => l.rel.isSome || (l.dirty && !sl.filterRoom line)
    | none => false

/-- Whether an uncached access to a line has to wait, with the recall that it then makes. -/
def State.dropTurn (s : State) (line : Nat) (write : Bool) : State × Bool :=
  if s.dropWaits line write then (s.recallLine line, true) else (s, false)

/-- An uncached access (R30): a line present is written back and dropped first, then the bursts the bytes need. The write-back enters
the filter (R91). An access of type 3 does the same with a line that another page of type 0 or 1 brought in (log 164, DESIGN
CHOICE). -/
def State.uncached (s : State) (p x : Nat) (a : Span) : State :=
  let s := s.charge p x 11 1
  let s := match s.l2Find none a.pa with
    | some l =>
      (if l.dirty then (s.charge p x 12 2).updSlice (homeSlice a.pa) (·.enter (a.pa / 128)) else s).dropLine none a.pa
    | none => s
  s.charge p x 12 a.halves

/-! ## Poison (R93) -/

/-- Whether a byte of a span lies in a poisoned half. -/
def State.poisoned (s : State) (a : Span) : Bool :=
  (List.range a.halves).any fun i => s.poison.getD (a.pa / 64 + i) false

/-- A write of a whole half clears its mark; a partial write keeps it. -/
def State.cleanHalves (s : State) (a : Span) : State :=
  { s with poison := (List.range a.halves).foldl (fun m i =>
      let h := a.pa / 64 + i
      if a.pa ≤ h * 64 ∧ h * 64 + 64 ≤ a.pa + a.n then m.del h else m) s.poison }

/-- Mark a half poisoned; the slice's status shows it (R94). -/
def State.poisonHalf (s : State) (h : Nat) : State :=
  { s with poison := s.poison.set h true }.updSlice (homeSlice (h * 64)) fun c => { c with poison := true }

/-! ## Writes at the home -/

/-- The halves of a line that a byte mask covers whole lose their marks. -/
def State.cleanMasked (s : State) (line mask : Nat) : State :=
  let s := if bitsOf mask 0 64 = 2 ^ 64 - 1 then s.cleanHalves ⟨line * 128, 64⟩ else s
  if bitsOf mask 64 64 = 2 ^ 64 - 1 then s.cleanHalves ⟨line * 128 + 64, 64⟩ else s

/-- The poisoned halves of a line: bit 0 the lower one. -/
def State.badHalves (s : State) (line : Nat) : Nat := b2n (s.poison.getD (line * 2) false) + 2 * b2n (s.poison.getD (line * 2 + 1) false)

/-- The bytes of bad halves, bit i for byte i. -/
def halfMask (bad : Nat) : Nat := (if bitOf bad 0 then 2 ^ 64 - 1 else 0) + (if bitOf bad 1 then (2 ^ 64 - 1) * 2 ^ 64 else 0)

/-- A span of a line touches bytes of a mask. -/
def spanBad (bad lo n : Nat) : Bool := bitsOf bad lo n != 0

/-- A write of exported memory held shared elsewhere makes the slice send an invalidation (R109). -/
def State.exportWrite (s : State) (line : Nat) : State :=
  if s.exportSt.getD line 0 = 1 ∧ ¬ s.exportInv.contains line then { s with exportInv := s.exportInv ++ [line] } else s

/-- Bytes written at their home: memory, poison, export state. -/
def State.store (s : State) (pa : Nat) (bs : List Byte) : State :=
  let s := { s with mem := writeBytes s.mem pa bs }
  if inHbm pa then (s.cleanHalves ⟨pa, bs.length⟩).exportWrite (pa / 128) else s

/-- A unit's write at its home; one to a line that the fabric home owns waits for the recall (R109). -/
def State.homeStore (s : State) (pa : Nat) (bs : List Byte) : State :=
  if s.exportSt.getD (pa / 128) 0 = 2 then { s.recallLine (pa / 128) with heldWrites := s.heldWrites ++ [(pa, bs)] } else s.store pa bs

/-- A line written whole from another one, with its poison marks (R93). -/
def State.copyLine (s : State) (pa : Nat) (bs : List Byte) (bad : Nat) : State :=
  (bitList 2 bad).foldl (fun s h => s.poisonHalf (pa / 64 + h)) (s.store pa bs)

/-- A masked write of a line's bytes: byte i of the line when bit i of the mask is set. -/
def State.storeMasked (s : State) (line mask : Nat) (data : List Byte) : State :=
  let s := (bitList 128 mask).foldl (fun s i =>
    { s with mem := writeByte s.mem (line * 128 + i) (data.getD i 0) }) s
  (s.cleanMasked line mask).exportWrite line

/-! ## Messages to other packages -/

/-- The plane of a line (R101). -/
def planeOf (pkg pa : Nat) : Nat := bitsOf pa 7 2 ^^^ bitsOf pa 11 2 ^^^ pkg % 4

/-- The live port a line is sent through (R102); none when the plane has no live port. -/
def State.portOf (s : State) (pkg pa : Nat) : Option Nat :=
  let p := planeOf pkg pa
  let first := bitsOf pa 13 2 ^^^ bitsOf pa 15 2
  ((List.range 4).map fun i => 4 * p + (first + i) % 4).find? fun k => bitOf s.ports k

/-- The state with a fabric port changed. -/
def State.updPort (s : State) (k : Nat) (f : PortSt → PortSt) : State :=
  { s with portSt := s.portSt.set k (f (s.portSt.getD k PortSt.reset)) }

/-- A port of the line's plane retrains: its requests wait for it (R119). -/
def State.planeRetrains (s : State) (pkg pa : Nat) : Bool :=
  (List.range 4).any fun i => (s.portSt.getD (4 * planeOf pkg pa + i) PortSt.reset).retrain

/-- A message leaves through the live port of its line, and is kept when it will be answered; on a plane without a live port it waits for
one (R102; log 169, DESIGN CHOICE). -/
def State.emit (s : State) (q : SentMsg) : State :=
  match s.portOf q.m.dst q.pa with
  | some k =>
    { s with fabOut := s.fabOut ++ [q.m]
             sentMsgs := if q.m.kind.tracked then s.sentMsgs ++ [{ q with port := some k }] else s.sentMsgs }.updPort k fun p =>
      { p with queued := p.queued + q.quarters }
  | none => { s with sentMsgs := s.sentMsgs ++ [{ q with port := none }] }

/-- A message sent to another package, with a taken stamp (R155); it waits at the port of its line. -/
def State.reply (s : State) (kind : FabKind) (dst id pa quarters : Nat) (words : List Nat) (bytes : List Byte) : State :=
  let (st, s) := s.take
  s.emit ⟨{ kind, dst, id, words, bytes, stamp := st }, pa, quarters, none⟩

/-- A message of a kind to a package about a record or a line has been answered: it is not sent again. -/
def State.msgAnswered (s : State) (kind : FabKind) (dst id : Nat) : State :=
  match s.sentMsgs.find? fun q => q.m.kind == kind && q.m.dst == dst && q.m.id == id && q.port.isSome with
  | some q => { s with sentMsgs := s.sentMsgs.erase q }
  | none => s

/-- The messages that waited for a port are tried again. -/
def State.emitHeld (s : State) : State :=
  (s.sentMsgs.filter (·.port.isNone)).foldl State.emit { s with sentMsgs := s.sentMsgs.filter (·.port.isSome) }

end Sys2Proof.Machine
end

