-- ==== Sys2Proof/Machine/Tags.lean ====
section
/-! DEFINITION. The version store: line tags, prior records and consignment records in memory (07:R160-R164), the search
for a tag (07:R162), refresh, restore and the resolution of reads (07:R166-R170). -/

namespace Sys2Proof.Machine

/-! ## Geometry (R160, R161) -/

def Func.vOn (u : Func) : Bool := bitOf u.vstoreBase.toNat 0
def Func.vBase (u : Func) : Nat := bitsOf u.vstoreBase.toNat 18 34 * 2 ^ 18
def Func.tagPages (u : Func) : Nat := bitsOf u.vstoreGeom.toNat 48 16
def Func.recPages (u : Func) : Nat := bitsOf u.vstoreGeom.toNat 32 16
def Func.poolPages (u : Func) : Nat := bitsOf u.vstoreGeom.toNat 16 16

/-- The records of a store. -/
def Func.recCount (u : Func) : Nat := u.recPages * 32
/-- The prior records of a store: numbered from 1, at most 2^24 − 1. -/
def Func.poolCount (u : Func) : Nat := Nat.min (u.poolPages * 1024) (2 ^ 24 - 1)
/-- RECFREE (R160). -/
def Func.recFree (u : Func) : Nat := u.recCount - u.recUsed.length
/-- POOLFREE (R160). -/
def Func.poolFree (u : Func) : Nat := u.poolCount - u.poolUsed.length

/-- The address of record `n`. -/
def Func.recAt (u : Func) (n : Nat) : Nat := u.vBase + u.tagPages * 2 ^ 18 + n * 8192
/-- The address of prior record `k`. -/
def Func.poolAt (u : Func) (k : Nat) : Nat := u.vBase + (u.tagPages + u.recPages) * 2 ^ 18 + (k - 1) * 256

/-- The bucket of a line (R162). -/
def bucketOf (u : Func) (pa : Nat) : Nat :=
  (bitsOf pa 7 20 ^^^ bitsOf pa 27 20 ^^^ bitsOf pa 47 5) % (u.tagPages * 1024)

/-! ## Tags (R163) -/

/-- A line tag read from a store: the store's function, its address and its fields. -/
structure Tag where
  f : Nat
  addr : Nat
  line : Nat
  st : Nat
  csgid : Nat
  sealT : Nat
  mrec : Nat
  midx : Nat
  pv : Nat
  deriving DecidableEq, Repr

/-- The tag at an address; a malformed one reads as free, as STATE 3 does (R161, R163). -/
def State.tagAt (s : State) (f addr : Nat) : Tag :=
  let w := fun i => s.readNum (addr + 8 * i) 8
  let bad := bitsOf (w 0) 50 14 != 0 || bitsOf (w 2) 54 10 != 0 || bitsOf (w 3) 52 12 != 0 || bitsOf (w 3) 0 7 != 0 ||
    (bitsOf (w 0) 48 2 == 1 && w 1 != 0)
  let st := bitsOf (w 0) 48 2
  { f, addr, line := bitsOf (w 3) 7 45, st := if bad ∨ st = 3 then 0 else st, csgid := bitsOf (w 0) 0 48, sealT := w 1
    mrec := bitsOf (w 2) 33 21, midx := bitsOf (w 2) 24 9, pv := bitsOf (w 2) 0 24 }

/-- A tag's four words written at its address (R163). -/
def State.writeTag (s : State) (t : Tag) : State :=
  let s := s.writeNum t.addr 8 (t.st * 2 ^ 48 + t.csgid)
  let s := s.writeNum (t.addr + 8) 8 t.sealT
  let s := s.writeNum (t.addr + 16) 8 (t.mrec * 2 ^ 33 + t.midx * 2 ^ 24 + t.pv)
  (s.writeNum (t.addr + 24) 8 (t.line * 128)).exportWrite (t.addr / 128)

/-- Write a tag back, with one line-tag toll (R178). -/
def State.putTag (s : State) (p x : Nat) (t : Tag) : State := (s.charge p x 17 1).writeTag t

/-- The entries of a line's bucket in a store. -/
def State.bucket (s : State) (f pa : Nat) : List Tag :=
  let u := s.func f
  (List.range 8).map fun i => s.tagAt f (u.vBase + bucketOf u pa * 256 + 32 * i)

/-- The stores an access searches, in order (R162). -/
def searchOrder (fn : Nat) : List Nat := 128 :: fn :: (List.range 128).filter (· != fn)

/-- Search one store after another for a line's tag, charging each bucket read (R162). -/
def State.searchTag (p x pa : Nat) : List Nat → State → State × Option Tag
  | [], s => (s, none)
  | f :: fs, s =>
    if (s.func f).vOn ∧ 0 < (s.func f).tagPages then
      let s := s.charge p x 17 1
      match (s.bucket f pa).find? fun t => t.st != 0 && t.line == pa / 128 with
      | some t => (s, some t)
      | none => State.searchTag p x pa fs s
    else State.searchTag p x pa fs s

/-- find_tag (R162): a line whose tag-present bit is 0 has none and reads no table. -/
def State.findTag (s : State) (p x pa : Nat) : State × Option Tag :=
  if s.tagBit.getD (pa / 128) false then
    State.searchTag p x pa (if fnOf x = 128 then 128 :: List.range 128 else searchOrder (fnOf x)) s
  else (s, none)

/-! ## Prior and consignment records -/

/-- The stamp of a prior record (R163). -/
def State.pstamp (s : State) (t : Tag) : Nat := s.readNum ((s.func t.f).poolAt t.pv + 128) 8

/-- The bytes of a prior record. -/
def State.priorBytes (s : State) (t : Tag) : List Byte := readBytes s.mem ((s.func t.f).poolAt t.pv) 128

/-- A seal record (R164): state (3 and a malformed word read as aborted), identifier and stamp. -/
structure SealRec where
  st : Nat
  csgid : Nat
  sealT : Nat
  deriving DecidableEq, Repr

/-- The seal record of words 0 and 1: malformed with reserved bits set or a stamp while unsealed (R161, R164). -/
def sealOf (w0 w1 : Nat) : SealRec :=
  let st := bitsOf w0 48 2
  { st := if bitsOf w0 50 14 != 0 ∨ st = 3 ∨ (st ≠ 1 ∧ w1 ≠ 0) then 2 else st, csgid := bitsOf w0 0 48, sealT := w1 }

/-- Words 2, 5, 6 and 7 of a seal record are as R164 lays them down: reserved bits zero, LINES at most 512, NPKG at most 16. -/
def restOk (w2 w5 w6 w7 : Nat) : Bool :=
  bitsOf w2 21 43 == 0 && bitsOf w2 10 6 == 0 && decide (bitsOf w2 0 10 ≤ 512) && decide (bitsOf w2 16 5 ≤ 16) &&
    bitsOf w5 32 32 == 0 && w6 == 0 && w7 == 0

/-- The package of a consignment identifier (R156). -/
def csgPkg (id : Nat) : Nat := id / 2 ^ 38
/-- The function of a consignment identifier. -/
def csgVf (id : Nat) : Nat := bitsOf id 31 7

/-- The home's record of a tag. -/
def State.sealRec (s : State) (csgid mrec : Nat) : SealRec :=
  let w := fun i => s.readNum ((s.func (csgVf csgid)).recAt mrec + 8 * i) 8
  let r := sealOf (w 0) (w 1)
  if restOk (w 2) (w 5) (w 6) (w 7) then r else { r with st := 2 }

/-- Free a prior record. -/
def State.freePrior (s : State) (f k : Nat) : State :=
  if k = 0 then s else s.updFunc f fun u => { u with poolUsed := u.poolUsed.filter (· != k) }

/-- Free a tag: its entry, its prior record and the line's tag-present bit. -/
def State.freeTag (s : State) (p x : Nat) (t : Tag) : State :=
  let s := (s.putTag p x { t with st := 0, csgid := 0, sealT := 0, mrec := 0, midx := 0, pv := 0 }).freePrior t.f t.pv
  { s with tagBit := s.tagBit.del t.line }

/-- The lines that the restore of a tag reads and writes (R169), and its entry's line. -/
def State.restoreLines (s : State) (t : Tag) : List (Nat × Bool × Bool) :=
  [((s.func t.f).poolAt t.pv / 128, false, false), (t.line, true, true)]

/-- A tag's entry lies on a line that another package owns, and waits for its recall (R109). -/
def State.tagAway (s : State) (t : Tag) : Bool := s.exportSt.getD (t.addr / 128) 0 == 2

/-- The restore of a pending line (R169): one line read and one line written, with the bursts that occur (R178). The second
value is the tag left, if any. -/
def State.restore (s : State) (p x : Nat) (t : Tag) : State × Option Tag :=
  let ps := s.pstamp t
  let a := (s.func t.f).poolAt t.pv
  let s := (s.l2Access p x ⟨a, 128⟩ false).l2Access p x ⟨t.line * 128, 128⟩ true
  let s := s.copyLine (t.line * 128) (s.priorBytes t) (s.badHalves (a / 128))
  if ps = 0 then (s.freeTag p x t, none)
  else
    let t' := { t with st := 2, sealT := ps, pv := 0 }
    ((s.putTag p x t').freePrior t.f t.pv, some t')

/-- What a refresh needs or gives: the tag after it, an answer from the record's home on another package, a line or a port that has to be
waited for (R91, R109, R119), or no way to that package any more (R102). -/
inductive Refreshed where
  | tag (t : Option Tag)
  | ask (t : Tag)
  | busy
  | lost
  deriving DecidableEq, Repr

/-- A refresh by the record read (R170): sealed, restored, or still pending. A record of another consignment reads as
aborted. -/
def State.applyRec (s : State) (p x : Nat) (t : Tag) (r : SealRec) : State × Option Tag :=
  if r.csgid ≠ t.csgid ∨ r.st = 2 then s.restore p x t
  else if r.st = 1 then
    let t' := { t with st := 2, sealT := r.sealT }
    (s.putTag p x t', some t')
  else (s, some t)

/-- The lines that a refresh by a record needs. -/
def State.recLines (s : State) (t : Tag) (r : SealRec) : List (Nat × Bool × Bool) :=
  if r.csgid ≠ t.csgid ∨ r.st = 2 then s.restoreLines t else []

/-- The number that stands for the reads that carry no view's stamp. -/
def noView : Nat := 2 ^ 64 - 1

/-- A seal-record read sent to its home on another package (R170), with a view's stamp or 2^64 − 1: charged as a read request and its
answer, one quarter each (R103; log 165, DESIGN CHOICE). One is out for a line, consignment and stamp at a time. On a plane that is down it
is a lost request (R102). -/
def State.askRecord (s : State) (p x : Nat) (t : Tag) (snap : Option Nat) : State × Refreshed :=
  let q := (t.line, t.csgid, snap.getD noView)
  if s.asks.contains q then (s, .ask t)
  else if (s.portOf (csgPkg t.csgid) (t.line * 128)).isNone then (s, if s.planeRetrains (csgPkg t.csgid) (t.line * 128) then .busy else .lost)
  else
    (({ s with asks := s.asks ++ [q] }.chargeQ p x 13 2).reply .recordRead (csgPkg t.csgid) t.mrec (t.line * 128) 1 [t.csgid, q.2.2, t.line] [],
      .ask t)

/-- A kept answer serves a refresh: any one without a view, one whose read merged the view's stamp with it (R170). -/
def RecAnswer.serves (a : RecAnswer) (t : Tag) (snap : Option Nat) : Bool :=
  a.line == t.line && a.csgid == t.csgid && match snap with
    | some m => a.snap != noView && decide (m ≤ a.snap)
    | none => true

/-- refresh (R170). A view's stamp is merged at the record's home. -/
def State.refresh (s : State) (p x : Nat) (t : Tag) (snap : Option Nat) : State × Refreshed :=
  if t.st ≠ 1 then (s, .tag (some t))
  else if s.tagAway t then (s, .busy)
  else if csgPkg t.csgid ≠ s.pkgId then
    match s.answers.find? (·.serves t snap) with
    | some a =>
      match State.linesWait p x (s.recLines t (sealOf a.word0 a.sealT)) s with
      | (s, true) => (s, .busy)
      | (s, false) =>
        let (s, t') := { s with answers := s.answers.erase a }.applyRec p x t (sealOf a.word0 a.sealT)
        (s, .tag t')
    | none => s.askRecord p x t snap
  else
    let at' := (s.func (csgVf t.csgid)).recAt t.mrec
    match State.linesWait p x ((at' / 128, false, false) :: s.recLines t (s.sealRec t.csgid t.mrec)) s with
    | (s, true) => (s, .busy)
    | (s, false) =>
      let s := match snap with | some m => s.merge (BitVec.ofNat 64 m) | none => s
      let s := s.l2Access p x ⟨at', 64⟩ false
      let (s, t') := s.applyRec p x t (s.sealRec t.csgid t.mrec)
      (s, .tag t')

/-- What a read of a line resolves to (R170): its bytes in place, a prior record's bytes with its bad halves (R93), nothing, an answer it
needs, a line it has to wait for, or no way to the record (R102). -/
inductive Resolved where
  | inPlace
  | prior (bytes : List Byte) (bad : Nat)
  | expired
  | ask (t : Tag)
  | busy
  | lost
  deriving DecidableEq, Repr

/-- resolve (R170): `own` are the identifiers open in the reading gang's slots, `snap` the view's stamp of an `ldview`. The
Bool says whether the line has a tag, and so allocates nothing (R171). A prior record's line is looked up too (R92). -/
def State.resolve (s : State) (p x pa : Nat) (own : List Nat) (snap : Option Nat) : State × Resolved × Bool :=
  let s0 := s
  let (s, t) := s.findTag p x pa
  match t with
  | none => (s, .inPlace, false)
  | some t =>
    if t.st = 1 ∧ own.contains t.csgid ∧ snap = none then (s, .inPlace, true)
    else
      let (s, r) := s.refresh p x t snap
      match r with
      | .ask t => (s, .ask t, true)
      | .busy => ((s0.refresh p x t snap).1, .busy, true)
      | .lost => (s, .lost, true)
      | .tag none => (s, .inPlace, false)
      | .tag (some t) =>
        let lim := snap.getD noView
        if t.st = 2 ∧ t.sealT ≤ lim then (s, .inPlace, true)
        else if t.pv ≠ 0 ∧ s.pstamp t ≤ lim then
          let a := (s.func t.f).poolAt t.pv
          match s.unitWaits (4 * p) x (a / 128) false false with
          | (s, true) => (s, .busy, true)
          | (s, false) => (s.l2Access p x ⟨a, 128⟩ false, .prior (s.priorBytes t) (s.badHalves (a / 128)), true)
        else (s, .expired, true)

/-- Whether a plain write of a line may be performed (R167). -/
inductive Gate where
  | go
  | pending
  | ask (t : Tag)
  | busy
  | lost
  deriving DecidableEq, Repr

/-- The judgement of a plain write (R167): a pending tag is refreshed first; a write that finds no tag clears the bit
(R162). -/
def State.writeGate (s : State) (p x pa : Nat) : State × Gate :=
  if !s.tagBit.getD (pa / 128) false then (s, .go)
  else
    let s0 := s
    let (s, t) := s.findTag p x pa
    match t with
    | none => ({ s with tagBit := s.tagBit.del (pa / 128) }, .go)
    | some t =>
      let (s, r) := s.refresh p x t none
      match r with
      | .ask t => (s, .ask t)
      | .busy => ((s0.refresh p x t none).1, .busy)
      | .lost => (s, .lost)
      | .tag (some t) => (s, if t.st = 1 then .pending else .go)
      | .tag none => (s, .go)

/-- The lowest free number of a range that a list does not hold. -/
def lowestFree (lo n : Nat) (used : List Nat) : Option Nat :=
  ((List.range n).map (· + lo)).find? fun k => !used.contains k

/-- The outcome of a consignment-store lane at its line home. -/
inductive CsgHome where
  | done
  | conflict
  | full
  | ask (t : Tag)
  | busy
  | lost
  deriving DecidableEq, Repr

/-- The prior record of a store that a claim takes. -/
def State.nextPrior (s : State) (f : Nat) : Option Nat :=
  lowestFree 1 (Nat.min (s.func f).poolCount ((s.func f).poolUsed.length + 1)) (s.func f).poolUsed

/-- Claim a prior record of a store. -/
def State.claimPrior (s : State) (f : Nat) : State × Option Nat :=
  match s.nextPrior f with
  | some k => (s.updFunc f fun u => { u with poolUsed := u.poolUsed ++ [k] }, some k)
  | none => (s.updFunc f fun u => { u with poolFull := true }, none)

/-- Keep the in-place line as prior record `k` with its poison marks, its bytes from 136 on zero (R163, R178). -/
def State.keepPrior (s : State) (p x f k line pstamp : Nat) : State :=
  let a := (s.func f).poolAt k
  let bs := readBytes s.mem (line * 128) 128
  let bad := s.badHalves line
  let s := (s.l2Access p x ⟨line * 128, 128⟩ false).l2Access p x ⟨a, 128⟩ true
  (((s.copyLine a bs bad).writeNum (a + 128) 8 pstamp).writeNum (a + 136) 120 0).exportWrite (a / 128 + 1)

/-- The lines that keeping a prior record reads and writes; both of the record must be the package's own (R109). -/
def State.keepLines (s : State) (f k line : Nat) : List (Nat × Bool × Bool) :=
  [(line, false, false), ((s.func f).poolAt k / 128, true, true)]

/-- The end of R166: the tag pending on the consignment, the bytes in place, the bit set. -/
def State.tagWrite (s : State) (p x : Nat) (t : Tag) (csgid mrec midx pa : Nat) (bs : List Byte) : State :=
  let s := s.putTag p x { t with st := 1, sealT := 0, csgid, mrec, midx, line := pa / 128 }
  let s := s.store pa bs
  { s with tagBit := s.tagBit.set (pa / 128) true }

/-- A lane tags its line (R166): with the prior record that `k` names, a claimed one, or none. -/
def State.tagLine (s0 s : State) (p x : Nat) (t : Tag) (keep : Option Nat) (pstamp csgid mrec midx pa : Nat) (bs : List Byte) :
    State × CsgHome :=
  match match keep with | some k => some k | none => s.nextPrior t.f with
  | none => ((s.claimPrior t.f).1, .full)
  | some k =>
    if s.tagAway t || s.exportSt.getD ((s.func t.f).poolAt k / 128 + 1) 0 == 2 then (s0, .busy)
    else
      match State.linesWait p x (s.keepLines t.f k (pa / 128)) s with
      | (_, true) => ((State.linesWait p x (s.keepLines t.f k (pa / 128)) s0).1, .busy)
      | (s, false) =>
        let s := if keep.isSome then s else (s.claimPrior t.f).1
        ((s.keepPrior p x t.f k (pa / 128) pstamp).tagWrite p x { t with pv := k } csgid mrec midx pa bs, .done)

/-- A consignment-store lane performed at its line's home (R166), its tag created in store `f` (R162). -/
def State.csgStore (s : State) (p x f csgid mrec midx pa : Nat) (bs : List Byte) : State × CsgHome :=
  let s0 := s
  let (s, t) := s.findTag p x pa
  let (s, r) := match t with
    | some t => if t.st = 1 ∧ t.csgid ≠ csgid then s.refresh p x t none else (s, .tag (some t))
    | none => (s, .tag none)
  match r with
  | .ask t => (s, .ask t)
  | .busy => ((match t with | some t => (s0.refresh p x t none).1 | none => s0), .busy)
  | .lost => (s, .lost)
  | .tag (some t) =>
    if t.st = 1 ∧ t.csgid ≠ csgid then (s, .conflict)
    else if t.st = 1 then (if s.tagAway t then (s0, .busy) else (s.tagWrite p x t csgid mrec midx pa bs, .done))
    else s0.tagLine s p x t (if t.pv ≠ 0 then some t.pv else none) t.sealT csgid mrec midx pa bs
  | .tag none =>
    if !(s.func f).vOn ∨ (s.func f).tagPages = 0 then (s, .full)
    else
      match (s.bucket f pa).find? fun t => t.st == 0 with
      | none => (s.updFunc f fun u => { u with tagFull := true }, .full)
      | some t => s0.tagLine s p x { t with f } none 0 csgid mrec midx pa bs

end Sys2Proof.Machine
end

