-- ==== Sys2Proof/Machine/Torus.lean ====
section
/-! DEFINITION. The tori of the C-dies and the bridges between them (04:R95-R100): stops, routes, channels and their buffers, one
network cycle, and the move to the escape channel. -/

namespace Sys2Proof.Machine

/-! ## Stops (R95, R96) -/

/-- A stop of a C-die's torus. -/
structure Stop where
  die : Nat
  x : Nat
  y : Nat
  deriving DecidableEq, Repr

/-- The stop of a cluster (R95). -/
def clusterStop (c : Nat) : Stop := ⟨c / 40, [0, 1, 3, 4, 6].getD (c % 5) 0, c % 40 / 5⟩

/-- The stop of an L2 slice (R95). -/
def sliceStop (k : Nat) : Stop := ⟨k / 16, if k % 2 = 0 then 2 else 5, k % 16 / 2⟩

/-- The stop of a die bridge (R95). -/
def bridgeStop (d j : Nat) : Stop := ⟨d, 7, 2 * j⟩

/-- A service stop (R95): 0 the register-aperture gateway, 1 the trace and capture collector, 2 the power and sensor interface, 3 the
ECC scrubber. -/
def serviceStop (d i : Nat) : Stop := ⟨d, 7, 2 * i + 1⟩

/-- Die 4 stands for the H-die. -/
def hDie : Nat := 4

/-- The bridge by which die `d` reaches die `e` (R96), and by which what comes from `e` enters `d`. -/
def bridgeTo (d e : Nat) : Nat := if e = hDie then 0 else (e + 4 - d) % 4

/-- The stop of the H-die's traffic: bridge 0 leads there (R96). -/
def hostStop : Stop := ⟨hDie, 7, 0⟩

/-- The H-die's side of bridge 0 of a C-die. -/
def hEntry (d : Nat) : Stop := ⟨hDie, d, 0⟩

/-- Where a packet that crosses a bridge comes in: of a C-die the stop of the bridge from the die it comes from, of the H-die the bridge's other
side. -/
def bridgeEntry (frm dst : Nat) : Stop := if dst = hDie then hEntry frm else bridgeStop dst (bridgeTo dst frm)

/-! ## Routes (R97) -/

/-- The distance between two coordinates. -/
def ringDist (a b : Nat) : Nat := min ((b + 8 - a) % 8) (8 - (b + 8 - a) % 8)

/-- The outputs that reduce a packet's distance: +x, −x, +y, −y as 0 to 3. At distance 4 both directions of a dimension do. -/
def minimalDirs (x y tx ty : Nat) : List Nat :=
  let along := fun (d k : Nat) => (if 1 ≤ d ∧ d ≤ 4 then [k] else []) ++ (if 4 ≤ d then [k + 1] else [])
  along ((tx + 8 - x) % 8) 0 ++ along ((ty + 8 - y) % 8) 2

/-- The escape channel's output: x first, then y, the positive direction at distance 4. -/
def escapeDir (x y tx ty : Nat) : Option Nat := (minimalDirs x y tx ty).head?

/-- The stop that an output leads to, with the wrap-around links (R95). -/
def Stop.next (p : Stop) (dir : Nat) : Stop :=
  match dir with
  | 0 => { p with x := (p.x + 1) % 8 }
  | 1 => { p with x := (p.x + 7) % 8 }
  | 2 => { p with y := (p.y + 1) % 8 }
  | _ => { p with y := (p.y + 7) % 8 }

/-- Where a packet is. -/
def Packet.here (p : Packet) : Stop := ⟨p.die, p.x, p.y⟩

/-- Where a packet ends. -/
def Packet.final (p : Packet) : Stop := ⟨p.toDie, p.toX, p.toY⟩

/-- Where a packet heads on its present die: its end, or the bridge towards it (R96). The H-die has no torus: what is there stands at its
bridge. -/
def Packet.target (p : Packet) : Stop :=
  if p.die = hDie then p.here else if p.toDie = p.die then p.final else bridgeStop p.die (bridgeTo p.die p.toDie)

/-- The outputs that reduce the packet's distance. -/
def Packet.dirs (p : Packet) : List Nat := minimalDirs p.x p.y p.target.x p.target.y

/-! ## Buffers and links (R95, R97, R99) -/

/-- The packets in one channel's buffer at a stop's input. -/
def State.inBuf (s : State) (at_ : Stop) (inp cls chan : Nat) : Nat :=
  (s.net.filter fun k => k.2.here == at_ && k.2.inp == inp && k.2.cls == cls && k.2.chan == chan).length

/-- A buffer holds two packets; this much of it is free. -/
def State.bufRoom (s : State) (at_ : Stop) (inp cls chan : Nat) : Nat := 2 - s.inBuf at_ inp cls chan

/-- The link into a stop's input carries a packet's flits, one a cycle. -/
def State.linkBusy (s : State) (at_ : Stop) (dir : Nat) : Bool :=
  s.net.any fun k => k.2.here == at_ && k.2.inp == dir && decide (0 < k.2.busy)

/-- The packet is at the head of its channel's buffer. -/
def State.pktHead (s : State) (p : Packet) : Bool :=
  s.net.all fun k => !(k.2.here == p.here && k.2.inp == p.inp && k.2.cls == p.cls && k.2.chan == p.chan) ||
    decide (p.order ≤ k.2.order)

/-- The escape channel takes the packet over an output (R99): along its ring it needs room for one packet, to enter a ring room
for two. -/
def State.ringRoom (s : State) (p : Packet) (dir : Nat) : Bool :=
  decide ((if p.chan = 2 ∧ p.inp = dir then 1 else 2) ≤ s.bufRoom (p.here.next dir) dir p.cls 2)

/-- The bridge's far side takes the packet (R96): it has a credit of the class and channel, a free buffer at its entry, and no more
than 256 bytes cross in a cycle. How many credits a class has the spec leaves open (log 140, DESIGN CHOICE). -/
def State.bridgeRoom (s : State) (p : Packet) (entry : Stop) (chan : Nat) : Bool :=
  decide (1 ≤ s.bufRoom entry 4 p.cls chan) &&
    decide (((s.net.filter fun k => k.2.here == entry && k.2.inp == 4 && decide (0 < k.2.busy)).map (·.2.flits)).sum + p.flits ≤ 4)

/-! ## Movement -/

/-- A packet enters the network at its stop. A packet of the device type travels in the escape channel (R100). -/
def State.inject (s : State) (cls flits : Nat) (src dst : Stop) (dev : Bool) (answer : Option (Nat × Nat)) (who : LaneRef) : State :=
  { s with
    net := s.net.set s.nextPkt
      { cls, flits, die := src.die, x := src.x, y := src.y, toDie := dst.die, toX := dst.x, toY := dst.y
        chan := if dev then 2 else 0, inp := 4, dev, blocked := 0, busy := 0, order := s.nextPkt, answer, who }
    nextPkt := s.nextPkt + 1 }

/-- An access of a unit of a cluster to a line of HBM4 travels to the line's home slice and back (R95-R97). -/
def State.unitTrip (s : State) (cl pa : Nat) (write : Bool) : State :=
  s.inject 0 (if write then 3 else 1) (clusterStop cl) (sliceStop (homeSlice pa)) false (some (if write then (2, 1) else (1, 3)))
    (unitRef cl (pa / 128))

/-- A packet entered an escape channel of a die (R98). -/
def State.countEscape (s : State) (die : Nat) : State :=
  let t := s.torus.getD die (0x20, 0)
  { s with torus := s.torus.set die (t.1, (t.2 + 1) % 2 ^ 32) }

/-- The packet crosses a link into a channel of the next stop. -/
def State.pktHop (s : State) (n : Nat) (p : Packet) (dir chan : Nat) : State :=
  let q := p.here.next dir
  let s := if chan = 2 ∧ (p.chan ≠ 2 ∨ p.inp = 4) then s.countEscape p.die else s
  { s with
    net := s.net.set n { p with x := q.x, y := q.y, inp := dir, chan, busy := p.flits, blocked := 0, order := s.nextPkt }
    nextPkt := s.nextPkt + 1 }

/-- The packet crosses a bridge to the entry of another die, where it goes on as if injected there (R96). -/
def State.pktCross (s : State) (n : Nat) (p : Packet) (chan : Nat) : Option State :=
  let e := bridgeEntry p.die p.toDie
  if s.bridgeRoom p e chan then
    some { s with
      net := s.net.set n
        { p with die := e.die, x := e.x, y := e.y, inp := 4, chan, busy := 1, blocked := 0, order := s.nextPkt }
      nextPkt := s.nextPkt + 1 }
  else none

/-- A packet at its end is sunk (R97). A request's answer leaves from there for the request's cluster, in the escape channel for the
device type (R100). -/
def State.pktSink (s : State) (n : Nat) (p : Packet) : State :=
  let s := { s with net := s.net.del n }
  match p.answer with
  | some (cls, flits) => s.inject cls flits p.here (clusterStop p.who.cl) p.dev none p.who
  | none => s

/-- The adaptive output and channel that take the packet: a free link and a buffer with room. -/
def State.adaptiveWay (s : State) (p : Packet) : Option (Nat × Nat) :=
  p.dirs.findSome? fun d =>
    if s.linkBusy (p.here.next d) d then none
    else ([0, 1].find? fun c => decide (1 ≤ s.bufRoom (p.here.next d) d p.cls c)).map fun c => (d, c)

/-- The escape channel takes the packet, over its one output or its bridge. -/
def State.escapeWay (s : State) (n : Nat) (p : Packet) : Option State :=
  if p.here = p.target then s.pktCross n p 2
  else match escapeDir p.x p.y p.target.x p.target.y with
    | some d => if !s.linkBusy (p.here.next d) d && s.ringRoom p d then some (s.pktHop n p d 2) else none
    | none => none

/-- A packet's network cycle. Only the head of a channel moves; a head of an adaptive channel that every output refuses counts the
cycle (R98). -/
def State.pktMove (s : State) (n : Nat) (p : Packet) : State :=
  if !s.pktHead p then s
  else if p.here = p.final ∨ (p.die = hDie ∧ p.toDie = hDie) then s.pktSink n p
  else if p.chan = 2 then (s.escapeWay n p).getD s
  else
    let refused := { s with net := s.net.set n { p with blocked := p.blocked + 1 } }
    if p.here = p.target then (s.pktCross n p p.chan).getD refused
    else match s.adaptiveWay p with
      | some (d, c) => s.pktHop n p d c
      | none => refused

/-- One network cycle: the links carry a flit each, then the packets move, the lowest number first (log 140, DESIGN CHOICE). -/
def State.netStep (s : State) : State :=
  (s.net.map (·.1)).foldl (fun s n => match s.net.find? n with
    | some p => if p.busy = 0 then s.pktMove n p else s
    | none => s) { s with net := s.net.map fun k => (k.1, { k.2 with busy := k.2.busy - 1 }) }

/-- An answer of the H-die to a cluster comes over bridge 0 of its C-die (R96). -/
def State.hostAnswer (s : State) (cl flits cls : Nat) (dev : Bool) (who : LaneRef) : State :=
  s.inject cls flits (hEntry (cl / 40)) (clusterStop cl) dev none who

/-- The packets of an operation leave the tori: its accesses' answers have come. -/
def State.netDone (s : State) (cl slot op : Nat) : State :=
  { s with net := s.net.filter fun k => !(k.2.who.cl == cl && k.2.who.slot == slot && k.2.who.op == op) }

/-- A packet of an access is under way. -/
def State.onNet (s : State) (who : LaneRef) : Bool := s.net.any fun k => k.2.who == who

/-- ESCAPE_MOVE (R98): a packet at the head of an adaptive channel, refused for ESC_WAIT consecutive cycles (one with ESC_WAIT 0),
moves to the escape channel of its class, whose next buffer must have the room that entering a ring takes (R99; log 140, DEDUCED:
the channel's buffer is the one at the next stop). -/
def execEscapeMove (die pkt : Nat) (s : State) : Out :=
  match s.net.find? pkt with
  | some p =>
    if p.die = die ∧ die ≠ hDie ∧ p.chan < 2 ∧ p.busy = 0 ∧ s.pktHead p ∧ max 1 (s.torus.getD die (0x20, 0)).1 ≤ p.blocked then
      .next ((s.escapeWay pkt p).getD s)
    else .next s
  | none => .next s

end Sys2Proof.Machine
end

