-- ==== Sys2Proof/Machine/Translate.lean ====
section
/-! DEFINITION. Translation: table entries and their judging (01:R25-R37), the walk one read at a time (02:R44), the
translation caches (02:R39-R42), and the translation of one access in full. -/

namespace Sys2Proof.Machine

/-- What an access made within a step gives: its value, a fault, or that it has to wait and is to be made again. -/
inductive Got (α : Type) where
  | val (a : α)
  | fault
  | waits
  deriving DecidableEq, Repr

/-! ## Access types (R47) -/

def atRead : Nat := 0
def atWrite : Nat := 1
def atAtomic : Nat := 2
def atCsg : Nat := 3
def atFetch : Nat := 4
def atTable : Nat := 5

/-- Access types that write: write, atomic, consignment store. -/
def atWrites (a : Nat) : Bool := a == 1 || a == 2 || a == 3

/-! ## Table entries (R27) -/

def eV (e : Nat) : Bool := bitOf e 0
def eT (e : Nat) : Bool := bitOf e 1
def eW (e : Nat) : Bool := bitOf e 2
def eX (e : Nat) : Bool := bitOf e 3
def eG (e : Nat) : Bool := bitOf e 4
def eRM (e : Nat) : Bool := bitOf e 5
def eCG (e : Nat) : Bool := bitOf e 6
def eA (e : Nat) : Bool := bitOf e 7
def eD (e : Nat) : Bool := bitOf e 8
def eMT (e : Nat) : Nat := bitsOf e 9 3
def ePKG (e : Nat) : Nat := bitsOf e 52 10

/-- The node a pointer names. -/
def eNode (e : Nat) : Nat := bitsOf e 16 36 * 2 ^ 16

/-- The offset width of a leaf: 31 bits at level 2, 18 at level 3 (R25). -/
def leafBits (level : Nat) : Nat := if level = 2 then 31 else 18

/-- The output address of a leaf for an input. -/
def leafOut (level e input : Nat) : Nat :=
  bitsOf e (leafBits level) (52 - leafBits level) * 2 ^ leafBits level + input % 2 ^ leafBits level

/-- The index of an input at a level (R25). -/
def tblIndex (level input : Nat) : Nat := bitsOf input (57 - 13 * level) 13

/-- A valid entry is malformed (R29). -/
def malformed (stage level : Nat) (s2en : Bool) (e : Nat) : Bool :=
  bitsOf e 62 2 != 0 || bitsOf e 12 4 != 0 ||
  (level == 1 && !eT e) || (level == 3 && eT e) ||
  (if eT e then bitsOf e 2 10 != 0 || bitsOf e 52 10 != 0
   else
    (level == 3 && bitsOf e 16 2 != 0) || (level == 2 && bitsOf e 16 15 != 0) || 4 ≤ eMT e ||
    (stage == 2 && eG e) || (eCG e && 2 ≤ eMT e) || (eRM e && eMT e == 3) || (!eRM e && ePKG e != 0) ||
    (stage == 1 && s2en && (eRM e || ePKG e != 0)))

/-- The permissions of an access type (R33). -/
def permits (a : Nat) (w x cg : Bool) (mt : Nat) : Bool :=
  if a = atFetch then x && mt ≤ 1
  else if a = atWrite then w
  else if a = atAtomic then w && mt != 3
  else if a = atCsg then w && cg && mt != 3
  else true

/-- A leaf alone permits an access. -/
def leafPermits (a e : Nat) : Bool := permits a (eW e) (eX e) (eCG e) (eMT e)

/-! ## The contexts' roots (R22, R23) -/

/-- Stage 2 is on for a context; never for the physical function's (R13). -/
def State.s2On (s : State) (x : Nat) : Bool := fnOf x != 128 && bitOf (s.ctx x).s2ctl.toNat 0

/-- The address-space identifier of a context's entries (R22). -/
def State.asid (s : State) (x : Nat) : Nat := (s.ctx x).sroot.toNat / 2 ^ 52

/-! ## The walk -/

/-- The next stage-2 translation of a walk, of the guest-physical address `gpa`: off, served by the cached translations of
table reads, or begun at the lowest level the walk cache leaves to read (R44). -/
def Walk.aim (s : State) (p : Nat) (w : Walk) (gpa : Nat) : Walk :=
  let w := { w with gpa, tables := if w.s1 = 4 then w.tables else gpa / 2 ^ 18 :: w.tables }
  if !s.s2On w.ctx then { w with pa := gpa, s2 := 0 }
  else
    let pt := s.part p
    match if w.s1 = 4 then none else pt.s2tlb.find? fun e => e.fn == fnOf w.ctx && e.page == gpa / 2 ^ 18 with
    | some e => { w with pa := e.pa * 2 ^ 18 + gpa % 2 ^ 18, s2 := 0, leafT := some e.leaf }
    | none =>
      let cached := fun l => pt.nodes2.find? fun n => n.level == l && n.fn == fnOf w.ctx && n.key == gpa / 2 ^ (57 - 13 * l)
      match cached 2, cached 1 with
      | some n, _ => { w with s2 := 3, node := n.node }
      | none, some n => { w with s2 := 2, node := n.node }
      | none, none => { w with s2 := 1, node := bitsOf (s.ctx w.ctx).s2ctl.toNat 16 36 * 2 ^ 16 }

/-- The stage-1 leaf that refuses an atomic or a consignment store while its walk goes on to learn whether the final address lies in the
host window (R33). -/
def Walk.refused (w : Walk) : Option Leaf := w.leaf1.filter fun l => !leafPermits w.at' l.val

/-- End a walk with a fault. Updates not yet made are given up. A leaf that refused the access before comes first (R35). -/
def Walk.fail (w : Walk) (kind stage level : Nat) : Walk :=
  match w.refused with
  | some l =>
    { w with upd := [], result := some (.inr { kind := 1, stage := 1, level := l.level, gpa := 0, tbl := false, atype := w.at', trap := none }) }
  | none =>
    { w with upd := [], result := some (.inr
        { kind, stage, level, gpa := if stage = 2 then w.gpa else 0, tbl := stage == 2 && w.s1 != 4, atype := w.at', trap := none }) }

/-- Want the stage-1 entry of a level in a node. -/
def Walk.want (s : State) (p : Nat) (w : Walk) (level node : Nat) : Walk :=
  { w with s1 := level }.aim s p (node + 8 * tblIndex level w.va)

/-- A walk from its root (R22, R44), helped by the stage-1 walk cache. -/
def Walk.begin (s : State) (p cl x va a : Nat) : Walk :=
  let w : Walk := { cl, ctx := x, va, at' := a, s1 := 1, gpa := 0, s2 := 0, node := 0, pa := 0, leaf1 := none
                    leafT := none, leaf2 := none, tables := [], upd := [], found := [], nodes := [], result := none }
  let root := (s.ctx x).sroot.toNat
  if !bitOf root 0 then { w.fail 0 1 1 with result := some (.inr ⟨0, 1, 1, 0, false, a, none⟩) }
  else
    let cached := fun l => (s.part p).nodes1.find? fun n =>
      n.level == l && n.fn == fnOf x && n.ctxid == s.asid x && n.key == va % 2 ^ 57 / 2 ^ (57 - 13 * l)
    match cached 2, cached 1 with
    | some n, _ => w.want s p 3 n.node
    | none, some n => w.want s p 2 n.node
    | none, none => w.want s p 1 (bitsOf root 16 36 * 2 ^ 16)

/-- The table entry a walk reads next: stage, level, physical address. -/
def Walk.next (w : Walk) : Option (Nat × Nat × Nat) :=
  if w.result.isSome then none
  else if w.s2 ≠ 0 then some (2, w.s2, w.node + 8 * tblIndex w.s2 w.gpa)
  else if w.s1 ≤ 3 then some (1, w.s1, w.pa)
  else none

/-- Add a compare-and-swap; two on one entry are one. -/
def addUpd (us : List AdUpdate) (addr old new : Nat) : List AdUpdate :=
  if us.any (·.addr == addr) then us.map fun u => if u.addr == addr then { u with new := u.new ||| new } else u
  else if old = new then us
  else us ++ [AdUpdate.mk addr old new]

/-- A leaf's value with A, and with D for a write (R37). -/
def marked (write : Bool) (e : Nat) : Nat := e ||| 0x80 ||| (if write then 0x100 else 0)

/-- The judgement at the final physical address (R14, R33): `none` when the access may proceed. -/
def finalFault (own : Nat) (far : Option Nat) (en : Bool) (pa mt a : Nat) : Option WalkFault :=
  let flt := fun h => some { kind := 1, stage := if en then 2 else 1, level := 0, gpa := 0, tbl := false, atype := a, trap := h }
  if far.isSome ∧ far ≠ some own then none
  else if inHbm pa then none
  else if inHost pa then (if a = atAtomic ∨ a = atCsg then flt (some 0) else none)
  else if inAperture pa then (if mt = 3 then none else flt none)
  else flt none

/-- A leaf stops an access at once; an atomic or a consignment store only behind the judgement of its final address (R33). -/
def leafStops (a e : Nat) : Bool := !leafPermits a e && a != atAtomic && a != atCsg

/-- The end of a walk whose entries all passed: the combined translation (R32, R39), the final judgement, and the A and D
updates (R37). A host-window atomic or consignment store is judged before the leaves (R33); a fault at the final address before the
update of the stage-1 leaf (log 162, DESIGN CHOICE). -/
def Walk.finish (s : State) (w : Walk) : Walk :=
  match w.leaf1 with
  | none => w
  | some l1 =>
    let en := s.s2On w.ctx
    let e2 := match w.leaf2 with | some l => l.val | none => l1.val
    let lv2 := match w.leaf2 with | some l => l.level | none => l1.level
    let far := if eRM e2 ∧ ePKG e2 ≠ s.pkgId then some (ePKG e2) else none
    let mt := Nat.max (eMT l1.val) (eMT e2)
    let wr := atWrites w.at'
    let big := l1.level = 2 ∧ lv2 = 2
    let n1 := marked wr l1.val
    let final := finalFault s.pkgId far en w.pa mt w.at'
    if !(final.any (·.trap.isSome)) && !leafPermits w.at' l1.val then w.fail 1 1 l1.level
    else if !(final.any (·.trap.isSome)) && !leafPermits w.at' e2 then w.fail 1 2 lv2
    else
    match final with
    | some f => { w with upd := [], result := some (.inr { f with gpa := if en then w.gpa else 0 }) }
    | none =>
      let tableBad := n1 != l1.val && en && match w.leafT with | some l => !eW l.val | none => false
      if tableBad then
        { w with upd := [], result := some (.inr
            { kind := 1, stage := 2, level := (w.leafT.map (·.level)).getD 3
              gpa := w.tables.headD 0 * 2 ^ 18 + l1.addr % 2 ^ 18, tbl := true, atype := atTable, trap := none }) }
      else
        let us := match w.leafT with
          | some l => if n1 != l1.val && en then addUpd w.upd l.addr l.val (marked true l.val) else w.upd
          | none => w.upd
        let us := addUpd us l1.addr l1.val n1
        let us := match w.leaf2 with | some l => addUpd us l.addr l.val (marked wr l.val) | none => us
        let found := match w.leafT with
          | some l =>
            if n1 != l1.val && en then
              { fn := fnOf w.ctx, page := w.tables.headD 0, pa := l1.addr / 2 ^ 18, leaf := { l with val := marked true l.val } } ::
                w.found.filter (·.page != w.tables.headD 0)
            else w.found
          | none => w.found
        { w with
          upd := us
          found
          result := some (.inl
            { fn := fnOf w.ctx, ctxid := s.asid w.ctx, glob := eG l1.val, page := w.va % 2 ^ 57 / 2 ^ 18, big
              pa := w.pa / 2 ^ 18, w := eW l1.val && eW e2, x := eX l1.val && eX e2, cg := eCG l1.val && eCG e2
              mt, far, dirty := wr || (eD l1.val && eD e2), gpage := w.gpa / 2 ^ 18, tables := w.tables }) }

/-- A table read outside HBM4 (R14, R36): in an unpopulated range R14's access fault at the final stage, elsewhere R36's table-format
fault at the stage of the entry that pointed there (log 146, DEDUCED). Both name that entry's level (log 50). -/
def Walk.tableOutside (w : Walk) (s : State) (stage level addr : Nat) : Walk :=
  if inHost addr || inAperture addr then w.fail 2 stage (Nat.max 1 (level - 1))
  else w.fail 1 (if s.s2On w.ctx then 2 else 1) (Nat.max 1 (level - 1))

/-- Judge a stage-2 entry (R34, R36). A table read through a leaf with RM = 1 is refused whatever its PKG says (log 161, DESIGN
CHOICE); its fault names the stage-1 entry that pointed there and arose in the translation of a table read (R47). -/
def Walk.judge2 (s : State) (level addr e : Nat) (w : Walk) : Walk :=
  if !inHbm addr then w.tableOutside s 2 level addr
  else if !eV e then w.fail 0 2 level
  else if malformed 2 level true e then w.fail 2 2 level
  else if eT e then
    { w with s2 := level + 1, node := eNode e
             nodes := { stage := 2, level, fn := fnOf w.ctx, ctxid := 0, key := w.gpa / 2 ^ (57 - 13 * level), node := eNode e } :: w.nodes }
  else
    let l : Leaf := { level, addr, val := e }
    let pa := leafOut level e w.gpa
    if w.s1 = 4 then
      if leafStops w.at' e then w.fail 1 2 level
      else { w with s2 := 0, pa, leaf2 := some l }.finish s
    else if eRM e then
      { w with upd := [], result := some (.inr
          { kind := 2, stage := 1, level := Nat.max 1 (w.s1 - 1), gpa := 0, tbl := true, atype := w.at', trap := none }) }
    else
      { w with s2 := 0, pa, leafT := some l, upd := addUpd w.upd addr e (marked false e)
               found := { fn := fnOf w.ctx, page := w.gpa / 2 ^ 18, pa := pa / 2 ^ 18, leaf := { l with val := marked false e } } :: w.found }

/-- Judge a stage-1 entry (R34, R36). A leaf that refuses an atomic or a consignment store ends its walk only once the final address is
known (R33). -/
def Walk.judge1 (s : State) (p level addr e : Nat) (w : Walk) : Walk :=
  if !inHbm addr then w.tableOutside s 1 level addr
  else if !eV e then w.fail 0 1 level
  else if malformed 1 level (s.s2On w.ctx) e then w.fail 2 1 level
  else if eT e then
    { w with nodes := { stage := 1, level, fn := fnOf w.ctx, ctxid := s.asid w.ctx, key := w.va % 2 ^ 57 / 2 ^ (57 - 13 * level)
                        node := eNode e } :: w.nodes }.want s p (level + 1) (eNode e)
  else if leafStops w.at' e then w.fail 1 1 level
  else
    let w := { w with leaf1 := some { level, addr, val := e }, s1 := 4 }.aim s p (leafOut level e w.va)
    if s.s2On w.ctx then w else w.finish s

/-- Eight bytes of a table at a physical address of HBM4, read as one value (R36, R38): charged as an access of the shared cache
to the context whose access began it (R45), resolved as a read of its line (R170). A poisoned half or a seal record out of reach is an
access fault of the access that walks (R93, R102; log 170, DEDUCED). -/
def State.tableRead (s : State) (p cl x addr : Nat) : State × Got (Nat ⊕ Nat) :=
  match s.unitWaits cl x (addr / 128) false false with
  | (s, true) => (s, .waits)
  | (s, false) =>
    let done := fun (s : State) (bs : List Byte) (bad : Nat) =>
      let s := (s.unitTrip cl addr false).l2Access p x ⟨addr, 8⟩ false
      (s, Got.val (if spanBad (halfMask bad) (addr % 128) 8 then .inr 3 else .inl (fromBytes ((bs.drop (addr % 128)).take 8))))
    match s.resolve p x (addr / 128 * 128) [] none with
    | (s, .ask _, _) => (s, .waits)
    | (s, .busy, _) => (s, .waits)
    | (s, .lost, _) => (s, .val (.inr 4))
    | (s, .prior bs bad, _) => done s bs bad
    | (s, _, _) => done s (readBytes s.mem (addr / 128 * 128) 128) (s.badHalves (addr / 128))

/-- A compare-and-swap of eight bytes of a table (R37): whether it wrote. A line that is pending on a consignment is a fault
(R167). -/
def State.tableSwap (s : State) (p cl x addr old new : Nat) : State × Got Bool :=
  match s.unitWaits cl x (addr / 128) true false with
  | (s, true) => (s, .waits)
  | (s, false) =>
    match s.writeGate p x (addr / 128 * 128) with
    | (s, .ask _) => (s, .waits)
    | (s, .busy) => (s, .waits)
    | (s, .pending) | (s, .lost) => (s, .fault)
    | (s, .go) =>
      let s := (s.unitTrip cl addr true).l2Access p x ⟨addr, 8⟩ true
      if s.readNum addr 8 = old then (s.store addr (toBytes 8 new), .val true) else (s, .val false)

/-- One table read of a walk, judged; a read that has to wait leaves the walk where it is. -/
def State.readEntry (s : State) (p : Nat) (w : Walk) : State × Walk :=
  match w.next with
  | none => (s, w)
  | some (stage, level, addr) =>
    let judge := fun (s : State) e => (s, if stage = 2 then w.judge2 s level addr e else w.judge1 s p level addr e)
    if !inHbm addr then judge s 0
    else
      match s.tableRead p w.cl w.ctx addr with
      | (s, .val (.inl e)) => judge s e
      | (s, .val (.inr n)) => (s, { w with result := some (.inr
          { kind := 1, stage, level, gpa := 0, tbl := stage = 2, atype := w.at', trap := some n }) })
      | (s, _) => (s, w)

/-- The stage-2 translations held from a leaf are dropped: its value has changed since it was read (R37). -/
def State.dropLeaf (s : State) (p addr : Nat) : State :=
  { s with parts := s.parts.set p { s.part p with s2tlb := (s.part p).s2tlb.filter fun e => e.leaf.addr != addr } }

/-- One compare-and-swap of a walk (R37); when the compare fails the translation is discarded and the walk begins again from
its root. -/
def State.adStep (s : State) (p : Nat) (w : Walk) : State × Walk :=
  match w.upd with
  | [] => (s, w)
  | u :: us =>
    match s.tableSwap p w.cl w.ctx u.addr u.old u.new with
    | (s, .val true) => (s, { w with upd := us })
    | (s, .val false) => let s := s.dropLeaf p u.addr; (s, Walk.begin s p w.cl w.ctx w.va w.at')
    | (s, .waits) => (s, w)
    | (s, .fault) => (s, { w with upd := [], result := some (.inr
        { kind := 1, stage := 1, level := 0, gpa := 0, tbl := false, atype := w.at', trap := some 10 }) })

/-! ## The caches -/

/-- A held translation covers an address of a context. -/
def TlbEntry.covers (s : State) (x va : Nat) (e : TlbEntry) : Bool :=
  e.fn == fnOf x && (e.glob || e.ctxid == s.asid x) &&
  (if e.big then e.page / 2 ^ 13 == va % 2 ^ 57 / 2 ^ 31 else e.page == va % 2 ^ 57 / 2 ^ 18)

/-- The physical address a translation gives. -/
def TlbEntry.out (e : TlbEntry) (va : Nat) : Nat :=
  if e.big then e.pa / 2 ^ 13 * 2 ^ 31 + va % 2 ^ 31 else e.pa * 2 ^ 18 + va % 2 ^ 18

/-- A held translation serves an access: its permissions hold (R41 keeps no failed check), and a first write through D = 0
walks (R42). -/
def TlbEntry.serves (e : TlbEntry) (a va : Nat) : Bool :=
  permits a e.w e.x e.cg e.mt && (!atWrites a || e.dirty) &&
  !((a == atAtomic || a == atCsg) && e.far.isNone && inHost (e.out va))

/-- An entry put first, the same page's older entry replaced, at most `n` kept (log 8, DESIGN CHOICE). -/
def tlbPut (n : Nat) (e : TlbEntry) (l : List TlbEntry) : List TlbEntry :=
  (e :: l.filter fun o => !(o.fn == e.fn && o.glob == e.glob && o.ctxid == e.ctxid && o.page == e.page)).take n

/-- Fill the caches of a completed walk (R39-R42). The L2 TLB holds its combined and its stage-2 translations together, at most
16,384 (log 8, DESIGN CHOICE, says which leave). -/
def State.fill (s : State) (p : Nat) (w : Walk) (e : TlbEntry) : State :=
  let s := s.updCluster w.cl fun k => { k with tlb := tlbPut 1024 e k.tlb }
  let pt := s.part p
  let put2 := fun (l : List NodeEntry) (n : NodeEntry) =>
    (n :: l.filter fun o => !(o.level == n.level && o.fn == n.fn && o.ctxid == n.ctxid && o.key == n.key)).take 512
  let s2 := w.found ++ pt.s2tlb.filter fun o => !w.found.any fun f => f.fn == o.fn && f.page == o.page
  { s with parts := s.parts.set p { pt with
      tlb2 := (tlbPut 16384 e pt.tlb2).take (16384 - Nat.min 8192 s2.length)
      s2tlb := s2.take (16384 - Nat.min 8192 (tlbPut 16384 e pt.tlb2).length)
      nodes1 := (w.nodes.filter (·.stage == 1)).foldl put2 pt.nodes1
      nodes2 := (w.nodes.filter (·.stage == 2)).foldl put2 pt.nodes2 } }

/-- The L1 TLB, then the L2 TLB, whose entry then enters the L1 TLB (R43). -/
def State.tlbLook (s : State) (cl x va a : Nat) : State × Option TlbEntry :=
  match (s.cluster cl).tlb.find? fun e => e.covers s x va && e.serves a va with
  | some e => (s, some e)
  | none =>
    match (s.part (partOf cl)).tlb2.find? fun e => e.covers s x va && e.serves a va with
    | some e => (s.updCluster cl fun k => { k with tlb := tlbPut 1024 e k.tlb }, some e)
    | none => (s, none)

/-- A walk run to its end. -/
def State.runWalk (p : Nat) : Nat → State → Walk → State × Walk
  | 0, s, w => (s, w)
  | n + 1, s, w =>
    match w.next, w.upd with
    | some _, _ => let (s, w) := s.readEntry p w; State.runWalk p n s w
    | none, _ :: _ => let (s, w) := s.adStep p w; State.runWalk p n s w
    | none, [] => (s, w)

/-- What a translation gives: another package, the physical address, the type, CG, and the entry it came from. -/
structure Xlat where
  far : Option Nat
  pa : Nat
  mt : Nat
  cg : Bool
  via : TlbEntry
  deriving DecidableEq, Repr

/-- A translation's outcome for an address. -/
def TlbEntry.xlat (e : TlbEntry) (va : Nat) : Xlat := { far := e.far, pa := e.out va, mt := e.mt, cg := e.cg, via := e }

/-- The outcome of a unit's translation: `waits` when it joins a walk in flight, finds every engine busy, or its walk has to
wait. -/
inductive Tr where
  | ok (x : Xlat)
  | fault (f : WalkFault)
  | waits
  deriving DecidableEq, Repr

/-- A miss has to wait: a walk of its function, address space and page is in flight or waiting, or all 32 engines are busy (R43). -/
def State.walkBusy (s : State) (p x va : Nat) : Bool :=
  let pt := s.part p
  let same := fun y v => fnOf y == fnOf x && s.asid y == s.asid x && v / 2 ^ 18 == va / 2 ^ 18
  pt.walks.any (fun w => same w.2.ctx w.2.va) || pt.missq.any (fun m => same m.2.1 m.2.2.1) || decide (32 ≤ pt.walks.length)

/-- A unit's miss is that of a place in a walk. -/
def UnitMiss.is (m : UnitMiss) (cl x va a : Nat) : Bool := m.cl == cl && m.ctx == x && m.page == va / 2 ^ 18 && m.at' == a

/-- A unit's miss joins the walk of its page in flight or waiting, or waits in arrival order for an engine (R43). -/
def State.joinWalk (s : State) (p cl x va a : Nat) : State :=
  let pt := s.part p
  let same := fun y v => fnOf y == fnOf x && s.asid y == s.asid x && v / 2 ^ 18 == va / 2 ^ 18
  if pt.joins.any (·.is cl x va a) then s
  else
    let missq := if pt.walks.any (fun w => same w.2.ctx w.2.va) || pt.missq.any (fun m => same m.2.1 m.2.2.1) then pt.missq
      else pt.missq ++ [(cl, x, va, a)]
    { s with parts := s.parts.set p { pt with missq, joins := pt.joins ++ [⟨cl, x, va / 2 ^ 18, a, none⟩] } }

/-- The fault of the walk that a unit's miss joined, taken up once (R43). -/
def State.takeJoin (s : State) (p cl x va a : Nat) : Option (State × WalkFault) :=
  let pt := s.part p
  match pt.joins.find? fun m => m.is cl x va a && m.fault.isSome with
  | some m => m.fault.map fun f => ({ s with parts := s.parts.set p { pt with joins := pt.joins.erase m } }, f)
  | none => none

/-- The ends of a walk for the units that joined it (R43): its fault, where it applies to their access; otherwise they look again. -/
def State.endJoins (s : State) (p : Nat) (w : Walk) : State :=
  let pt := s.part p
  let mine := fun (m : UnitMiss) =>
    m.fault.isNone && fnOf m.ctx == fnOf w.ctx && s.asid m.ctx == s.asid w.ctx && m.page == w.va / 2 ^ 18
  let joins := pt.joins.filterMap fun m =>
    if mine m = false then some m
    else
      match w.result with
      | some (.inr f) =>
        if f.kind = 1 ∧ w.at' ≠ m.at' then none
        else some { m with fault := some (if f.atype = atTable then f else { f with atype := m.at' }) }
      | _ => none
  { s with parts := s.parts.set p { pt with joins } }

/-- The walk of a unit, which holds a free engine for the step it is made in (log 126, DESIGN CHOICE); a walk of its page in flight is
joined, and with every engine busy its miss waits in its turn. -/
def State.unitWalk (s : State) (p cl x va a : Nat) : State × Got (TlbEntry ⊕ WalkFault) × Walk :=
  let w := Walk.begin s p cl x va a
  match s.takeJoin p cl x va a with
  | some (s, f) => (s, .val (.inr f), w)
  | none =>
  if s.walkBusy p x va then (s.joinWalk p cl x va a, .waits, w)
  else
    let (s, w) := State.runWalk p 64 s w
    (s, match w.result with
      | some r => if w.upd.isEmpty then .val r else .waits
      | none => .waits, w)

/-- Translate one access of a unit of cluster `cl` in full, for engines, fetches and write-backs. -/
def State.translate (s : State) (cl x va a : Nat) : State × Tr :=
  let (s, hit) := s.tlbLook cl x va a
  match hit with
  | some e => (s, .ok (e.xlat va))
  | none =>
    match s.unitWalk (partOf cl) cl x va a with
    | (s, .val (.inl e), w) => (s.fill (partOf cl) w e, .ok (e.xlat va))
    | (s, .val (.inr f), _) => (s, .fault f)
    | (s, _, _) => (s, .waits)

/-- S2CTL of a context: as sampled while it is resident, else as it stands (R23). The translator and the trace writes of a function, for which
no context is named, take that of its context 0 (log 163, DESIGN CHOICE). -/
def State.s2ctlOf (s : State) (x : Nat) : Nat := if (s.ctx x).st = 2 then (s.ctx x).s2ctl.toNat else (s.func (fnOf x)).s2ctl.toNat

/-- The stage-2 walk of R519 from a node of level 4 − `n` on: its entries are read, and A and D set, through the shared cache. -/
def State.s2Walk (p x gpa a : Nat) : Nat → Nat → State → State × Got (Nat × Nat)
  | 0, _, s => (s, .fault)
  | n + 1, node, s =>
    let level := 3 - n
    let addr := node + 8 * tblIndex level gpa
    if !inHbm addr then (s, .fault)
    else
      match s.tableRead p 0 x addr with
      | (s, .waits) => (s, .waits)
      | (s, .fault) | (s, .val (.inr _)) => (s, .fault)
      | (s, .val (.inl e)) =>
        if !eV e ∨ malformed 2 level true e then (s, .fault)
        else if eT e then State.s2Walk p x gpa a n (eNode e) s
        else if !leafPermits a e ∨ (eRM e ∧ ePKG e ≠ s.pkgId) then (s, .fault)
        else
          let pa := leafOut level e gpa
          let m := marked (atWrites a) e
          if (finalFault s.pkgId none true pa (eMT e) a).isSome then (s, .fault)
          else if m = e then (s, .val (pa, eMT e))
          else
            match s.tableSwap p 0 x addr e m with
            | (s, .val true) => (s, .val (pa, eMT e))
            | (s, .fault) => (s, .fault)
            | (s, _) => (s, .waits)

/-- Accesses through stage 2 alone (R519): a guest-physical address of context `x`'s function, judged for a read or a write, with
the memory type of its leaf. Remote leaves are faults, and so is an address of more than 52 bits, which no stage-2 walk
takes (R26; log 127, DEDUCED). -/
def State.stage2 (s : State) (p x gpa : Nat) (write : Bool) : State × Got (Nat × Nat) :=
  let ctl := s.s2ctlOf x
  if fnOf x = 128 ∨ !bitOf ctl 0 then (s, .val (gpa, 0))
  else if 2 ^ 52 ≤ gpa then (s, .fault)
  else State.s2Walk p x gpa (if write then atWrite else atRead) 3 (bitsOf ctl 16 36 * 2 ^ 16) s

end Sys2Proof.Machine
end

