-- ==== Sys2Proof/Machine/Request.lean ====
section
/-! DEFINITION. Page requests (02:R46-R50) and the signalling of interrupts (22:R492). -/

namespace Sys2Proof.Machine

/-- Signal vector `v` of function `f` (R492): a masked vector becomes pending, otherwise the message is sent. -/
def State.interrupt (s : State) (f v : Nat) : State :=
  if bitOf (s.func f).msixMask v then s.updFunc f fun u => { u with msixPend := u.msixPend ||| 2 ^ v }
  else { s with msgs := s.msgs ++ [(f, v)] }

/-- Entries of a ring (R49): 2^(SIZE + 6), SIZE above 10 acting as 10. -/
def ringSize (ctl : DWord) : Nat := 2 ^ (Nat.min 10 (bitsOf ctl.toNat 1 4) + 6)

/-- The request ring takes another record: enabled and not full. -/
def Func.prqRoom (u : Func) : Bool :=
  bitOf u.prqCtl.toNat 0 && (u.prqTail + 1) % ringSize u.prqCtl != u.prqHead % ringSize u.prqCtl

/-- The four words of a request record (R47). -/
def PageReq.words (ctxid : Nat) (r : PageReq) : List Nat :=
  [ r.va,
    ctxid * 2 ^ 52 + r.gpa % 2 ^ 52,
    r.seq % 2 ^ 32 * 2 ^ 32 + r.eng * 2 ^ 29 + b2n r.tbl * 2 ^ 28 + r.cmdseq % 2 ^ 24,
    r.atype * 2 ^ 60 + r.kind * 2 ^ 58 + (r.stage - 1) * 2 ^ 57 + r.level * 2 ^ 55 + bitsOf r.iaddr.toNat 2 55 ]

/-- Write a request's record at PRQ_TAIL, advance it and signal (R47, R49). -/
def State.prqWrite (s : State) (f : Nat) (r : PageReq) : State :=
  let u := s.func f
  let at' := u.prqBase.toNat / 4096 * 4096 + 32 * (u.prqTail % ringSize u.prqCtl)
  let bs := ((r.words (r.ctx % 4096)).map (toBytes 8)).flatten
  let s := (s.homeStore at' bs).updFunc f fun u => { u with prqTail := (u.prqTail + 1) % ringSize u.prqCtl }
  if bitOf u.prqCtl.toNat 8 then s.interrupt 128 18 else s

/-- The fields of the engine or instruction that a fault names. -/
structure FaultSite where
  eng : Nat
  cmdseq : Nat
  iaddr : DWord
  deriving DecidableEq, Repr

/-- A fault's request (R46-R48, R50): it joins a live request that matches it, or takes the next SEQ and is written or held.
`none` when the context has 512 live requests or the partition's buffer of 64 is full: the access waits. FULL_SEEN is set where the ring
has no room and the buffer is full too, and not where the limit of 512 alone holds (log 167, DESIGN CHOICE). -/
def State.raise (s : State) (p x va : Nat) (w : WalkFault) (e : FaultSite) : State × Option (Nat × Nat) :=
  let f := fnOf x
  let u := s.func f
  match u.live.find? fun r => r.ctx == x && r.va / 2 ^ 18 == va / 2 ^ 18 && r.gpa / 2 ^ 18 == w.gpa / 2 ^ 18 &&
      r.stage == w.stage && r.kind == w.kind && r.atype == w.atype with
  | some r => (s, some (f, r.seq))
  | none =>
    let now := f != 128 && u.prqRoom && u.live.all (!·.held)
    let held : Nat := (s.funcs.map fun v => v.2.live.countP fun r => r.held && r.part == p).sum
    if 512 ≤ u.live.countP (·.ctx == x) then (s, none)
    else if !now && decide (64 ≤ held) then (s.updFunc f fun u => { u with fullSeen := true }, none)
    else
      let r : PageReq := { seq := u.prqSeq, ctx := x, part := p, va, gpa := w.gpa, eng := e.eng, tbl := w.tbl
                           cmdseq := e.cmdseq, atype := w.atype, kind := w.kind, stage := w.stage, level := w.level
                           iaddr := e.iaddr, held := !now }
      let s := s.updFunc f fun u =>
        { u with prqSeq := (u.prqSeq + 1) % 2 ^ 32, live := u.live ++ [r], fullSeen := u.fullSeen || !now }
      (if now then s.prqWrite f r else s, some (f, u.prqSeq))

/-- The trap that delivers a fault (R47, R52, R453): its class, access type, kind, stage and level. -/
def deliverRec (w : PageReq) : TrapRec :=
  { cls := clsTranslation, subtype := w.atype * 16 + w.kind, stage := w.stage - 1, level := w.level, eng := w.eng
    seq := w.seq, cmdseq := w.cmdseq, faddr := BitVec.ofNat 64 w.va }

end Sys2Proof.Machine
end

