-- ==== Sys2Proof/Machine/Ports.lean ====
section
/-! DEFINITION. Planes and ports of the fabric (05:R101, R102), the sizes of its messages (05:R103), how a request leaves the
package, and the accesses of units (engines, fetches, write-backs, the queue manager) to lines at a fabric home. -/

namespace Sys2Proof.Machine

/-- Full byte mask of a line. -/
def fullMask : Nat := 2 ^ 128 - 1

/-- The mask of `n` bytes from byte `lo` of a line. -/
def spanMask (lo n : Nat) : Nat := (2 ^ n - 1) * 2 ^ lo

/-- Bytes of the span from the lowest to the highest set bit of a mask, rounded up to 16 (R103). -/
def writeSpan (mask : Nat) : Nat :=
  match bitList 128 mask with
  | [] => 0
  | b :: bs => ceilDiv ((b :: bs).getLastD b + 1 - b) 16 * 16

/-- Quarters of a write message of a span (R103). -/
def writeQuarters (span : Nat) : Nat := ceilDiv (40 + span) 59

/-- Quarters of a read response (R103): the whole line for memory types 0 and 1, the sectors of a mask for type 2. -/
def replyQuarters (mt mask : Nat) : Nat :=
  if mt ≤ 1 then 3
  else ceilDiv (16 + 32 * (List.range 4).countP fun i => bitsOf mask (32 * i) 32 != 0) 59

/-! ## Requests -/

/-- The domain that a context's requests carry (R105); the physical function's contexts have none (R176), and carry 0 (log 128, DESIGN
CHOICE). -/
def State.domainOf (s : State) (x : Nat) : Nat := if fnOf x = 128 then 0 else (s.func (fnOf x)).fabDomain.toNat % 4096

/-- Whether an access to a line of another package may leave: it faults with a subtype at issue (R102, R105), or waits for a
retraining plane or behind a request that is sent again (R102). -/
inductive FarGate where
  | go
  | trap (sub : Nat)
  | waits
  deriving DecidableEq, Repr

/-- A function may make no remote access (R105). EN speaks of virtual functions; the physical function's contexts are not held by one (log
128, DESIGN CHOICE). -/
def State.farShut (s : State) (x : Nat) : Bool := fnOf x != 128 && !bitOf (s.func (fnOf x)).fabDomain.toNat 63

/-- The judgement of an access to a line of another package. It waits behind a request of its line that was sent again (R102), or that
stands at another port than it would take, so that the line's requests arrive in issue order (R101). -/
def State.farGate (s : State) (x pkg pa : Nat) : FarGate :=
  if s.farShut x then .trap 5
  else match s.portOf pkg pa with
    | none => if s.planeRetrains pkg pa then .waits else .trap 4
    | some k =>
      if s.remotes.any fun r => r.2.far == pkg && r.2.pa / 128 == pa / 128 && (r.2.resent || r.2.port != k) then .waits else .go

/-- A request leaves under a new tag, charged in quarters (R103), with a taken stamp (R155), its domain and its operation; it
waits at its port for a slot. For a write `mask` names the line's bytes and `bad` its poisoned halves (R80). Its reply is charged when it
comes. -/
def State.post (s : State) (p : Nat) (r : RemoteSent) (op : RemoteOp) (mask : Nat) (bad : Nat := 0) : State × Nat :=
  let (st, s) := s.take
  let t := s.nextTag
  let port := (s.portOf r.far r.pa).getD 0
  let dom := s.domainOf r.ctx
  let r := { r with plane := planeOf r.far r.pa, port, sentNs := s.timeNs, domain := dom }
  let m : FabMsg := { kind := .request dom r.pa op, dst := r.far, id := t, words := [mask, bad], bytes := [], stamp := st }
  (({ s with remotes := s.remotes.set t r, nextTag := t + 1, fabOut := s.fabOut ++ [m] }.chargeQ p r.ctx 13 r.quarters).updPort port
    fun q => { q with queued := q.queued + r.quarters }, t)

/-! ## Accesses of units -/

/-- The end of a unit's access to a line of another package. -/
inductive UnitEnd where
  | bytes (bs : List Byte)
  | trap (sub : Nat)
  | waits
  deriving DecidableEq, Repr

/-- A copy that a read response places (R108), in the ways sampled at the miss (R89). -/
def State.placeCopy (s : State) (p : Nat) (r : RemoteSent) (data : List Byte) : State :=
  if r.mt ≤ 1 ∧ data.length = 128 ∧ !r.noCopy ∧ bitsOf r.ways 0 32 ≠ 0 ∧ (s.l2Find (some r.far) r.pa).isNone then
    s.l2Alloc p r.ctx r.ways (some r.far) r.pa false data
  else s

/-- An access of a unit to a line of another package: its kept end is taken up, or it is sent once, as an operation of some
quarters, and waits. A read of memory type 0 or 1 is served by a read-only-remote copy, and asks for the whole line (R103); a write drops
the local copy at issue (R108). -/
def State.farUnitOp (s : State) (p mt : Nat) (k : FarAsk) (via : Option TlbEntry) (op : RemoteOp) (quarters : Nat) : State × UnitEnd :=
  match s.farGot.find? (·.ask == k) with
  | some g =>
    ({ s with farGot := s.farGot.erase g }, match g.sub with | some n => .trap n | none => .bytes g.bytes)
  | none =>
    if s.remotes.any (fun r => r.2.unit == some k) then (s, .waits)
    else
      let s := if k.write then s.dropLine (some k.pkg) k.pa else s
      let whole := !k.write && decide (mt ≤ 1)
      match if whole && !s.farShut k.x then s.l2Find (some k.pkg) k.pa else none with
      | some L => (s.charge p k.x 11 1, .bytes ((L.data.drop (k.pa % 128)).take k.n))
      | none =>
        match s.farGate k.x k.pkg k.pa with
        | .trap n => (s, .trap n)
        | .waits => (s, .waits)
        | .go =>
          let m := spanMask (k.pa % 128) k.n
          let r : RemoteSent :=
            { cl := k.cl, slot := 0, op := 0, lanes := [], far := k.pkg, pa := if whole then k.pa / 128 * 128 else k.pa, plane := 0
              port := 0, store := false, ctx := k.x, sentNs := 0, noCopy := false
              reply := if k.write then 1 else replyQuarters mt m, mt, resent := false
              quarters, ways := s.waysOf (fnOf k.x), unit := some k, vias := via.toList }
          let s := s.inject 0 (if k.write then 3 else 1) (clusterStop k.cl) hostStop false none (unitRef k.cl (k.pa / 128))
          ((s.post p r (if whole then .read 128 else op) m).1, .waits)

/-- A unit's read or write of bytes of a line of another package. -/
def State.farUnit (s : State) (p mt : Nat) (k : FarAsk) (via : Option TlbEntry) (bs : List Byte) : State × UnitEnd :=
  s.farUnitOp p mt k via (if k.write then .write bs (2 ^ bs.length - 1) else .read k.n)
    (if k.write then writeQuarters (writeSpan (spanMask (k.pa % 128) k.n)) else 1)

/-- The bytes a unit asked for, out of a response: the whole line, the touched 32-byte sectors in rising order, or just they. -/
def unitBytes (k : FarAsk) (data : List Byte) : List Byte :=
  let lo := k.pa % 128
  if 128 ≤ data.length then ((data.take 128).drop lo).take k.n
  else if data.length = k.n then data
  else (data.drop (lo % 32)).take k.n

/-- The accesses of a unit of a context that nobody waits for any more: their ends are not kept. -/
def State.forgetUnits (s : State) (sel : FarAsk → Bool) : State :=
  { s with
    farGot := s.farGot.filter fun g => !sel g.ask
    remotes := s.remotes.map fun r => (r.1, match r.2.unit with
      | some k => if sel k then { r.2 with unit := none, slot := 2 ^ 20 } else r.2
      | none => r.2) }

end Sys2Proof.Machine
end

