-- ==== Sys2Proof/Machine/Cache.lean ====
section
/-! DEFINITION. The cluster's own memory: the L1 cache and its write-backs (03:R68, 06:R129, 20:R460), the scratchpad's
placement in banks (03:R70, R71), FIFO banks (03:R73). -/

namespace Sys2Proof.Machine

/-! ## Banks (R61, R62) -/

/-- The mode of bank `b`. -/
def Cluster.mode (k : Cluster) (b : Nat) : Nat := bitsOf k.bankCur.toNat (2 * b) 2

/-- The cache banks that allocate: one way each (R68); a draining bank allocates nothing (R64). -/
def Cluster.ways (k : Cluster) : List Nat := (List.range 32).filter fun b => k.mode b == 1 && !k.drains.contains b

/-- The scratchpad banks in ascending order (R65). -/
def Cluster.scratchBanks (k : Cluster) : List Nat := (List.range 32).filter fun b => k.mode b == 0

/-- The words of the SRAM: bank × 16,384 + row × 32 + column. -/
def wordIndex (bank row col : Nat) : Nat := bank * 16384 + row * 32 + col

/-- The word that holds a cluster scratchpad offset (R70). -/
def Cluster.scratchWord (k : Cluster) (o : Nat) : Nat :=
  wordIndex (k.scratchBanks.getD (o / 65536) 31) (o / 128 % 512) (o / 4 % 32)

/-- A byte of the cluster's scratchpad. -/
def Cluster.scratchByte (k : Cluster) (o : Nat) : Byte :=
  BitVec.ofNat 8 (bitsOf (k.sram.getD (k.scratchWord o) 0).toNat (8 * (o % 4)) 8)

/-- `n` bytes of the scratchpad. -/
def Cluster.scratchRead (k : Cluster) (o n : Nat) : List Byte := (List.range n).map fun i => k.scratchByte (o + i)

/-- The cluster with one scratchpad byte written. -/
def Cluster.scratchPut (k : Cluster) (o : Nat) (b : Byte) : Cluster :=
  let w := k.scratchWord o
  { k with sram := k.sram.set w (BitVec.ofNat 32 (setBits (k.sram.getD w 0).toNat (8 * (o % 4)) 8 b.toNat)) }

/-- The words that a span of bytes covers whole lose their poison marks: they are overwritten (R80). -/
def Cluster.cleanWords (k : Cluster) (o n : Nat) : Cluster :=
  { k with sramPoison := (List.range (n / 4 + 1)).foldl (fun m i =>
      let w := ceilDiv o 4 * 4 + 4 * i
      if w + 4 ≤ o + n then m.del (k.scratchWord w) else m) k.sramPoison }

/-- Bytes put one after another. -/
def Cluster.scratchPuts (k : Cluster) (o : Nat) : List Byte → Cluster
  | [] => k
  | b :: bs => Cluster.scratchPuts (k.scratchPut o b) (o + 1) bs

/-- The cluster with scratchpad bytes written. -/
def Cluster.scratchWrite (k : Cluster) (o : Nat) (bs : List Byte) : Cluster := (k.scratchPuts o bs).cleanWords o bs.length

/-- A scratchpad word of the span is poisoned. -/
def Cluster.scratchPoison (k : Cluster) (o n : Nat) : Bool :=
  (List.range (ceilDiv (o % 4 + n) 4)).any fun i => k.sramPoison.getD (k.scratchWord (o / 4 * 4 + 4 * i)) false

/-- The swizzle codes (R71). -/
def swizzle (c a : Nat) : Nat :=
  if 1 ≤ c ∧ c ≤ 5 then a ^^^ ((a / 128 % 2 ^ c) * 4)
  else if c = 6 then a ^^^ ((a / 128 % 8) * 16)
  else if c = 7 then a ^^^ ((a / 128 % 4) * 32)
  else a

/-- Bank cycles of a set of word indices (R72): the most distinct rows any one column of a bank needs; each counts the
banks it serves. -/
def bankCycles (ws : List Nat) : Nat :=
  let ws := ws.eraseDups
  let banks := (ws.map (· / 16384)).eraseDups
  (banks.map fun b => ((List.range 32).map fun c =>
    ws.countP fun w => w / 16384 == b && w % 32 == c).foldl Nat.max 0).sum

/-! ## Lines of the L1 -/

/-- The L1 line of a physical line number. -/
def State.l1Find (s : State) (cl line : Nat) : Option L1Line := (s.cluster cl).l1.find? line

/-- The state with the L1 of a cluster changed. -/
def State.updL1 (s : State) (cl : Nat) (f : FMap L1Line → FMap L1Line) : State :=
  s.updCluster cl fun k => { k with l1 := f k.l1 }

/-- How a write-back ends. -/
inductive Wb where
  | done
  /-- The translation of the recorded address fails. -/
  | walk (f : WalkFault)
  /-- The line meets a pending consignment tag. -/
  | tag
  /-- The tag's record is on another package. -/
  | ask (t : Tag)
  /-- The page lies on another package and the write cannot leave: an access fault of a subtype (R102, R105; log 129, DESIGN CHOICE). -/
  | far (sub : Nat)
  /-- It has to wait for a walk, a slice or a plane and is to be made again. -/
  | waits
  deriving DecidableEq, Repr

/-- The line of a write-back after it: kept clean, or dropped; a poisoned one is dropped. -/
def State.wbClean (s : State) (cl line : Nat) (keep : Bool) : State :=
  s.updL1 cl fun m => match m.find? line with
    | some L => if keep ∧ L.poison = 0 then m.set line { L with dirty := 0, pinned := false } else m.del line
    | none => m

/-- A line whose write-back failed: dirty and pinned (R460). -/
def State.wbPin (s : State) (cl line : Nat) : State := s.updL1 cl fun m => m.adjust line fun l => { l with pinned := true }

/-- A write-back to the page's present home on another package (R129): it leaves with its mask, and the release that asks for it
waits for its acknowledgement (`State.wbAway`). -/
def State.wbFar (s : State) (cl line : Nat) (L : L1Line) (x : Xlat) (pkg : Nat) (keep : Bool) : State × Wb :=
  let pa := x.pa / 128 * 128
  match s.farGate L.ctx pkg pa with
  | .trap n => (s.wbPin cl line, .far n)
  | .waits => (s, .waits)
  | .go =>
    let k : FarAsk := { cl, x := L.ctx, eng := 6, write := true, pkg, pa, n := L.dirty, unit := L.va }
    let r : RemoteSent :=
      { cl, slot := 0, op := 0, lanes := [], far := pkg, pa, plane := 0, port := 0, store := false, ctx := L.ctx, sentNs := 0
        noCopy := false, reply := 1, mt := x.mt, resent := false, quarters := writeQuarters (writeSpan L.dirty), unit := some k
        vias := [x.via] }
    let s := ((s.dropLine (some pkg) pa).post (partOf cl) r (.write L.data L.dirty) L.dirty L.poison).1
    (s.wbClean cl line keep, .done)

/-- Write-backs of a context that have left for another package and are not acknowledged. -/
def State.wbAway (s : State) (x : Nat) : Bool := s.remotes.any fun r => match r.2.unit with
  | some k => k.eng == 6 && k.x == x
  | none => false

/-- A write-back of a context that left for another package and failed there: its line address and the subtype of its access fault, which the
release that asks for it takes up (log 129, DESIGN CHOICE). -/
def State.wbLost (s : State) (x : Nat) : Option (FarGot × Nat) :=
  s.farGot.findSome? fun g => if g.ask.eng == 6 && g.ask.x == x then g.sub.map fun n => (g, n) else none

/-- The span of a masked write of a line: its first to its last byte, and never the whole line unless every byte is written. -/
def maskedWrite (line mask : Nat) : Span :=
  if mask = fullMask then ⟨line * 128, 128⟩
  else match bitList 128 mask with
    | [] => ⟨line * 128, 0⟩
    | b :: bs => ⟨line * 128 + b, Nat.min 127 ((b :: bs).getLastD b + 1 - b)⟩

/-- Write a line's dirty bytes to its home, judged against the current translation of the recorded address (R129, R460,
R461). A failing line stays dirty and is pinned; a passing one is kept clean or dropped. -/
def State.writeBack (s : State) (cl line : Nat) (keep : Bool) : State × Wb :=
  match s.l1Find cl line with
  | none => (s, .done)
  | some L =>
    if L.dirty = 0 then (s.wbClean cl line keep, .done)
    else
      let p := partOf cl
      match s.translate cl L.ctx L.va atWrite with
      | (s, .fault f) => (s.wbPin cl line, if f.trap = some 10 then .tag else .walk f)
      | (s, .waits) => (s, .waits)
      | (s, .ok x) =>
        match x.far with
        | some pkg => s.wbFar cl line L x pkg keep
        | none =>
          if !inHbm x.pa then
            let s := s.charge p L.ctx 11 1
            (((bitList 128 L.dirty).foldl (fun s i => s.store (x.pa / 128 * 128 + i) [L.data.getD i 0]) s).wbClean cl line keep, .done)
          else
            match s.unitWaits cl L.ctx (x.pa / 128) true (L.dirty == fullMask) with
            | (s, true) => (s, .waits)
            | (s, false) =>
              match s.writeGate p L.ctx (x.pa / 128 * 128) with
              | (s, .pending) => (s.wbPin cl line, .tag)
              | (s, .ask t) => (s.wbPin cl line, .ask t)
              | (s, .lost) => (s.wbPin cl line, .far 4)
              | (s, .busy) => (s, .waits)
              | (s, .go) =>
                let s := (s.unitTrip cl x.pa true).l2Access p L.ctx (maskedWrite (x.pa / 128) L.dirty) true
                let s := s.storeMasked (x.pa / 128) L.dirty L.data
                let s := (bitList 2 L.poison).foldl (fun s h => s.poisonHalf (x.pa / 128 * 2 + h)) s
                (s.wbClean cl line keep, .done)

/-- Write back the dirty lines that satisfy a test, in address order; the first failure stops (R460). -/
def State.writeBackList (cl : Nat) (keep : Bool) : List Nat → State → State × Option (Nat × Wb)
  | [], s => (s, none)
  | l :: ls, s =>
    match s.writeBack cl l keep with
    | (s, .done) => State.writeBackList cl keep ls s
    | (s, w) => (s, some (l, w))

/-- The dirty lines of a cluster that hold stores of some contexts. -/
def State.dirtyLines (s : State) (cl : Nat) (of : Nat → Bool) : List Nat :=
  ((s.cluster cl).l1.filter fun e => e.2.dirty != 0 && of e.2.ctx).map (·.1)

/-- A way for a new line: a free one, or the way of a line given up: clean, or written back (R68, R461). -/
def State.l1Way (s : State) (cl line : Nat) : State × Option Nat :=
  let k := s.cluster cl
  let inSet := k.l1.filter fun e => e.1 % 512 == line % 512
  match k.ways.find? fun w => inSet.all fun e => e.2.way != w with
  | some w => (s, some w)
  | none =>
    (inSet.filter fun e => !e.2.pinned && k.ways.contains e.2.way).foldl (fun (acc : State × Option Nat) e =>
      match acc with
      | (s, some w) => (s, some w)
      | (s, none) =>
        match s.writeBack cl e.1 false with
        | (s, .done) => (s, some e.2.way)
        | (s, _) => (s, none)) (s, none)

/-- The home's bytes of a line. -/
def State.homeLine (s : State) (line : Nat) : List Byte := readBytes s.mem (line * 128) 128

/-- Merge the home's bytes under a line's valid mask (R68), with the marks of the halves of which bytes were taken (R93). -/
def mergeLine (L : L1Line) (home : List Byte) (bad : Nat) : L1Line :=
  let taken := b2n (bitsOf L.valid 0 64 != 2 ^ 64 - 1) + 2 * b2n (bitsOf L.valid 64 64 != 2 ^ 64 - 1)
  { L with valid := fullMask
           poison := L.poison ||| (bad &&& taken)
           data := (List.range 128).map fun i => if bitOf L.valid i then L.data.getD i 0 else home.getD i 0 }

/-- Fill a line of the L1 from its home, allocating where memory type 0 allows (R30, R68). -/
def State.l1Fill (s : State) (cl x line : Nat) (alloc : Bool) : State :=
  match s.l1Find cl line with
  | some L => s.updL1 cl fun m => m.set line (mergeLine L (s.homeLine line) (s.badHalves line))
  | none =>
    if !alloc then s
    else
      match s.l1Way cl line with
      | (s, none) => s
      | (s, some w) => s.updL1 cl fun m => m.set line
          { way := w, valid := fullMask, dirty := 0, data := s.homeLine line, ctx := x, va := 0, pinned := false
            poison := s.badHalves line }

/-- The value of `n` bytes of a line for a thread of the cluster: bytes the L1 holds valid, else the home's. -/
def State.lineBytes (s : State) (cl line lo n : Nat) : List Byte :=
  let home := fun i => readByte s.mem (line * 128 + i)
  match s.l1Find cl line with
  | some L => (List.range n).map fun i => if bitOf L.valid (lo + i) then L.data.getD (lo + i) 0 else home (lo + i)
  | none => (List.range n).map fun i => home (lo + i)

/-- The value of `n` bytes at the home, with the bytes the cluster's own L1 holds dirty (R127, R130). -/
def State.homeBytes (s : State) (cl line lo n : Nat) : List Byte :=
  let home := fun i => readByte s.mem (line * 128 + i)
  match s.l1Find cl line with
  | some L => (List.range n).map fun i => if bitOf L.dirty (lo + i) then L.data.getD (lo + i) 0 else home (lo + i)
  | none => (List.range n).map fun i => home (lo + i)

/-- The bytes of a line that the cluster's own L1 holds dirty, bit i for byte i. -/
def State.dirtyMask (s : State) (cl line : Nat) : Nat := ((s.l1Find cl line).map (·.dirty)).getD 0

/-- A line's bytes with those that the cluster's own L1 holds dirty in their place (R127). -/
def State.overlay (s : State) (cl line : Nat) (bs : List Byte) : List Byte :=
  match s.l1Find cl line with
  | some L => (List.range 128).map fun i => if bitOf L.dirty i then L.data.getD i 0 else bs.getD i 0
  | none => bs

/-- The poisoned bytes of such a line: of the bad halves where they come from the home, of the L1's where they are dirty there (R80,
R93). -/
def State.overlayBad (s : State) (cl line bad : Nat) : Nat :=
  match s.l1Find cl line with
  | some L => (halfMask bad - (halfMask bad &&& L.dirty)) ||| (halfMask L.poison &&& L.dirty)
  | none => halfMask bad

/-- Bytes put into a line, with their valid and dirty bits. -/
def L1Line.put (L : L1Line) (lo : Nat) (bs : List Byte) (dirty : Bool) : L1Line :=
  let m := spanMask lo bs.length
  { L with
    valid := L.valid ||| m
    dirty := if dirty then L.dirty ||| m else L.dirty
    data := (List.range 128).map fun i => if lo ≤ i ∧ i < lo + bs.length then bs.getD (i - lo) 0 else L.data.getD i 0 }

/-- How a store into the L1 ends: taken, not without a line, or waiting for another context's write-back. -/
inductive L1Store where
  | took
  | no
  | waits
  deriving DecidableEq, Repr

/-- A line that holds another context's stores is written back before a store is accepted (R129). When that fails the line stays
pinned, and the store waits for its owner's next release (R520). -/
def State.l1Yield (s : State) (cl x line : Nat) : State × Bool :=
  match s.l1Find cl line with
  | none => (s, true)
  | some L =>
    if L.dirty = 0 ∨ L.ctx = x then (s, true)
    else if L.pinned then (s, false)
    else
      match s.writeBack cl line true with
      | (s, .done) => (s, true)
      | (s, _) => (s, false)

/-- A store into the L1 (R68, R129). -/
def State.l1Store (s : State) (cl x va line lo : Nat) (bs : List Byte) (alloc : Bool) : State × L1Store :=
  match s.l1Yield cl x line with
  | (s, false) => (s, .waits)
  | (s, true) =>
    match s.l1Find cl line with
    | some L =>
      let L := if L.dirty = 0 then { L with ctx := x, va := va / 128 * 128, grids := [] } else L
      (s.updL1 cl fun m => m.set line (L.put lo bs true), .took)
    | none =>
      if !alloc then (s, .no)
      else
        match s.l1Way cl line with
        | (s, none) => (s, .no)
        | (s, some w) =>
          let L : L1Line := { way := w, valid := 0, dirty := 0, data := List.replicate 128 0, ctx := x
                              va := va / 128 * 128, pinned := false }
          (s.updL1 cl fun m => m.set line (L.put lo bs true), .took)

/-- The halves of an L1 line that a byte mask covers whole lose their marks (R93). -/
def State.l1Clean (s : State) (cl line mask : Nat) : State :=
  let whole := b2n (bitsOf mask 0 64 == 2 ^ 64 - 1) + 2 * b2n (bitsOf mask 64 64 == 2 ^ 64 - 1)
  if whole = 0 then s else s.updL1 cl fun m => m.adjust line fun L => { L with poison := L.poison &&& (3 - whole) }

/-- A line's bytes updated in the L1 after they were written at the home, which they need not be written back to (R132). -/
def State.l1Refresh (s : State) (cl line lo : Nat) (bs : List Byte) : State :=
  s.updL1 cl fun m => m.adjust line fun L =>
    let d := L.dirty - (L.dirty &&& spanMask lo bs.length)
    { L.put lo bs false with dirty := d, pinned := L.pinned && d != 0 }

/-- Drop a clean line, or the bytes of a dirty line that no store wrote (R130, R335). -/
def dropClean (m : FMap L1Line) (line : Nat) : FMap L1Line :=
  match m.find? line with
  | some L => if L.dirty = 0 then m.del line else m.set line { L with valid := L.dirty }
  | none => m

/-- The acquire's drop of every clean line and clean byte of a cluster's L1 (R130). -/
def State.acquireDrop (s : State) (cl : Nat) : State :=
  s.updL1 cl fun m => (m.filter fun e => e.2.dirty != 0).map fun e => (e.1, { e.2 with valid := e.2.dirty })

/-- A forced step before a home access of the issuing cluster's engine or atomic (R134, R136, R520): a clean line is dropped
for an engine, a dirty one written back and dropped. -/
def State.giveUpLine (s : State) (cl line : Nat) (cleanToo : Bool) : State × Wb :=
  match s.l1Find cl line with
  | some L => if L.dirty ≠ 0 then s.writeBack cl line false else (if cleanToo then s.updL1 cl (·.del line) else s, .done)
  | none => (s, .done)

/-- Write back the dirty lines of a cluster that hold stores of function `f`'s contexts (R140, R142); a line whose write-back
fails stays. The Bool is false while one has to wait, or has left for another package and is not acknowledged. -/
def State.promote (s : State) (cl f : Nat) : State × Bool :=
  let r := (s.dirtyLines cl fun x => fnOf x == f).foldl (fun (acc : State × Bool) l =>
    match acc.1.writeBack cl l true with
    | (s, .waits) | (s, .ask _) => (s, false)
    | (s, _) => (s, acc.2)) (s, true)
  (r.1, r.2 && !r.1.remotes.any fun q => match q.2.unit with
    | some k => k.eng == 6 && k.cl == cl && fnOf k.x == f
    | none => false)

end Sys2Proof.Machine
end

