-- ==== Sys2Proof/Machine/Float.lean ====
section
/-! DEFINITION. Floating-point values, rounding and the IEEE operations on them (09:R209-R225). A finite value is exact:
a sign, a numerator, a denominator and a power of two; every result is rounded once by `roundTo`. -/

namespace Sys2Proof.Machine

/-- A format (R209): fraction bits, bias, flush class (0 FP64, 1 FP32, 2 FP16, 3 BF16, 4 FP8, 5 none), exponent bits. -/
structure Fmt where
  fb : Nat
  eb : Nat
  bias : Nat
  cls : Nat
  /-- Largest finite magnitude as m × 2^e. -/
  maxM : Nat
  maxE : Int
  /-- 0 IEEE, 1 E4M3, 2 E5M2, 3 E2M1. -/
  kind : Nat
  deriving DecidableEq, Repr

/-- Formats by FF code (R277). -/
def fmtOf : Nat → Fmt
  | 0 => ⟨23, 8, 127, 1, 2 ^ 24 - 1, 104, 0⟩
  | 1 => ⟨52, 11, 1023, 0, 2 ^ 53 - 1, 971, 0⟩
  | 2 => ⟨10, 5, 15, 2, 2047, 5, 0⟩
  | 3 => ⟨7, 8, 127, 3, 255, 120, 0⟩
  | 4 => ⟨3, 4, 7, 4, 14, 5, 1⟩
  | 5 => ⟨2, 5, 15, 4, 7, 13, 2⟩
  | _ => ⟨1, 2, 1, 5, 3, 1, 3⟩

/-- Width of a format's code. -/
def Fmt.width (f : Fmt) : Nat := 1 + f.eb + f.fb

/-- Flags of FPFLAGS (R218). -/
def flIX : Nat := 1
def flUF : Nat := 2
def flOF : Nat := 4
def flDZ : Nat := 8
def flIV : Nat := 16
def flSC : Nat := 32
def flSATD : Nat := 64

/-- A floating-point datum: a NaN (signalling or quiet), an infinity, or a finite value (−1)^s × m × 2^e. -/
inductive FV where
  | nan (sig : Bool)
  | inf (neg : Bool)
  | fin (neg : Bool) (m : Nat) (e : Int)
  deriving DecidableEq, Repr

/-- FIZ: the input-flush bit of a class (R217). -/
def fiz (mode : Nat) (cls : Nat) : Bool := cls < 5 && bitOf mode (10 + cls)
/-- FOZ: the result-flush bit of a class. -/
def foz (mode : Nat) (cls : Nat) : Bool := cls < 5 && bitOf mode (5 + cls)
/-- SATF (R217). -/
def satf (mode : Nat) : Bool := bitOf mode 18
/-- FPMODE.RM; 5 to 7 act as 0 (R217). -/
def fpRm (mode : Nat) : Nat := let r := bitsOf mode 15 3; if 5 ≤ r then 0 else r

/-- Decoding without flushing (R209, R210); `x` is the E4M3 code of the FP4 extra value. -/
def Fmt.decodeRaw (f : Fmt) (x : Nat) (n : Nat) : FV :=
  let go (f : Fmt) (n : Nat) : FV :=
    let fr := n % 2 ^ f.fb
    let ex := n / 2 ^ f.fb % 2 ^ f.eb
    let neg := bitOf n (f.fb + f.eb)
    let top := 2 ^ f.eb - 1
    if (f.kind = 0 ∨ f.kind = 2) ∧ ex = top then
      if fr = 0 then .inf neg else .nan (!bitOf fr (f.fb - 1))
    else if f.kind = 1 ∧ ex = top ∧ fr = 7 then .nan false
    else if ex = 0 then .fin neg fr (1 - (f.bias : Int) - f.fb)
    else .fin neg (2 ^ f.fb + fr) ((ex : Int) - f.bias - f.fb)
  if f.kind = 3 ∧ n % 16 = 8 then go (fmtOf 4) x else go f n

/-- A code is subnormal: exponent zero, fraction nonzero. -/
def Fmt.subnormal (f : Fmt) (n : Nat) : Bool := n / 2 ^ f.fb % 2 ^ f.eb == 0 && n % 2 ^ f.fb != 0

/-- A source code after input flushing (R219): a subnormal becomes the zero of its sign. -/
def Fmt.flushIn (f : Fmt) (mode n : Nat) : Nat :=
  if fiz mode f.cls && f.subnormal n then n / 2 ^ (f.fb + f.eb) * 2 ^ (f.fb + f.eb) else n

/-- A source operand (R210, R219). -/
def Fmt.read (f : Fmt) (mode n : Nat) : FV :=
  f.decodeRaw (bitsOf mode 24 8) (f.flushIn mode (n % 2 ^ f.width))

/-- The canonical quiet NaN (R220). E2M1 has none: a NaN converted to it gives 0 (R222). -/
def Fmt.qnan (f : Fmt) : Nat :=
  match f.kind with
  | 0 => (2 ^ f.eb - 1) * 2 ^ f.fb + 2 ^ (f.fb - 1)
  | 1 => 0x7F
  | 2 => 0x7E
  | _ => 0

/-- The sign bit of a code. -/
def Fmt.signBit (f : Fmt) (neg : Bool) : Nat := b2n neg * 2 ^ (f.fb + f.eb)

/-- The code of an infinity; only for formats that have one. -/
def Fmt.infCode (f : Fmt) (neg : Bool) : Nat := f.signBit neg + (2 ^ f.eb - 1) * 2 ^ f.fb

/-- The code of a finite magnitude m × 2^q with q at or above the subnormal quantum (carry out of m included). -/
def Fmt.finCode (f : Fmt) (m : Nat) (q : Int) : Nat :=
  if m = 0 then 0 else m + (q + f.fb + f.bias - 1).toNat * 2 ^ f.fb

/-- The code of the largest finite value. -/
def Fmt.maxCode (f : Fmt) (neg : Bool) : Nat := f.signBit neg + f.finCode f.maxM f.maxE

/-- A code with its flags. -/
structure FR where
  v : Nat
  fl : Nat
  deriving DecidableEq, Repr

/-- The result of an overflow (R221). -/
def Fmt.overflow (f : Fmt) (mode rm : Nat) (neg : Bool) : FR :=
  match f.kind with
  | 0 =>
    let toMax := rm == 1 || (rm == 2 && neg) || (rm == 3 && !neg)
    ⟨if toMax then f.maxCode neg else f.infCode neg, flOF + flIX⟩
  | 3 => ⟨f.maxCode neg, flOF + flIX + flSATD⟩
  | k =>
    if satf mode then ⟨f.maxCode neg, flOF + flIX + flSATD⟩
    else ⟨if k = 1 then f.signBit neg + 0x7F else f.infCode neg, flOF + flIX⟩

/-- An infinite input to a format (R221). -/
def Fmt.infinity (f : Fmt) (mode : Nat) (neg : Bool) : FR :=
  match f.kind with
  | 1 => if satf mode then ⟨f.maxCode neg, flSATD⟩ else ⟨f.signBit neg + 0x7F, flIV⟩
  | 3 => ⟨f.maxCode neg, flSATD⟩
  | _ => ⟨f.infCode neg, 0⟩

/-- A NaN result of a format (R220, R222): `iv` says that IV is set. -/
def Fmt.nanRes (f : Fmt) (iv : Bool) : FR := ⟨f.qnan, if iv || f.kind == 3 then flIV else 0⟩

/-- floor(log2(n / d)) for nonzero n and d. -/
def flog2 (n d : Nat) : Int :=
  let k := (bitLen n : Int) - bitLen d
  let ge := if 0 ≤ k then d * 2 ^ k.toNat ≤ n else d ≤ n * 2 ^ (-k).toNat
  if ge then k else k - 1

/-- Quotient and remainder of (n / d) × 2^e by 2^q, with the divisor. -/
def scaled (n d : Nat) (e q : Int) : Nat × Nat × Nat :=
  let s := e - q
  let n' := if 0 ≤ s then n * 2 ^ s.toNat else n
  let d' := if 0 ≤ s then d else d * 2 ^ (-s).toNat
  (n' / d', n' % d', d')

/-- Whether a magnitude is rounded up (R215, R216): `m` the kept integer, `r / d` the part below it. -/
def roundsUp (rm : Nat) (draw : Nat) (neg : Bool) (m r d : Nat) : Bool :=
  match rm with
  | 1 => false
  | 2 => !neg && r != 0
  | 3 => neg && r != 0
  | 4 => 2 ^ 16 ≤ r * 2 ^ 16 / d + draw
  | _ => d < 2 * r || (2 * r == d && m % 2 == 1)

/-- Whether m × 2^q exceeds the largest finite value of a format. -/
def Fmt.beyond (f : Fmt) (m : Nat) (q : Int) : Bool :=
  if f.maxE ≤ q then f.maxM < m * 2 ^ (q - f.maxE).toNat else f.maxM * 2 ^ (f.maxE - q).toNat < m

/-- The one rounding (R215, R219, R221): (−1)^neg × (n / d) × 2^e, nonzero, to a format. -/
def Fmt.roundTo (f : Fmt) (mode rm draw : Nat) (neg : Bool) (n d : Nat) (e : Int) : FR :=
  if n = 0 then ⟨if f.kind = 3 then 0 else f.signBit neg, 0⟩
  else
    let emin : Int := 1 - f.bias
    let q := max (flog2 n d + e) emin - f.fb
    let (m0, r, d') := scaled n d e q
    let m := if roundsUp rm draw neg m0 r d' then m0 + 1 else m0
    if f.beyond m q then f.overflow mode rm neg
    else
      let ix := r != 0
      let sub := m < 2 ^ f.fb
      if f.kind = 3 then
        if m = 0 then ⟨0, flIX + flUF⟩ else ⟨f.signBit neg + f.finCode m q, if ix then flIX else 0⟩
      else if foz mode f.cls && sub && m != 0 then ⟨f.signBit neg, flUF + flIX⟩
      else ⟨f.signBit neg + f.finCode m q, if ix then (if sub then flIX + flUF else flIX) else 0⟩

/-- Rounding of a signed exact dyadic v × 2^e; an exact zero has the sign given. -/
def Fmt.roundInt (f : Fmt) (mode rm draw : Nat) (zneg : Bool) (v : Int) (e : Int) : FR :=
  if v = 0 then ⟨if f.kind = 3 then 0 else f.signBit zneg, 0⟩
  else f.roundTo mode rm draw (decide (v < 0)) v.natAbs 1 e

/-- A value to a format, rounded once (R287). -/
def Fmt.convert (f : Fmt) (mode rm draw : Nat) : FV → FR
  | .nan sig => f.nanRes sig
  | .inf neg => f.infinity mode neg
  | .fin neg m e => f.roundTo mode rm draw neg m 1 e

/-- Signed dyadics aligned to a common exponent. -/
def signed (neg : Bool) (m : Nat) : Int := if neg then -(m : Int) else m

/-- Sum of two dyadics as a numerator and exponent. -/
def dySum (v1 e1 v2 e2 : Int) : Int × Int :=
  let e := min e1 e2
  (v1 * ((2 ^ (e1 - e).toNat : Nat) : Int) + v2 * ((2 ^ (e2 - e).toNat : Nat) : Int), e)

/-- A value with its sign flipped. -/
def FV.negate : FV → FV
  | .nan sg => .nan sg
  | .inf n => .inf (!n)
  | .fin n m e => .fin (!n) m e

/-- Whether a datum is a signalling NaN. -/
def FV.isSig : FV → Bool
  | .nan true => true
  | _ => false

/-- Whether a datum is a NaN. -/
def FV.isNan : FV → Bool
  | .nan _ => true
  | _ => false

/-- The sign of an exact zero sum (R280): of like-signed zeros their sign, else +0, −0 under RDN. -/
def zeroSign (rm : Nat) (n1 n2 : Bool) : Bool := if n1 == n2 then n1 else rm == 3

/-- a + b rounded once (R280). -/
def Fmt.add (f : Fmt) (mode rm : Nat) (a b : FV) : FR :=
  match a, b with
  | .nan s1, b => f.nanRes (s1 || b.isSig)
  | a, .nan s2 => f.nanRes (s2 || a.isSig)
  | .inf n1, .inf n2 => if n1 == n2 then ⟨f.infCode n1, 0⟩ else f.nanRes true
  | .inf n1, _ => ⟨f.infCode n1, 0⟩
  | _, .inf n2 => ⟨f.infCode n2, 0⟩
  | .fin n1 m1 e1, .fin n2 m2 e2 =>
    let (v, e) := dySum (signed n1 m1) e1 (signed n2 m2) e2
    f.roundInt mode rm 0 (zeroSign rm n1 n2) v e

/-- a × b rounded once (R280). -/
def Fmt.mul (f : Fmt) (mode rm : Nat) (a b : FV) : FR :=
  match a, b with
  | .nan s1, b => f.nanRes (s1 || b.isSig)
  | a, .nan s2 => f.nanRes (s2 || a.isSig)
  | .inf n1, .inf n2 => ⟨f.infCode (n1 != n2), 0⟩
  | .inf n1, .fin n2 m2 _ => if m2 = 0 then f.nanRes true else ⟨f.infCode (n1 != n2), 0⟩
  | .fin n1 m1 _, .inf n2 => if m1 = 0 then f.nanRes true else ⟨f.infCode (n1 != n2), 0⟩
  | .fin n1 m1 e1, .fin n2 m2 e2 => f.roundTo mode rm 0 (n1 != n2) (m1 * m2) 1 (e1 + e2)

/-- An exact product: none for 0 × ∞. -/
def mulExact : FV → FV → Option FV
  | .nan s1, b => some (.nan (s1 || b.isSig))
  | a, .nan s2 => some (.nan (s2 || a.isSig))
  | .inf n1, .inf n2 => some (.inf (n1 != n2))
  | .inf n1, .fin n2 m2 _ => if m2 = 0 then none else some (.inf (n1 != n2))
  | .fin n1 m1 _, .inf n2 => if m1 = 0 then none else some (.inf (n1 != n2))
  | .fin n1 m1 e1, .fin n2 m2 e2 => some (.fin (n1 != n2) (m1 * m2) (e1 + e2))

/-- a × b + c rounded once (R280); 0 × ∞ is invalid even when c is a quiet NaN. -/
def Fmt.fma (f : Fmt) (mode rm : Nat) (a b c : FV) : FR :=
  match mulExact a b with
  | none => f.nanRes true
  | some p => f.add mode rm p c

/-- a ÷ b rounded once (R225, R297): `draw` for stochastic rounding. -/
def Fmt.div (f : Fmt) (mode rm draw : Nat) (a b : FV) : FR :=
  match a, b with
  | .nan s1, b => f.nanRes (s1 || b.isSig)
  | a, .nan s2 => f.nanRes (s2 || a.isSig)
  | .inf _, .inf _ => f.nanRes true
  | .inf n1, .fin n2 _ _ => f.infinity mode (n1 != n2)
  | .fin n1 _ _, .inf n2 => ⟨if f.kind = 3 then 0 else f.signBit (n1 != n2), 0⟩
  | .fin n1 m1 e1, .fin n2 m2 e2 =>
    if m2 = 0 then
      if m1 = 0 then f.nanRes true
      else
        let r := f.infinity mode (n1 != n2)
        ⟨r.v, r.fl ||| flDZ⟩
    else f.roundTo mode rm draw (n1 != n2) m1 m2 (e1 - e2)

/-- Integer square root by bisection on bits. -/
def isqrtGo (n : Nat) : Nat → Nat → Nat
  | 0, r => r
  | k + 1, r =>
    let t := r + 2 ^ k
    isqrtGo n k (if t * t ≤ n then t else r)

/-- floor(√n). -/
def isqrt (n : Nat) : Nat := isqrtGo n (bitLen n / 2 + 1) 0

/-- √a rounded once (R297). -/
def Fmt.sqrt (f : Fmt) (mode rm : Nat) (a : FV) : FR :=
  match a with
  | .nan s => f.nanRes s
  | .inf neg => if neg then f.nanRes true else ⟨f.infCode false, 0⟩
  | .fin neg m e =>
    if m = 0 then ⟨f.signBit neg, 0⟩
    else if neg then f.nanRes true
    else
      -- an even exponent and 140 further bits; the remainder becomes a sticky bit below them
      let odd := e % 2 != 0
      let m := if odd then 2 * m else m
      let e := if odd then e - 1 else e
      let n := m * 2 ^ 280
      let r := isqrt n
      f.roundTo mode rm 0 false (2 * r + b2n (r * r != n)) 1 (e / 2 - 141)

/-- The order of two codes that are no NaN: −0 below +0 (R281). -/
def Fmt.key (f : Fmt) (n : Nat) : Int :=
  let m := n % 2 ^ (f.fb + f.eb)
  if bitOf n (f.fb + f.eb) then -(m : Int) - 1 else m

/-- fmin and fmax (R281): the operand itself after input flushing, or the canonical NaN. -/
def Fmt.pick (f : Fmt) (mode : Nat) (greater : Bool) (a b : Nat) : FR :=
  let a := f.flushIn mode a
  let b := f.flushIn mode b
  let va := f.decodeRaw 0 a
  let vb := f.decodeRaw 0 b
  let iv := if va.isSig || vb.isSig then flIV else 0
  if va.isNan then ⟨if vb.isNan then f.qnan else b, iv⟩
  else if vb.isNan then ⟨a, iv⟩
  else
    let less := f.key b < f.key a
    ⟨if less != greater then b else a, 0⟩

/-- Output flushing of a code (R219): a subnormal result is written as zero of its sign, with UF and IX. -/
def Fmt.flushOut (f : Fmt) (mode : Nat) (r : FR) : FR :=
  if foz mode f.cls && f.subnormal r.v then ⟨r.v / 2 ^ (f.fb + f.eb) * 2 ^ (f.fb + f.eb), r.fl ||| (flUF + flIX)⟩ else r

/-- The order of values that are no NaN, the two zeros equal (R283). -/
def Fmt.ordKey (f : Fmt) (v : FV) (n : Nat) : Int :=
  match v with
  | .fin _ 0 _ => 0
  | _ => if bitOf n (f.fb + f.eb) then -((n % 2 ^ (f.fb + f.eb) : Nat) : Int) else ((n % 2 ^ (f.fb + f.eb) : Nat) : Int)

/-- Comparison codes of fcmp (R283) on two source codes. -/
def Fmt.compare (f : Fmt) (mode cc a b : Nat) : Bool × Nat :=
  let va := f.read mode a
  let vb := f.read mode b
  let un := va.isNan || vb.isNan
  let iv := va.isSig || vb.isSig || (un && 2 ≤ cc && cc ≤ 5)
  let ka := f.ordKey va a
  let kb := f.ordKey vb b
  let r := match cc with
    | 0 => !un && ka == kb
    | 1 => un || ka != kb
    | 2 => !un && ka < kb
    | 3 => !un && ka ≤ kb
    | 4 => !un && kb < ka
    | 5 => !un && kb ≤ ka
    | 6 => un
    | _ => !un
  (r, if iv then flIV else 0)

/-- A value rounded to an integer under a mode: the integer and whether it is exact. -/
def roundIntegral (rm : Nat) (neg : Bool) (m : Nat) (e : Int) : Int × Bool :=
  let (k, r, d) := scaled m 1 e 0
  let k := if roundsUp (if rm = 4 then 0 else rm) 0 neg k r d then k + 1 else k
  (signed neg k, r == 0)

/-- frnd (R289): to an integral value of the same format; unchanged values keep their code. -/
def Fmt.integral (f : Fmt) (mode rm n : Nat) : FR :=
  let n := f.flushIn mode n
  match f.decodeRaw 0 n with
  | .nan s => f.nanRes s
  | .inf _ => ⟨n, 0⟩
  | .fin neg m e =>
    if m = 0 ∨ 0 ≤ e then ⟨n, 0⟩
    else
      let (k, exact) := roundIntegral rm neg m e
      if exact then ⟨n, 0⟩
      else ⟨(f.roundInt 0 0 0 neg k 0).v, flIX⟩

/-- Floating point to an integer type (R222, R288): the bound on overflow, 0 for a NaN. -/
def toInteger (rm : Nat) (lo hi : Int) : FV → Int × Nat
  | .nan _ => (0, flIV)
  | .inf neg => (if neg then lo else hi, flIV)
  | .fin neg m e =>
    let (k, exact) := roundIntegral rm neg m e
    if k < lo then (lo, flIV) else if hi < k then (hi, flIV) else (k, if exact then 0 else flIX)

/-- The class bits of fclass (R284). -/
def Fmt.classMask (f : Fmt) (n : Nat) : Nat :=
  let neg := bitOf n (f.fb + f.eb)
  match f.decodeRaw 0 n with
  | .nan true => 1
  | .nan false => 2
  | .inf _ => if neg then 4 else 2 ^ 9
  | .fin _ 0 _ => if neg then 2 ^ 5 else 2 ^ 6
  | .fin _ _ _ => if f.subnormal n then (if neg then 2 ^ 4 else 2 ^ 7) else (if neg then 2 ^ 3 else 2 ^ 8)

/-- A step of SEED (R216). -/
def stepSeed (x : Nat) : Nat :=
  let x := if x = 0 then 0x6D2B79F5 else x
  let x := x ^^^ (x * 2 ^ 13 % 2 ^ 32)
  let x := x ^^^ (x / 2 ^ 17)
  x ^^^ (x * 2 ^ 5 % 2 ^ 32)

/-- qscale (R224, R291): the E8M0 scale of an amax for a largest-normal exponent. -/
def qscale (mode : Nat) (emax : Int) (a : Nat) : FR :=
  match (fmtOf 0).read mode a with
  | .nan _ => ⟨0xFF, flIV⟩
  | .inf _ => ⟨0xFF, flIV⟩
  | .fin _ m e =>
    if m = 0 then ⟨0, 0⟩
    else
      let c := flog2 m 1 + e - emax + 127
      if c < 0 then ⟨0, flSC⟩ else if 254 < c then ⟨0xFE, flSC⟩ else ⟨c.toNat, 0⟩

end Sys2Proof.Machine
end

