-- ==== Sys2Proof/Machine/Operands.lean ====
section
/-! DEFINITION. Operand values of lane instructions and the writing of their results (11:R258-R261, 09:R208,
12:R277): reading a typed source, placing a result, and the common ends of lane effects. -/

namespace Sys2Proof.Machine

/-- Registers of a TY value. -/
def tyRegs (t : Nat) : Nat := if t = 6 ∨ t = 7 then 2 else 1

/-- First source of `n` registers in lane `l`. -/
def Ctxt.a (c : Ctxt) (n l : Nat) : Nat := c.g.src c.q.scalar c.f.perm0 c.f.vs0 l n
/-- Second source. -/
def Ctxt.b (c : Ctxt) (n l : Nat) : Nat := c.g.src c.q.scalar c.f.perm1 c.f.vs1 l n
/-- Third source, named by AUX bits 10:4, at identity (R242). -/
def Ctxt.c3 (c : Ctxt) (n l : Nat) : Nat := (c.g.thread l).regsN (auxBits c.f 4 7) n
/-- The old value of the destination. -/
def Ctxt.d (c : Ctxt) (n l : Nat) : Nat := (c.g.thread l).regsN c.f.vd.toNat n

/-- The integer a TY source stands for (R259): the low w bits, by signedness. -/
def tyVal (t n : Nat) : Int := if tySigned t then sgn (tyWidth t) n else ((n % 2 ^ tyWidth t : Nat) : Int)

/-- The register contents of a w-bit result (R208, R259): extended to 32 bits by signedness below 32 bits. -/
def tyPlace (t : Nat) (v : Int) : Nat :=
  let w := tyWidth t
  if w < 32 then (if tySigned t then code 32 (sgn w (code w v)) else code w v) else code w v

/-- The least value of a type. -/
def tyMin (t : Nat) : Int := if tySigned t then -((2 ^ (tyWidth t - 1) : Nat) : Int) else 0
/-- The greatest value of a type. -/
def tyMax (t : Nat) : Int :=
  if tySigned t then ((2 ^ (tyWidth t - 1) : Nat) : Int) - 1 else ((2 ^ tyWidth t : Nat) : Int) - 1

/-- An integer clamped to a range. -/
def clampInt (lo hi v : Int) : Int := if v < lo then lo else if hi < v then hi else v

/-- An exact value wrapped or saturated to a type (R259). -/
def tyFit (t : Nat) (sat : Bool) (v : Int) : Nat :=
  tyPlace t (if sat then clampInt (tyMin t) (tyMax t) v else v)

/-- Each active lane writes `n` registers from `r` on. -/
def writeRegs (s : State) (c : Ctxt) (r n : Nat) (res : Nat → Nat) : State :=
  s.updIss c.q (·.updLanes c.act fun l t => t.setRegs r n (res l))

/-- Each active lane writes a predicate. -/
def writePred (s : State) (c : Ctxt) (p : Nat) (res : Nat → Bool) : State :=
  s.updIss c.q (·.updLanes c.act fun l t => t.setPred p (res l))

/-- A per-lane toll: `k` units of event `e` for each active lane (R243). -/
def chargeLanes (s : State) (c : Ctxt) (e k : Nat) : State :=
  s.charge (partOf c.q.cl) c.g.ctx e (k * c.act.length)

/-- An integer effect that writes `n` registers of VD in each active lane at `k` integer tolls a lane (R260). -/
def intEff (c : Ctxt) (s : State) (n k : Nat) (res : Nat → Nat) : Eff :=
  .go (writeRegs (chargeLanes s c 1 k) c c.f.vd.toNat n res) []

/-- The toll factor of an instruction other than a multiply or divide (R260). -/
def tyToll (t : Nat) : Nat := if t = 6 ∨ t = 7 then 2 else 1

/-- The lowest active lane; 0 when there is none. -/
def Ctxt.low (c : Ctxt) : Nat := c.act.headD 0

end Sys2Proof.Machine
end

