-- ==== Sys2Proof/Machine/Access.lean ====
section
/-! DEFINITION. What a memory instruction asks for (14:R311-R335), its operations while they are outstanding (06:R137,
02:R53-R55), and the atomic operations (14:R327-R330, 05:R113). -/

namespace Sys2Proof.Machine

/-! ## The access of an instruction -/

/-- Kinds of global access. -/
inductive AccKind where
  | load | view | pf | store | flag | csg | atom | cas | atomf | wb | inv
  deriving DecidableEq, Repr

/-- The access of a memory instruction: its kind, space (0 global, 1 scratchpad, 2 constant), bytes per lane, sign extension,
destination registers, ordering and scope, operation, width flag, signedness, whether it returns a value, and its slot or
swizzle code. -/
structure Acc where
  kind : AccKind
  sp : Nat := 0
  bytes : Nat := 4
  sext : Bool := false
  regs : Nat := 0
  ord : Nat := 0
  sc : Nat := 0
  op : Nat := 0
  wide : Bool := false
  sg : Bool := false
  slot : Nat := 0
  row : Bool := false
  deriving DecidableEq, Repr

/-- Registers of SZ (R312). -/
def szRegs (sz : Nat) : Nat := if sz = 1 then 2 else if sz = 2 then 4 else 1

/-- The access of a load or store (R311-R313). -/
def memAcc (f : Fields) (kind : AccKind) (row : Bool) : Acc :=
  let sz := szOf f
  let g := spOf f = 0
  { kind, sp := spOf f, bytes := szBytes sz, sext := sz == 4 || sz == 6
    regs := if kind = .load then szRegs sz else 0, ord := if spOf f = 2 then 0 else auxBits f 4 2
    sc := if g then auxBits f 1 3 else if spOf f = 1 ∧ auxBit f 0 then 1 else 2
    slot := if g then 0 else auxBits f 1 3, row }

/-- The access of an atomic (R326). -/
def atomAcc (f : Fields) (kind : AccKind) (ret : Bool) : Acc :=
  let wide := auxBit f 7 && kind != .atomf
  { kind, sp := b2n (auxBit f 5), bytes := if wide then 8 else 4
    regs := if ret then (if wide then 2 else 1) else 0, ord := auxBits f 3 2, sc := auxBits f 0 3
    op := auxBits f 8 3, wide, sg := auxBit f 6 }

/-- The access of an instruction. -/
def accOf : Instr → Option Acc
  | .ld f => some (memAcc f .load false)
  | .ldv f => some (memAcc f .load true)
  | .ldview f => some { kind := .view, bytes := szBytes (szOf f), sext := szOf f == 4 || szOf f == 6
                        regs := szRegs (szOf f), slot := auxBits f 4 1 }
  | .pf f => some { kind := .pf, bytes := 128, slot := b2n (auxBit f 0) }
  | .st f => some (memAcc f .store false)
  | .stv f => some (memAcc f .store true)
  | .stflag f => some { kind := .flag, bytes := szBytes (szOf f) }
  | .stcsg f => some { kind := .csg, bytes := szBytes (szOf f), slot := auxBits f 4 2 }
  | .atom f => some (atomAcc f .atom true)
  | .cas f => some (atomAcc f .cas true)
  | .atomr f => some (atomAcc f .atom false)
  | .atomf f => some (atomAcc f .atomf (auxBit f 7))
  | .wb f => some { kind := .wb, bytes := 128, slot := b2n (auxBit f 1) }
  | .inv _ => some { kind := .inv, bytes := 128 }
  | _ => none

/-- The access type a kind is translated as (R33, R334, R335). -/
def AccKind.atype : AccKind → Nat
  | .load | .view | .pf | .inv => atRead
  | .store | .flag | .wb => atWrite
  | .csg => atCsg
  | .atom | .cas | .atomf => atAtomic

/-- An acquire (R130): ORD 1 or 3. -/
def Acc.isAcq (a : Acc) : Bool := a.ord == 1 || a.ord == 3
/-- A release (R129): ORD 2 or 3. -/
def Acc.isRel (a : Acc) : Bool := a.ord == 2 || a.ord == 3
/-- Scopes of device extent and wider: device, tenant, system, promoting device (R123, R313). -/
def wideScope (sc : Nat) : Bool := sc == 0 || 3 ≤ sc
/-- An acquire whose loads read the home slice (R130). -/
def Acc.homeAcq (a : Acc) : Bool := a.isAcq && wideScope a.sc

/-! ## Atomic operations -/

/-- op(old, v) at width `w` (R327). -/
def atomOp (op w : Nat) (sg : Bool) (old v : Nat) : Nat :=
  let less := if sg then decide (sgn w v < sgn w old) else v % 2 ^ w < old % 2 ^ w
  match op with
  | 0 => (old + v) % 2 ^ w
  | 1 => old &&& v
  | 2 => old ||| v
  | 3 => old ^^^ v
  | 4 => if less then v else old
  | 5 => if less then old else v
  | _ => v

/-- The floating-point atomic (R330): the new element and its flags under FPMODE. -/
def atomfOp (op mode old v : Nat) : FR :=
  let f32 := fmtOf 0
  let half := fun (f : Fmt) (i : Nat) => f.add mode 0 (f.read mode (bitsOf old (16 * i) 16)) (f.read mode (bitsOf v (16 * i) 16))
  let two := fun f : Fmt => let a := half f 0; let b := half f 1; (⟨a.v + 2 ^ 16 * b.v, a.fl ||| b.fl⟩ : FR)
  match op with
  | 0 => f32.add mode 0 (f32.read mode old) (f32.read mode v)
  | 1 => f32.flushOut mode (f32.pick mode false old v)
  | 2 => f32.flushOut mode (f32.pick mode true old v)
  | 3 => two (fmtOf 2)
  | _ => two (fmtOf 3)

/-- The value a lane writes over `old`, and its flags. -/
def Acc.modify (a : Acc) (mode old : Nat) (l : LaneAcc) : FR :=
  match a.kind with
  | .cas => ⟨if old = l.cmp then l.data else old, 0⟩
  | .atomf => atomfOp a.op mode old l.data
  | _ => ⟨atomOp a.op (8 * a.bytes) a.sg old l.data, 0⟩

/-- The identity of an aggregated operation (R113). -/
def atomIdentity (op w : Nat) (sg : Bool) : Nat :=
  match op with
  | 1 => 2 ^ w - 1
  | 4 => if sg then 2 ^ (w - 1) - 1 else 2 ^ w - 1
  | 5 => if sg then 2 ^ (w - 1) else 0
  | _ => 0

/-- The register contents of a loaded value (R312). -/
def Acc.extend (a : Acc) (v : Nat) : Nat := if a.sext then code 32 (sgn (8 * a.bytes) v) else v

/-! ## Operations -/

/-- The state with one operation of a gang changed. -/
def State.updOp (s : State) (cl slot id : Nat) (f : Op → Op) : State :=
  s.updGang cl slot fun g => { g with ops := g.ops.map fun o => if o.id == id then f o else o }

/-- An operation of a gang. -/
def Gang.op? (g : Gang) (id : Nat) : Option Op := g.ops.find? (·.id == id)

/-- The counters in the order of their codes (R233) and of the gang-state words. -/
def ctrList : List Ctr := [.ld, .st, .cp, .mx, .ch, .rm]

/-- The count of a class (R137): its operations still listed. -/
def Gang.count (g : Gang) (c : Ctr) : Nat :=
  let n := g.ops.countP (·.ctrs.contains c)
  match g.ctrOff[ctrList.idxOf c]? with
  | some d => ((n : Int) + d).toNat
  | none => n

/-- A complete operation leaves each of its classes once every older operation of that class has left it, and the list with the
last (R55, R104). -/
def retireOps : List Op → List Op → List Op
  | kept, [] => kept
  | kept, o :: os =>
    if o.complete then
      let cs := o.ctrs.filter fun c => kept.any fun k => k.ctrs.contains c
      if cs = [] then retireOps kept os else retireOps (kept ++ [{ o with ctrs := cs }]) os
    else retireOps (kept ++ [o]) os

/-- The gang after completed operations have left. -/
def Gang.retire (g : Gang) : Gang := { g with ops := retireOps [] g.ops }

/-- A row among those named is busy by a command of the gang in a slot (R82). -/
def Cluster.rowsBusy (k : Cluster) (slot first n : Nat) : Bool :=
  k.busy.any fun b => b.slot == slot && first ≤ b.row && b.row < first + n

/-- Every host-window store of a gang, its engines' among them, has been followed by a flushing read (R148). -/
def Gang.flushed (g : Gang) : Bool := g.engWrote.isNone && g.threads.all (·.hostWrote.isNone)

/-- A lane of an operation changed. -/
def Op.setLane (o : Op) (l : Nat) (st : LaneSt) : Op :=
  { o with lanes := o.lanes.map fun a => if a.lane == l then { a with st } else a }

/-- A lane bound through a translation (R59). -/
def Op.bindLane (o : Op) (l : Nat) (x : Xlat) : Op :=
  { o with lanes := o.lanes.map fun a => if a.lane == l then { a with st := .ready x.far x.pa x.mt x.cg, via := some x.via } else a }

/-- Settle a lane's destination (R195, R316). -/
def Thread.settle (t : Thread) (id : Nat) : Thread :=
  { t with unsettled := t.unsettled.filter (·.2 != id), unsettledP := t.unsettledP.filter (·.2 != id) }

/-- The destination register of an instruction. -/
def destOf (i : Instr) : Nat := match fieldsOf i with | some f => f.vd.toNat | none => 0

/-- How a lane's access ended at one point. -/
inductive LaneEnd where
  /-- Bound or performed, with the value for the destination. -/
  | value (v : Nat)
  /-- Performed. -/
  | ok
  /-- Delivered as an access trap of a subtype at the launch site. -/
  | trap (sub : Nat)
  /-- Delivered as a release write-back trap of subtype line-pending, with the line address written back (R520). -/
  | wbTrap (va : Nat)
  /-- A page request is live for it, or for the write-back of a line address that it forced. -/
  | req (r : Option (Nat × Nat)) (wb : Option Nat)
  | park
  | stay
  /-- Sent to a fabric home. -/
  | sent (tag : Nat)
  deriving DecidableEq, Repr

/-- A lane's end applied to its operation and thread. -/
def endLane (a : Acc) (o : Op) (g : Gang) (l : Nat) (e : LaneEnd) : Gang :=
  let set := fun (g : Gang) st => { g with ops := g.ops.map fun p => if p.id == o.id then p.setLane l st else p }
  let done := fun g : Gang => (set g .done).updThread l (·.settle o.id)
  match e with
  | .value v => (done g).updThread l fun t => if a.regs = 0 then t else t.setRegs (destOf o.instr) a.regs (a.extend v)
  | .ok | .trap _ | .wbTrap _ => done g
  | .req (some (f, q)) wb => set g (.faulted f q wb)
  | .req none _ => set g .stalled
  | .park => set g .parked
  | .stay => g
  | .sent t => set g (.remote t)

/-- The record of an asynchronous trap (R453, R455): it names the launch site; its PC is the boundary the gang reached. -/
def asyncRec (g : Gang) (o : Op) (r : TrapRec) (lanes : List Nat) : TrapRec :=
  { r with async := true, iaddr := o.iaddr, cmdseq := o.cmdseq, pc := g.pcOf g.liveLanes, lanemask := maskOf lanes
           actmask := o.act }

/-- The record of a lane access's trap (R452, R453): the PC is the instruction. -/
def laneRec (o : Op) (r : TrapRec) (lanes : List Nat) : TrapRec :=
  { r with iaddr := o.iaddr, pc := o.iaddr, lanemask := maskOf lanes, actmask := o.act }

/-- Report a trap of an operation by a record made for its gang; when the gang has ended the record says so and nothing
stops (R454). -/
def State.opTrap (s : State) (cl slot : Nat) (r : Gang → TrapRec) : State :=
  match s.gang? cl slot with
  | none => s
  | some g =>
    if g.liveLanes = [] then
      let (st, s) := s.take
      let r := { r g with
        gang := slot % 128, cluster := cl, ctxid := g.ctx % 4096, vf := if fnOf g.ctx = 128 then 0 else fnOf g.ctx
        pfn := fnOf g.ctx == 128, stamp := st, gone := true, pc := 0 }
      (s.updCluster cl (·.report r)).traceTrap cl g.ctx (slot % 128 / 16) r
    else trapGang s cl slot (r g)

/-- An asynchronous trap of an operation (R455). -/
def State.asyncTrap (s : State) (cl slot : Nat) (o : Op) (r : TrapRec) (lanes : List Nat) : State :=
  s.opTrap cl slot fun g => asyncRec g o r lanes

/-- A trap of lanes of an operation that no engine or agent reports. -/
def State.laneTrap (s : State) (cl slot : Nat) (o : Op) (r : TrapRec) (lanes : List Nat) : State :=
  s.opTrap cl slot fun _ => laneRec o r lanes

/-- Subtypes of an access fault that the remote or consignment agent reports (R453, R455). -/
def agentSub (k : Nat) : Bool := 4 ≤ k && k ≤ 9

/-- The effective address of the lowest of some lanes. -/
def Op.lowVa (o : Op) (ls : List Nat) : Nat := ((o.lanes.find? fun a => ls.contains a.lane).map (·.va)).getD 0

/-- Causes of lanes in LCAUSE form (R453). -/
def laneCauses (ls : List Nat) (cause : Nat) : Nat := ls.foldl (fun a l => a + cause * 2 ^ (4 * l)) 0

/-- Apply the ends of an operation's lanes: an acquire of device scope or wider that binds a lane drops the L1's clean lines before
any later access of the thread (R130); then report one trap for each cause among them. -/
def State.endLanes (s : State) (cl slot : Nat) (a : Acc) (o : Op) (es : List (Nat × LaneEnd)) : State :=
  let s := s.updGang cl slot fun g => es.foldl (fun g e => endLane a o g e.1 e.2) g
  let bound := es.any fun e => match e.2 with | .value _ | .ok => true | _ => false
  let s := if bound && a.homeAcq && a.sp == 0 then s.acquireDrop cl else s
  let subs := (es.filterMap fun e => match e.2 with | .trap k => some k | _ => none).eraseDups
  let s := subs.foldl (fun s k =>
    let ls := es.filterMap fun e => if e.2 = .trap k then some e.1 else none
    let r : TrapRec := { cls := clsAccess, subtype := k, faddr := BitVec.ofNat 64 (o.lowVa ls)
                         lcause := if k = 3 then laneCauses ls 4 else 0 }
    if agentSub k then s.asyncTrap cl slot o r ls else s.laneTrap cl slot o r ls) s
  match es.filterMap fun e => match e.2 with | .wbTrap va => some (e.1, va) | _ => none with
  | [] => s
  | l :: ls => s.laneTrap cl slot o { cls := clsReleaseWb, subtype := 10, eng := 6, faddr := BitVec.ofNat 64 l.2 } ((l :: ls).map (·.1))

/-- The first lane of a floating-point atomic that completes with an enabled flag raises its operation's arithmetic exception
(R223). -/
def State.flagTrap (s : State) (cl slot : Nat) (o : Op) (fls : List (Nat × Nat)) : State :=
  if ((s.gang? cl slot).bind fun g => g.op? o.id).any (·.flagged) then s
  else
    match fls.find? fun f => f.2 &&& bitsOf o.fpmode.toNat 19 5 != 0 with
    | none => s
    | some f => (s.updOp cl slot o.id fun o => { o with flagged := true }).asyncTrap cl slot o { cls := clsArith, arg := f.2 } [f.1]

/-- An operation all of whose lanes have ended is complete. -/
def State.closeOp (s : State) (cl slot id : Nat) : State :=
  match s.gang? cl slot with
  | none => s
  | some g =>
    match g.op? id with
    | none => s
    | some o =>
      if o.complete ∨ o.lanes = [] ∨ !(o.lanes.all fun l => l.st == .done) then s
      else (s.updOp cl slot id fun o => { o with complete := true }).updGang cl slot (·.retire)

/-- Lanes of a gang's earlier operations that touch bytes of a lane's access and are not yet performed (R127). -/
def Gang.blocked (g : Gang) (o : Op) (a : Acc) (l : LaneAcc) : Bool :=
  g.ops.any fun p => decide (p.id < o.id) && match accOf p.instr with
    | some b => p.lanes.any fun m => m.lane == l.lane && m.st != .done && decide (m.va < l.va + a.bytes ∧ l.va < m.va + b.bytes)
    | none => false

end Sys2Proof.Machine
end

