-- ==== Sys2Proof/Machine/Windows.lean ====
section
/-! DEFINITION. What the register windows show that more than one part of the model reads: descriptors (22:R487, R488), meter blocks
(19:R428, R429) and the debug window (20:R457). -/

namespace Sys2Proof.Machine

/-! ## Descriptors, queues, partitions, sessions -/

/-- Context table in use. -/
def Func.tblOn (u : Func) : Bool := bitOf u.ctxTbl.toNat 0

/-- The address of a context's descriptor. -/
def State.descAt (s : State) (x : Nat) : Nat :=
  bitsOf (s.func (fnOf x)).ctxTbl.toNat 16 36 * 2 ^ 16 + x % 4096 * 256

/-- Word `w` of a context's descriptor. -/
def State.desc (s : State) (x w : Nat) : Nat :=
  if (s.func (fnOf x)).tblOn then s.readNum (s.descAt x + 8 * w) 8 else 0

/-- The sixteen words of a trap record (R453). -/
def TrapRec.words (r : TrapRec) : List Nat :=
  [ r.cls * 2 ^ 58 + r.subtype * 2 ^ 50 + r.stage * 2 ^ 49 + r.level * 2 ^ 47 + r.eng * 2 ^ 44 + b2n r.async * 2 ^ 43 +
      b2n r.gone * 2 ^ 42 + r.gang % 64 * 2 ^ 36 + r.cluster * 2 ^ 28 + r.ctxid * 2 ^ 16 + r.vf * 2 ^ 9 + b2n r.pfn * 2 ^ 8 +
      r.arg % 256,
    r.pc.toNat, r.iaddr.toNat, r.cmdseq % 2 ^ 24 * 2 ^ 40 + r.seq % 2 ^ 32, r.faddr.toNat,
    r.lanemask * 2 ^ 32 + r.actmask, r.stamp.toNat, r.jfl, r.lcause % 2 ^ 64, r.lcause / 2 ^ 64, 0, 0, 0, 0, 0, 0 ]

/-- Queue `q` of a function. -/
def Func.queue (u : Func) (q : Nat) : Queue := u.queues.getD q Queue.reset

/-- The function that holds a partition (R411): that of any block on it. -/
def State.holder (s : State) (p : Nat) : Option Nat :=
  ((List.range 4).findSome? fun i => (s.cluster (4 * p + i)).blocks.head?).map fun b => fnOf b.2.ctx

/-- Resource `r` of a partition: banks 0 to 3, the trace unit 4, the causal unit 5. -/
def Part.resource (pt : Part) (r : Nat) : Session := pt.prof.getD r Session.reset

/-- The profiling blocks a function reaches (R471). -/
def State.reaches (s : State) (f p : Nat) : Bool := f == 128 || bitOf (s.func f).parts p

/-- A counter's selection names an event the Z40 lacks (R474). -/
def SessData.unknown (d : SessData) (j : Nat) : Bool :=
  match d.eventOf j with | some c => !knownEvents.contains c | none => false

/-- What word `w` of a Free descriptor reads before software writes it (R487). -/
def descReset (w : Nat) : Nat := if w = 1 then 1 else 0

/-- The context that CTX_SEL names (R488). -/
def State.selected (s : State) (f : Nat) : Nat := f * 4096 + (s.func f).ctxSel % 4096

/-- Word `w` as staged for a Free context (R488). -/
def State.stagedWord (s : State) (x w : Nat) : Nat :=
  (FMap.getD (s.func (fnOf x)).staged (x % 4096 * 32 + w) (BitVec.ofNat 64 (descReset w))).toNat

/-- What the descriptor window shows (R488). -/
def State.descShown (s : State) (x w : Nat) : Nat := if (s.ctx x).st = 0 then s.stagedWord x w else s.desc x w

/-! ## Meter blocks (R428, R429) -/

/-- The meter a block shows to window `win` (R428): the context block shows the context of METER_SEL, and zero when that names
none. -/
def State.meterOf (s : State) (win : Nat) : MeterName → Meter
  | .context =>
    match s.ctxs.find? (win * 4096 + (s.func win).meterSel % 4096) with
    | some c => if c.st = 0 then .zero else c.meter
    | none => .zero
  | .function f => (s.func f).shown
  | .partition p => (s.part p).meter
  | .package => s.pkgMeter

/-- The shadow of a block for a window (R429). -/
def State.shadow (s : State) (win : Nat) (m : MeterName) : Shadow :=
  ((s.shadows.find? fun e => e.1 == (win, m)).map (·.2)).getD ⟨0, 0, 0, false, false⟩

/-- The state with a shadow changed. -/
def State.updShadow (s : State) (win : Nat) (m : MeterName) (f : Shadow → Shadow) : State :=
  { s with shadows := (s.shadows.filter fun e => e.1 != (win, m)) ++ [((win, m), f (s.shadow win m))] }

/-- METER_LO_READ (R429): HI and WRAPS are latched. -/
def execMeterLoRead (win : Nat) (m : MeterName) (s : State) : Out :=
  .next (if s.shut win then s else s.updShadow win m fun h =>
    { h with hi := (s.meterOf win m).pj / 2 ^ 32, wraps := (s.meterOf win m).wraps, last := 1, good := true })

/-- METER_HI_READ (R429): the shadow after a read of LO, or of STAT that followed one; otherwise the live half, and TORN. -/
def execMeterHiRead (win : Nat) (m : MeterName) (s : State) : Out :=
  .next (if s.shut win then s else s.updShadow win m fun h => { h with torn := h.torn || h.last == 0, last := 0, good := h.good && h.last != 0 })

/-- What a read of HI returns. -/
def State.meterHi (s : State) (win : Nat) (m : MeterName) : Nat :=
  if (s.shadow win m).last = 0 then (s.meterOf win m).pj / 2 ^ 32 else (s.shadow win m).hi

/-- A read of STAT returns TORN and WRAPS: the shadow that the last read of LO or of both halves latched, until a read of HI finds no
shadow; else the live count (R428, R429; log 181, DEDUCED). After a LO read the shadow of HI stays good. -/
def State.meterStat (s : State) (win : Nat) (m : MeterName) : State × Nat :=
  let h := s.shadow win m
  (s.updShadow win m fun h => { h with last := if h.last = 1 then 2 else 0 },
    b2n h.torn * 2 ^ 16 + if h.good then h.wraps else (s.meterOf win m).wraps)

/-- METER_READ_64 (R429): both halves of one instant; WRAPS is latched. -/
def execMeterRead64 (win : Nat) (m : MeterName) (s : State) : Out :=
  .next (if s.shut win then s else s.updShadow win m fun h => { h with wraps := (s.meterOf win m).wraps, last := 0, good := true })

/-! ## The debug window (R457) -/

/-- The context a record names. -/
def TrapRec.ctx (r : TrapRec) : Nat := (if r.pfn then 128 else r.vf) * 4096 + r.ctxid

/-- A record of a gang that stands in a slot. -/
def TrapRec.of (r : TrapRec) (slot : Nat) (g : Gang) : Bool := r.gang == slot && !r.gone && r.ctx == g.ctx

/-- The records of a gang: those left with it for a debugger, those the supervisor has taken, then those in the ring. -/
def Cluster.recordsOf (k : Cluster) (slot : Nat) (g : Gang) : List TrapRec :=
  g.records ++ (k.taken ++ k.ring).filter fun r => r.of slot g

/-- The window register (R81). -/
def Gang.window (g : Gang) : Nat := g.qmask * 2 ^ 44 + g.acclim * 2 ^ 32 + g.accbase

/-- The sixteen thread-state words, in the order in which R465 names their contents (log 20, DESIGN CHOICE). -/
def Thread.stateWords (t : Thread) : List Nat :=
  let lvl := fun (l : Option LoopLevel) => match l with
    | some l => [l.lc.toNat, l.le.toNat, l.ls.toNat]
    | none => [0, 0, 0]
  [t.pc.toNat, t.mr.toNat, t.scnt, t.preds.toNat / 2 * 2] ++ (List.range 4).map t.xreg ++ lvl t.loop0 ++ lvl t.loop1 ++
    [t.seed.toNat, b2n t.live]

/-- The sixty-four gang-state words, in the order in which R465 names their contents, with as much of the gang's records as they hold
(log 20, DESIGN CHOICE). -/
def Gang.stateWords (g : Gang) (records : List TrapRec) : List Nat :=
  let slot := fun (c : CsgSlot) => [c.csgid, c.st * 2 ^ 48 + c.mrec * 2 ^ 16 + c.pkgs.length * 2 ^ 10 + c.lines.length]
  let view := fun (v : ViewSlot) => [v.stamp.toNat, b2n v.isOpen + 2 * b2n v.expired]
  let ws := [g.fpmode.toNat, g.fpflags, g.jord, g.jflags] ++ ctrList.map g.count ++ [g.window] ++ (g.slots.map slot).flatten ++
    (g.views.map view).flatten ++ [g.role, g.rsb, b2n g.halt + 2 * b2n g.tstop + 4 * b2n g.estop + 8 * b2n g.pstop] ++
    records.flatMap TrapRec.words
  (ws ++ List.replicate (64 - ws.length) 0).take 64

/-- What DBG_SEL names. -/
structure DbgSel where
  slot : Nat
  thread : Nat
  space : Nat
  index : Nat
  deriving DecidableEq, Repr

/-- The fields of DBG_SEL. -/
def dbgSelOf (v : DWord) : DbgSel :=
  { slot := bitsOf v.toNat 58 6, thread := bitsOf v.toNat 53 5, space := bitsOf v.toNat 50 3, index := bitsOf v.toNat 0 17 }

/-- A cause of DBG_STAT. -/
def State.dbgCause (s : State) (c bit : Nat) : State := s.updCluster c fun k => { k with dbgStat := k.dbgStat ||| bit }

/-- The halted gang of the selection and whether INDEX lies within it. -/
def Gang.dbgRange (g : Gang) (d : DbgSel) : Bool :=
  match d.space with
  | 0 => decide (d.index < g.allot)
  | 1 => decide (d.index < 16)
  | 2 => decide (d.index < 64)
  | _ => decide (d.index / 128 < g.acclim - g.accbase)

/-- DBG_DATA read (R457): a register with its write outstanding returns its old value and sets UNSETTLED. -/
def execDbgDataRead (c : Nat) (s : State) : Out :=
  .next <|
    let k := s.cluster c
    let d := dbgSelOf k.dbgSel
    match k.gangs.find? d.slot with
    | none => s.dbgCause c 1
    | some g =>
      if !g.halt ∨ 4 ≤ d.space then s.dbgCause c 1
      else if !g.dbgRange d then s.dbgCause c 2
      else
        let t := g.thread d.thread
        let v := match d.space with
          | 0 => t.reg d.index
          | 1 => t.stateWords.getD d.index 0
          | 2 => (g.stateWords (k.recordsOf d.slot g)).getD d.index 0
          | _ => (k.acc.getD (g.accbase * 128 + d.index) 0).toNat
        let s := s.updCluster c fun k => { k with dbgData := BitVec.ofNat 64 v }
        if (d.space = 0 ∧ t.unsettled.has d.index) ∨ (d.space = 1 ∧ d.index = 3 ∧ t.unsettledP ≠ []) then s.dbgCause c 4 else s

end Sys2Proof.Machine
end

