-- ==== Sys2Proof/Machine/Device.lean ====
section
/-! DEFINITION. Reads of the register windows and of the register aperture (01:R14, 22:R483-R485, R490). Writes wait in
`State.regq` for the next step. -/

namespace Sys2Proof.Machine

/-! ## A function's window -/

/-- TLBI registers (R57). -/
def Func.tlbiWord (u : Func) (off : Nat) : Nat :=
  if off = 0x080 then u.tlbiAddr.toNat
  else if off = 0x090 then u.tlbiIssued
  else if off = 0x098 then u.tlbiDone
  else if off = 0x0A0 then b2n u.tlbiFull * 2 + b2n u.tlbiRefused
  else 0

/-- VF_SCOPE_POL (R151). -/
def Func.scopePol (u : Func) : Nat := u.demotions * 2 ^ 32 + b2n u.trapOnDemote * 4 + b2n u.scopeDemoted * 2 + b2n u.capTnt

/-- CTX_STAT of the memory block (R462): SAVED speaks of the context that CTX_CMD last named. -/
def State.ctxStat (s : State) (f : Nat) : Nat :=
  let u := s.func f
  u.lostLines * 2 ^ 32 + b2n u.saveFault * 8 + u.preCause * 2 + b2n ((s.ctx (f * 4096 + u.cmdCtx)).st == 3)

/-- A function's memory block (R483), its meter block apart. -/
def State.memBlock (s : State) (f off : Nat) : Nat :=
  let u := s.func f
  if off = 0x100 then u.l2Ways.toNat
  else if off = 0x180 then u.fabDomain.toNat
  else if off = 0x188 then u.scopePol
  else if off = 0x190 then u.vstoreBase.toNat
  else if off = 0x198 then u.vstoreGeom.toNat
  else if off = 0x1A0 then u.poolFree * 2 ^ 40 + u.recFree * 2 ^ 19 + b2n u.tagFull * 4 + b2n u.poolFull * 2 + b2n u.recFull
  else if off = 0x1A8 then u.viewLwm.toNat
  else if off = 0x1B0 then u.csgNext
  else if off = 0x1C0 then u.parts
  else if off = 0x1C8 then u.share
  else if off = 0x1D0 then u.xcBase.toNat
  else if off = 0x1D8 then u.xcPages
  else if off = 0x1E0 then u.ctxTbl.toNat
  else if off = 0x290 then u.vfPeriod
  else if off = 0x298 then u.rateCap
  else if off = 0x2A0 then u.opdef * 2 ^ 8 + u.opmax
  else if off = 0x508 then s.ctxStat f
  else 0

/-- A queue's registers (R398). -/
def Queue.word (q : Queue) (i : Nat) : Nat :=
  [q.base.toNat, q.ctl.toNat, q.head, q.tail, q.cqBase.toNat, q.cqHead, q.cqTail, q.stat].getD i 0

/-- A queue's recovery registers (R493). -/
def Queue.recovery (q : Queue) (i : Nat) : Nat :=
  if i = 0 then q.consumed * 2 ^ 32 + q.seqSeen else q.doneSeq * 2 ^ 32 + q.doneCseq

/-- The translator's registers (R504). -/
def Func.xlWord (u : Func) (i : Nat) : Nat :=
  match i with
  | 0 => u.xlSrc.toNat
  | 1 => u.xlSlen.toNat
  | 2 => u.xlDst.toNat
  | 3 => u.xlCap.toNat
  | 5 => b2n u.xlPend.isSome * 2 ^ 63 + u.xlOutlen % 2 ^ 32 * 2 ^ 8 + u.xlStatus
  | _ => 0

/-- BMSTAT (R62). -/
def Cluster.bmStat (k : Cluster) : Nat := k.refmask * 2 ^ 32 + b2n k.fifoBusy * 32 + b2n k.scratchCovered * 16 + k.bmCode

/-- The bank-mode registers of a cluster (R62). -/
def Cluster.bankWord (k : Cluster) (i : Nat) : Nat :=
  match i with
  | 0 => k.bankReq.toNat
  | 1 => k.bankCur.toNat
  | 2 => k.bmStat
  | _ => 0

/-- A lane breakpoint's words (R467). -/
def Cluster.lbpWord (k : Cluster) (i : Nat) : Nat :=
  let b := k.lbp.getD (i / 2) (0, 0, 128)
  if i % 2 = 0 then b.1.toNat else b.2.1.toNat

/-- A PC comparator after reset (R470). -/
def pccReset : DWord × DWord := (0, 0xFFFF0000FF000000)

/-- A PC comparator's words (R470). -/
def Cluster.pccWord (k : Cluster) (i : Nat) : Nat :=
  let b := k.pcc.getD (i / 2) pccReset
  if i % 2 = 0 then b.1.toNat else b.2.toNat

/-- LIVE of a function's cluster view (R490). -/
def State.viewLive (s : State) (f : Nat) : Bool :=
  let c := (s.func f).cluSel
  decide (c < 160) && (f == 128 || s.holder (partOf c) == some f)

/-- The cluster view (R490), by offset from 0x1000. -/
def State.viewWord (s : State) (f off : Nat) : Nat :=
  let u := s.func f
  let k := s.cluster u.cluSel
  if off = 0 then b2n (s.viewLive f) * 2 ^ 63 + u.cluSel
  else if !s.viewLive f then 0
  else if 0x10 ≤ off ∧ off < 0x28 then k.bankWord ((off - 0x10) / 8)
  else if 0x100 ≤ off then k.lbpWord ((off - 0x100) / 8)
  else 0

/-- A word of the MSI-X table (R484, R492): an entry's address, then its data with the mask bit above it. -/
def Func.msixWord (u : Func) (i : Nat) : Nat :=
  let v := (u.msixTab.getD i 0).toNat
  if i % 2 = 0 then v else v % 2 ^ 32 + b2n (bitOf u.msixMask (i / 2)) * 2 ^ 32

/-! ## Profiling (R471-R481) -/

/-- The data of a session that function `f` sees: its own saved session while the hypervisor holds the resource (R473). -/
def Session.shown (se : Session) (f : Nat) : SessData :=
  match se.saved with
  | some d => if d.own = f ∧ f ≠ 128 then d else se.data
  | none => se.data

/-- SESS (R472). -/
def Session.sess (se : Session) (f : Nat) : Nat :=
  let d := se.shown f
  se.gen * 2 ^ 32 + b2n se.reclaimed * 2 ^ 23 + b2n se.evtLost * 2 ^ 22 + b2n d.run * 2 ^ 21 + d.own % 256 * 2 ^ 12 +
    se.st * 2 ^ 10 + se.code

/-- A word of a resource's registers (R474, R476, R479), by resource and offset. -/
def Session.word (se : Session) (f r off : Nat) (prog : List Nat) : Nat :=
  let d := se.shown f
  if off = 0 then se.sess f
  else if r < 4 then
    if off = 0x10 then (d.evt.getD 0 0).toNat
    else if off = 0x18 then (d.evt.getD 1 0).toNat
    else if 0x20 ≤ off ∧ off < 0x60 then (if d.unknown ((off - 0x20) / 8) then 0 else d.cnt.getD ((off - 0x20) / 8) 0)
    else 0
  else if r = 4 then
    if off = 0x10 then d.trBase.toNat
    else if off = 0x18 then d.trCtl.toNat
    else if off = 0x20 then d.dropped * 2 ^ 40 + b2n d.trFault * 2 ^ 39 + d.widx
    else 0
  else if off = 0x10 then d.cxLo.toNat
  else if off = 0x18 then d.cxHi.toNat
  else if off = 0x20 then d.cxCtl.toNat
  else if off = 0x28 then b2n d.abandoned * 4 + b2n d.running * 2 + b2n d.finished
  else if off = 0x30 then d.ins
  else if off = 0x38 then d.ns
  else if 0x40 ≤ off ∧ off < 0xC0 then prog.getD ((off - 0x40) / 8) 0
  else if 0xC0 ≤ off ∧ off < 0x140 then d.res.getD ((off - 0xC0) / 8) 0
  else 0

/-- The resource at an offset of a profiling block, and the offset in it (R471). -/
def profAt (off : Nat) : Nat × Nat :=
  if off < 0x200 then (off / 0x80, off % 0x80) else if off < 0x280 then (4, off - 0x200) else (5, off - 0x280)

/-- A word of the profiling blocks, by offset from 0x4000. -/
def State.profWord (s : State) (f off : Nat) : Nat :=
  let p := off / 0x400
  let pt := s.part p
  let a := profAt (off % 0x400)
  if s.reaches f p then (pt.resource a.1).word f a.1 a.2 pt.prog else 0

/-- A capture unit's words (R481). -/
def Hcu.word (h : Hcu) (off : Nat) : Nat :=
  if off = 0 then h.ctl.toNat
  else if off = 8 then h.min
  else if off = 0x10 then h.max
  else if off = 0x18 then h.cnt
  else if 0x20 ≤ off ∧ off < 0x60 then h.bins.getD ((off - 0x20) / 4) 0 + h.bins.getD ((off - 0x20) / 4 + 1) 0 * 2 ^ 32
  else 0

/-- A word of a function's window (R484), meter blocks apart. -/
def State.winWord (s : State) (f off : Nat) : Nat :=
  let u := s.func f
  if off < 0x100 then u.tlbiWord off
  else if off = 0x2A8 then s.alarm.toNat
  else if off = 0x2C0 then u.meterSel
  else if off < 0x400 then s.memBlock f off
  else if off < 0x800 then (u.queue ((off - 0x400) / 0x40)).word (off % 0x40 / 8)
  else if off < 0x900 then (u.queue ((off - 0x800) / 0x10)).recovery (off % 0x10 / 8)
  else if off < 0x940 then u.xlWord ((off - 0x900) / 8)
  else if off = 0x940 then u.ctxSel
  else if off = 0x950 then u.ctxResult * 2 ^ 4 + (s.ctx (s.selected f)).st
  else if 0xA00 ≤ off ∧ off < 0xB00 then s.descShown (s.selected f) ((off - 0xA00) / 8)
  else if 0x1000 ≤ off ∧ off < 0x1200 then s.viewWord f (off - 0x1000)
  else if 0x2000 ≤ off ∧ off < 0x2140 then u.msixWord ((off - 0x2000) / 8)
  else if off = 0x2800 then u.msixPend
  else if 0x4000 ≤ off ∧ off < 0xE000 then s.profWord f (off - 0x4000)
  else if f = 128 ∧ 0xE000 ≤ off ∧ off < 0x13000 then
    ((s.part ((off - 0xE000) / 0x200)).hcu.getD ((off - 0xE000) / 0x80 % 4) Hcu.reset).word (off % 0x80)
  else 0

/-! ## The physical function's BAR0 (R483) -/

/-- PRQ_STAT (R49). -/
def Func.prqStat (u : Func) : Nat :=
  u.badrsp * 2 ^ 48 + u.live.countP (·.held) % 2 ^ 16 * 2 ^ 32 + b2n u.badrspSeen * 4 + b2n u.fullSeen * 2 + b2n (!u.live.isEmpty)

/-- A translation block (R49). -/
def Func.transWord (u : Func) (i : Nat) : Nat :=
  [u.prqBase.toNat, u.prqCtl.toNat, u.prqHead, u.prqTail, u.rsqBase.toNat, u.rsqCtl.toNat, u.rsqHead, u.rsqTail, u.prqStat,
   u.s2ctl.toNat].getD i 0

/-- The energy area (R432, R433, R443, R446). Where CORR_F and LEAK name one offset, CORR_F is read (log 21, DESIGN CHOICE). -/
def State.energyWord (s : State) (off : Nat) : Nat :=
  if off = 0x300 then s.power.windowMs
  else if 0x308 ≤ off ∧ off < 0x448 then (s.part ((off - 0x308) / 8)).corrF
  else if off = 0x448 then s.uncoreF
  else if off = 0x450 then s.alarm.toNat
  else if off = 0x458 then (Config.uncoreBase s.mgmt.record).toNat
  else if off = 0x460 then s.power.capCtl.toNat
  else if off = 0x468 then s.power.stepCtl.toNat
  else 0

/-- The toll area (R423): four entries a word. -/
def tollWord (record : List Byte) (off : Nat) : Nat :=
  let t := fun i => Config.toll record (off / 0x40) (off % 0x40 / 2 + i)
  t 0 + t 1 * 2 ^ 16 + t 2 * 2 ^ 32 + t 3 * 2 ^ 48

/-- FAB_PORT_STAT (R122). -/
def State.portWord (s : State) (p : Nat) : Nat :=
  let t := s.portSt.getD p PortSt.reset
  t.authFail * 2 ^ 48 + t.crcErr * 2 ^ 32 + t.replays * 2 ^ 16 + b2n t.authDown * 2 ^ 8 + p / 4 * 2 ^ 4 + b2n t.keyed * 2 +
    b2n (bitOf s.ports p)

/-- The fabric region (R106, R121, R122). -/
def State.fabricWord (s : State) (off : Nat) : Nat :=
  if off = 0 then s.fabCtl.toNat
  else if 0x200 ≤ off ∧ off < 0x280 then s.portWord ((off - 0x200) / 8)
  else if 0x400 ≤ off ∧ off < 0x500 then
    let e := s.exports.getD ((off - 0x400) / 16) (0, 0)
    if off % 16 = 0 then e.1.toNat else e.2.toNat
  else 0

/-- SLICE_STAT (R94). -/
def Slice.stat (k : Slice) : Nat :=
  k.bypassed * 2 ^ 32 + k.fwaits * 2 ^ 16 + b2n k.filterFull * 4 + b2n k.missFull * 2 + b2n k.poison

/-- The memory-system region (R94, R98). -/
def State.memSysWord (s : State) (off : Nat) : Nat :=
  if off < 0x20 then let t := s.torus.getD (off / 8) (0x20, 0); t.2 * 2 ^ 32 + s.escNew.getD (off / 8) t.1
  else if 0x100 ≤ off ∧ off < 0x300 then (s.slice ((off - 0x100) / 8)).stat
  else 0

/-- SCHED_CTL (R421). -/
def State.schedWord (s : State) : Nat := s.quantum * 2 ^ 48 + s.wakes.length % 256 * 2 ^ 32 + s.prom * 2 ^ 24 + s.perUs

/-- CTRL_SEM (R497). -/
def Mgmt.semWord (m : Mgmt) : Nat := m.gseq * 2 ^ 32 + m.tmo * 2 ^ 16 + m.last * 4 + m.owner

/-- The control port (R496, R497). -/
def Mgmt.word (m : Mgmt) (off : Nat) : Nat :=
  if off = 0 then m.mbxCmd.toNat
  else if off = 8 then m.mbxRlen * 2 ^ 16 + m.mbxStatus * 2 + b2n m.mbxBusy
  else if off = 0x10 then m.semWord
  else if 0x1000 ≤ off ∧ off < 0x2000 then fromBytes ((List.range 8).map fun i => m.mbxBuf.getD (off - 0x1000 + i) 0)
  else 0

/-- The context whose channel status a cluster block shows (R76): that of the command at the channel's head, else that of the gang
in the lowest slot. -/
def Cluster.chanCtx (k : Cluster) (ch : Nat) : Option Nat :=
  match (k.chanq.getD ch []).head? with
  | some c => some c.ctx
  | none => (k.gangs.head?).map (·.2.ctx)

/-- A channel's status register (R76). -/
def Cluster.chanWord (k : Cluster) (ch : Nat) : Nat :=
  match (k.chanCtx ch).bind fun x => k.chans.find? (x * 8 + ch) with
  | some r => r.cmdseq % 2 ^ 24 * 2 ^ 40 + r.st * 2 ^ 32 + r.wptr % 2 ^ 32
  | none => 0

/-- GANG_CTL (R456). -/
def Cluster.gangWord (k : Cluster) (slot : Nat) : Nat :=
  match k.gangs.find? slot with
  | some g => b2n g.pstop * 16 + b2n g.estop * 8 + b2n g.tstop * 4 + b2n g.halt * 2 + 1
  | none => 0

/-- A cluster block (R62, R76, R456, R457, R467, R470), DBG_DATA apart. -/
def Cluster.word (k : Cluster) (off : Nat) : Nat :=
  if off < 0x18 then k.bankWord (off / 8)
  else if 0x40 ≤ off ∧ off < 0x80 then k.chanWord ((off - 0x40) / 8)
  else if 0x800 ≤ off ∧ off < 0xA00 then k.gangWord ((off - 0x800) / 8)
  else if off = 0xC00 then k.dbgSel.toNat
  else if off = 0xC10 then k.dbgStat
  else if 0xD00 ≤ off ∧ off < 0xE00 then k.lbpWord ((off - 0xD00) / 8)
  else if 0xE00 ≤ off ∧ off < 0xE80 then k.pccWord ((off - 0xE00) / 8)
  else 0

/-- A word of BAR0. -/
def State.barWord (s : State) (off : Nat) : Nat :=
  let f := off / 0x1000 % 0x100
  let r := off % 0x1000
  if off < 0x20000 then s.winWord 128 off
  else if 0x200000 ≤ off ∧ off < 0x280000 then (s.func f).transWord (r / 8)
  else if 0x300000 ≤ off ∧ off < 0x381000 then s.memBlock f r
  else if 0x400000 ≤ off ∧ off < 0x410000 then s.energyWord (off - 0x400000)
  else if 0x410000 ≤ off ∧ off < 0x410400 then tollWord s.mgmt.record (off - 0x410000)
  else if 0x440000 ≤ off ∧ off < 0x441000 then s.fabricWord (off - 0x440000)
  else if 0x450000 ≤ off ∧ off < 0x451000 then s.memSysWord (off - 0x450000)
  else if off = 0x460000 then s.schedWord
  else if 0x480000 ≤ off ∧ off < 0x484000 then s.mgmt.word (off - 0x480000)
  else if 0x1000000 ≤ off ∧ off < 0x1A00000 then (s.cluster ((off - 0x1000000) / 0x10000)).word (off % 0x10000)
  else 0

/-- Offsets that stay open in recovery mode (R500). -/
def inControl (win off : Nat) : Bool := win == 128 && decide (0x480000 ≤ off) && decide (off < 0x484000)

/-- A window takes no access: in function-level reset (R491), or in recovery mode outside the control region (R500). -/
def State.closed (s : State) (win off : Nat) : Bool := (s.func win).flr || (s.mgmt.recovery && !inControl win off)

/-- The word of window `win` (128 the physical function's BAR0) at an offset of eight bytes. -/
def State.regWord (s : State) (win off : Nat) : Nat :=
  if s.closed win off then 0
  else if win = 128 then s.barWord off
  else s.winWord win off

/-! ## Reads with an effect -/

/-- The meter block at an offset of a window and the offset in it (R428). -/
def meterAt (win off : Nat) : Option (MeterName × Nat) :=
  if 0x280 ≤ off ∧ off < 0x290 then some (.function win, off - 0x280)
  else if 0x2D0 ≤ off ∧ off < 0x2E0 then some (.context, off - 0x2D0)
  else if win ≠ 128 then none
  else if 0x300000 ≤ off ∧ off < 0x381000 ∧ 0x280 ≤ off % 0x1000 ∧ off % 0x1000 < 0x290 then
    some (.function (off / 0x1000 % 0x100), off % 0x1000 - 0x280)
  else if 0x420000 ≤ off ∧ off < 0x420280 then some (.partition ((off - 0x420000) / 16), off % 16)
  else if 0x420280 ≤ off ∧ off < 0x420290 then some (.package, off - 0x420280)
  else none

/-- The state that an effect leaves. -/
def Out.state (o : Host.Outcome State Fault Refusal) (s : State) : State :=
  match o with
  | .next t => t
  | _ => s

/-- A read of `n` bytes at an offset of a meter block (R429). -/
def State.meterRead (s : State) (win : Nat) (m : MeterName) (off n : Nat) : State × Nat :=
  if off = 0 then
    if 4 < n then (Out.state (execMeterRead64 win m s) s, (s.meterOf win m).pj)
    else (Out.state (execMeterLoRead win m s) s, (s.meterOf win m).pj % 2 ^ 32)
  else if off = 4 then (Out.state (execMeterHiRead win m s) s, s.meterHi win m)
  else if off = 8 then s.meterStat win m
  else (s, 0)

/-- A read of `n` bytes of a window, within one word of eight bytes. -/
def State.regRead (s : State) (win off n : Nat) : State × Nat :=
  if s.closed win off then (s, 0)
  else
    match meterAt win off with
    | some (m, o) => let (s, v) := s.meterRead win m o n; (s, v % 2 ^ (8 * n))
    | none =>
      let at' := off / 8 * 8
      let dbg := win = 128 ∧ 0x1000000 ≤ off ∧ off < 0x1A00000 ∧ at' % 0x10000 = 0xC08
      if dbg then
        let c := (off - 0x1000000) / 0x10000
        let s := Out.state (execDbgDataRead c s) s
        (s, (s.cluster c).dbgData.toNat / 2 ^ (8 * (off % 8)) % 2 ^ (8 * n))
      else (s, s.regWord win at' / 2 ^ (8 * (off % 8)) % 2 ^ (8 * n))

/-- Where an address of the aperture lies (R485): the window, and the offset in it. -/
def apertureAt (pa : Nat) : Option (Nat × Nat) :=
  let a := pa - 0xFF00000000000
  if a < 0x10000000 then some (128, a)
  else if a < 0x10800000 then some ((a - 0x10000000) / 0x10000, a % 0x10000)
  else none

/-- Pieces of an access that lie each within one word. -/
def wordPieces (a n : Nat) : List (Nat × Nat) :=
  (List.range (if n = 0 then 0 else (a % 8 + n - 1) / 8 + 1)).map fun i =>
    let lo := Nat.max a (a / 8 * 8 + 8 * i)
    (lo, Nat.min (a + n) (a / 8 * 8 + 8 * i + 8) - lo)

/-- A read of the register aperture by a context. -/
def State.devLoad (s : State) (_x pa n : Nat) : State × Nat :=
  match apertureAt pa with
  | none => (s, 0)
  | some (win, off) =>
    (wordPieces off n).foldl (fun (acc : State × Nat) q =>
      let (s, v) := acc.1.regRead win q.1 q.2
      (s, acc.2 + v * 2 ^ (8 * (q.1 - off)))) (s, 0)

/-- A write of the register aperture by a context (R485): the physical function's window takes it from the physical function's
contexts alone. -/
def State.devStore (s : State) (x pa n v : Nat) : State :=
  match apertureAt pa with
  | none => s
  | some (win, off) =>
    if win = 128 ∧ fnOf x ≠ 128 then s
    else { s with regq := s.regq ++ (wordPieces off n).map fun q => ⟨win, q.1, q.2, v / 2 ^ (8 * (q.1 - off)) % 2 ^ (8 * q.2)⟩ }

end Sys2Proof.Machine
end

