-- ==== Sys2Proof/Machine/Remote.lean ====
section
/-! DEFINITION. Requests to fabric homes: planes and ports (05:R101, R102), messages and their charges (05:R103), the
destination table (05:R111), aggregation (05:R112, R113) and the consignment slots' counts (07:R165). -/

namespace Sys2Proof.Machine

/-- Lanes of an operation on one line: the ready lanes with their physical addresses and CG attributes. -/
structure Group where
  cl : Nat
  slot : Nat
  o : Op
  a : Acc
  x : Nat
  far : Option Nat
  line : Nat
  mt : Nat
  lanes : List (LaneAcc × Nat × Bool)
  deriving DecidableEq, Repr

def Group.part (G : Group) : Nat := partOf G.cl
/-- Every lane of the group ends alike. -/
def Group.all (G : Group) (e : LaneEnd) : List (Nat × LaneEnd) := G.lanes.map fun l => (l.1.lane, e)
/-- The lane that stands for the group at the slice. -/
def Group.who (G : Group) : LaneRef := ⟨G.cl, G.slot, G.o.id, (G.lanes.head?.map (·.1.lane)).getD 0⟩
/-- The mask of the line's bytes the group touches. -/
def Group.mask (G : Group) : Nat := G.lanes.foldl (fun m l => m ||| spanMask (l.2.1 % 128) (G.a.bytes)) 0
/-- The span of the line the group touches. -/
def Group.span (G : Group) : Span :=
  match bitList 128 G.mask with
  | [] => ⟨G.line * 128, 0⟩
  | b :: bs => ⟨G.line * 128 + b, (b :: bs).getLastD b + 1 - b⟩

/-- The translations through which lanes of a group are bound. -/
def Group.vias (G : Group) (ls : List Nat) : List TlbEntry :=
  (G.lanes.filterMap fun l => if ls.contains l.1.lane then l.1.via else none).eraseDups

/-- A request of lanes of a group leaves (R101, R103). A store raises its plane's counter in its package's entry (R111). -/
def State.send (s : State) (G : Group) (lanes : List Nat) (pkg pa quarters reply : Nat) (store : Bool) (op : RemoteOp) (mask : Nat) :
    State × Nat :=
  let r : RemoteSent :=
    { cl := G.cl, slot := G.slot, op := G.o.id, lanes, far := pkg, pa, plane := 0, port := 0, store, ctx := G.x, sentNs := 0
      noCopy := false, reply, mt := G.mt, resent := false, quarters, ways := s.waysOf (fnOf G.x), vias := G.vias lanes }
  let (s, t) := s.post G.part r op mask
  (if store then s.updGang G.cl G.slot fun g =>
      { g with dests := g.dests.map fun d => if d.1 == pkg then (d.1, d.2.modify (planeOf pkg pa) (· + 1)) else d } else s, t)

/-- The bytes of the line that a group writes, the lanes in ascending order. -/
def Group.lineData (G : Group) : List Byte :=
  G.lanes.foldl (fun bs l =>
    let n := toBytes G.a.bytes l.1.data
    (List.range 128).map fun i => if l.2.1 % 128 ≤ i ∧ i < l.2.1 % 128 + n.length then n.getD (i - l.2.1 % 128) 0 else bs.getD i 0)
    (List.replicate 128 0)

/-- Whether an atomic aggregates its lanes (R112). -/
def Acc.aggregates (a : Acc) : Bool := a.kind == .atom || (a.kind == .atomf && a.op == 0)

/-- What a request of an atomic carries for some lanes' contributions, in ascending lane order (R112, R113): their combined value; a lane
alone is not reduced. -/
def combined (a : Acc) (mode : Nat) (vs : List Nat) : Nat :=
  match vs with
  | [v] => v
  | _ =>
    if a.kind = .atom ∧ a.op = 6 then vs.getLastD 0
    else if a.kind = .atomf then vs.foldl (fun acc v => (atomfOp 0 mode acc v).v) 0
    else vs.foldl (fun acc v => atomOp a.op (8 * a.bytes) a.sg acc v) (atomIdentity a.op (8 * a.bytes) a.sg)

/-- The operation that a request of an atomic names for some of its group's lanes. -/
def Group.atomReq (G : Group) (ls : List Nat) : RemoteOp :=
  let mine := (G.lanes.filter fun l => ls.contains l.1.lane).map (·.1)
  if G.a.kind = .cas then
    .cas G.a.wide (BitVec.ofNat 64 ((mine.head?.map (·.data)).getD 0)) (BitVec.ofNat 64 ((mine.head?.map (·.cmp)).getD 0))
  else
    .atomic (if G.a.kind = .atomf then 8 + G.a.op else G.a.op) G.a.wide G.a.sg
      (BitVec.ofNat 64 (combined G.a G.o.fpmode.toNat (mine.map (·.data))))

/-- Several requests of one group, one for each list of lanes. -/
def State.sendEach (G : Group) (pkg : Nat) : List (List Nat × Nat) → State → State × List (Nat × LaneEnd)
  | [], s => (s, [])
  | (ls, pa) :: rest, s =>
    let (s, t) := s.send G ls pkg pa 1 1 false (G.atomReq ls) (spanMask (pa % 128) G.a.bytes)
    let (s, es) := State.sendEach G pkg rest s
    (s, ls.map (fun l => (l, .sent t)) ++ es)

/-- The destination table takes a store to a package (R111): its entry, or one whose counters are all zero, and no counter
above 255. `none`: the store waits. -/
def destRoom (ds : List (Nat × List Nat)) (pkg pl : Nat) : Option (List (Nat × List Nat)) :=
  match ds.find? fun d => d.1 == pkg with
  | some d => if d.2.getD pl 0 < 255 then some ds else none
  | none =>
    let live := ds.filter fun d => d.2.any (· != 0)
    if live.length < 4 then some (live ++ [(pkg, [0, 0, 0, 0])]) else none

/-- Lanes grouped by element address, in ascending lane order (R112). -/
def byAddr : List (LaneAcc × Nat × Bool) → List (List Nat × Nat)
  | [] => []
  | l :: ls =>
    let rest := byAddr ls
    if rest.any (·.2 == l.2.1) then rest.map fun r => if r.2 == l.2.1 then (l.1.lane :: r.1, r.2) else r
    else (([l.1.lane], l.2.1)) :: rest

/-- A line counted in a consignment slot for a lane (R165): its manifest index, and whether it is new; `none` when a limit
is reached. -/
def csgCount (sl : CsgSlot) (pkg line : Nat) : Option (CsgSlot × Nat) :=
  match sl.lines.idxOf? (pkg, line) with
  | some i => some (sl, i)
  | none =>
    if 512 ≤ sl.lines.length then none
    else if !sl.pkgs.contains pkg ∧ 16 ≤ sl.pkgs.length then none
    else some ({ sl with lines := sl.lines ++ [(pkg, line)]
                         pkgs := if sl.pkgs.contains pkg then sl.pkgs else sl.pkgs ++ [pkg] }, sl.lines.length)

/-- The slot of a gang. -/
def Gang.slotAt (g : Gang) (i : Nat) : CsgSlot := g.slots.getD i ⟨0, 0, 0, [], [], 0⟩

/-- How the count of a lane's line ends: its manifest index plus one, a limit reached, or a line of the record that has to be waited for. -/
inductive Counted where
  | at' (i : Nat)
  | limit
  | busy
  deriving DecidableEq, Repr

/-- A new manifest entry `i` of a slot, and the record's counts, written at the record's home (R164, R178). -/
def State.putManifest (s : State) (p x : Nat) (sl : CsgSlot) (i pkg line : Nat) : State :=
  let at' := (s.func (csgVf sl.csgid)).recAt sl.mrec
  let ent := at' + 64 + 8 * i
  let s := ((s.l2Access p x ⟨ent, 8⟩ true).writeNum ent 8 (pkg * 2 ^ 54 + line * 128)).exportWrite (ent / 128)
  let pkgs := (List.range sl.pkgs.length).foldl (fun n j => n + sl.pkgs.getD j 0 * 2 ^ (10 * j)) 0
  let s := (s.l2Access p x ⟨at', 64⟩ true).writeNum (at' + 16) 8 (sl.pkgs.length * 2 ^ 16 + sl.lines.length)
  (s.writeNum (at' + 24) 24 pkgs).exportWrite (at' / 128)

/-- Count a lane's line in a slot of its gang (R165), with its manifest entry where it is new. -/
def State.countLine (s : State) (cl slot x cs pkg line : Nat) : State × Counted :=
  match s.gang? cl slot with
  | none => (s, .limit)
  | some g =>
    let sl := g.slotAt cs
    match csgCount sl pkg line with
    | none => (s, .limit)
    | some (sl', i) =>
      let put := fun s : State => s.updGang cl slot fun g => { g with slots := g.slots.set cs sl' }
      if sl'.lines.length = sl.lines.length then (put s, .at' (i + 1))
      else
        let at' := (s.func (csgVf sl.csgid)).recAt sl.mrec
        match State.linesWait (partOf cl) x [((at' + 64 + 8 * i) / 128, true, false), (at' / 128, true, false)] s with
        | (s, true) => (s, .busy)
        | (s, false) => ((put s).putManifest (partOf cl) x sl' i pkg line, .at' (i + 1))

/-- Ordinary stores of a gang before an operation that have not left and may be for a package: not translated, or ready for it. -/
def Gang.unsentStores (g : Gang) (id pkg : Nat) : Bool :=
  g.ops.any fun p => decide (p.id < id) && match accOf p.instr with
    | some b => b.kind == .store && b.sp == 0 && p.lanes.any fun l => match l.st with
        | .fresh | .walking | .stalled => true
        | .ready far _ _ _ => far == some pkg
        | _ => false
    | none => false

/-- An ordered-flag store waits for its sample (R111): the stores that its gang issued before it to its package are sent and
acknowledged. -/
def State.flagHeld (s : State) (G : Group) (pkg : Nat) : Bool :=
  (s.remotes.any fun r => r.2.cl == G.cl && r.2.slot == G.slot && r.2.store && r.2.far == pkg && decide (r.2.op < G.o.id)) ||
    ((s.gang? G.cl G.slot).map fun g => g.unsentStores G.o.id pkg).getD false

/-- A remote load (R103, R108): served by a read-only-remote copy, or asked for. -/
def State.sendLoad (s : State) (G : Group) (pkg : Nat) (send : State → State × List (Nat × LaneEnd)) : State × List (Nat × LaneEnd) :=
  match if G.a.kind = .load ∧ G.mt ≤ 1 then s.l2Find (some pkg) (G.line * 128) else none with
  | some L =>
    (s.charge G.part G.x 11 1, G.lanes.map fun l =>
      (l.1.lane, .value (fromBytes ((List.range G.a.bytes).map fun i => L.data.getD (l.2.1 % 128 + i) 0))))
  | none => send s

/-- The requests of a group to its fabric home that may leave (R103, R111, R112): one for the line, or one for each element. -/
def State.sendNow (s : State) (G : Group) (pkg : Nat) : State × List (Nat × LaneEnd) :=
  let pa := G.line * 128
  let ls := G.lanes.map (·.1.lane)
  let all := fun (r : State × Nat) => (r.1, G.all (.sent r.2))
  let wq := writeQuarters (writeSpan G.mask)
  match G.a.kind with
  | .pf | .wb | .inv => (s, G.all .ok)
  | .load => all (s.send G ls pkg pa 1 (replyQuarters G.mt G.mask) false (.read 128) G.mask)
  | .view =>
    let snap := ((s.gang? G.cl G.slot).map fun g => (g.views.getD G.a.slot ⟨false, 0, false⟩).stamp).getD 0
    all (s.send G ls pkg pa 1 (replyQuarters G.mt G.mask) false (.view 128 snap ((G.lanes.head?.map (·.2.2)).getD false)) G.mask)
  | .store =>
    match (s.gang? G.cl G.slot).bind fun g => destRoom g.dests pkg (planeOf pkg pa) with
    | none => (s, G.all .stay)
    | some ds =>
      all ((s.updGang G.cl G.slot fun g => { g with dests := ds }).send G ls pkg pa wq 1 true (.write G.lineData G.mask) G.mask)
  | .flag => if s.flagHeld G pkg then (s, G.all .stay) else all (s.send G ls pkg pa wq 1 false (.write G.lineData G.mask) G.mask)
  | .csg =>
    let sl := ((s.gang? G.cl G.slot).map fun g => g.slotAt G.a.slot).getD ⟨0, 0, 0, [], [], 0⟩
    let midx := ((G.lanes.head?.map (·.1.cmp)).getD 1) - 1
    all (s.send G ls pkg pa wq 1 false (.stcsg sl.csgid sl.mrec midx G.lineData G.mask) G.mask)
  | .atom | .atomf => State.sendEach G pkg (if G.a.aggregates then byAddr G.lanes else G.lanes.map fun l => ([l.1.lane], l.2.1)) s
  | .cas => State.sendEach G pkg (G.lanes.map fun l => ([l.1.lane], l.2.1)) s

/-- The group sent to its fabric home (R101-R105, R108, R112): a prefetch is discarded (R321), a function that may not leave faults at
issue, a copy serves a read, and what is left waits behind its line's requests, faults with its plane, or leaves. -/
def State.sendGroup (s : State) (G : Group) (pkg : Nat) : State × List (Nat × LaneEnd) :=
  if G.a.kind = .pf ∨ G.a.kind = .wb ∨ G.a.kind = .inv then (s, G.all .ok)
  else if s.farShut G.x then (s, G.all (.trap 5))
  else
    s.sendLoad G pkg fun s =>
      match s.farGate G.x pkg (G.line * 128) with
      | .trap n => (s, G.all (.trap n))
      | .waits => (s, G.all .stay)
      | .go => s.sendNow G pkg

/-- What the lanes of an aggregated group fetch for the prior value `old` (R113), in ascending lane order. -/
def fetched (a : Acc) (mode old : Nat) : Nat → List Nat → List Nat
  | _, [] => []
  | acc, v :: vs =>
    let w := 8 * a.bytes
    let op := fun x y => if a.kind = .atomf then (atomfOp 0 mode x y).v else atomOp a.op w a.sg x y
    let isExch := a.kind = .atom ∧ a.op = 6
    (if isExch then acc else op old acc) :: fetched a mode old (if isExch then v else op acc v) vs

/-- The values of a group's lanes: a lane alone fetches the prior value (R112), as the first exchange does (R113). -/
def fetchedAll (a : Acc) (mode old : Nat) (vs : List Nat) : List Nat :=
  if vs.length = 1 then [old]
  else fetched a mode old (if a.kind = .atom ∧ a.op = 6 then old else if a.kind = .atomf then 0 else atomIdentity a.op (8 * a.bytes) a.sg) vs

end Sys2Proof.Machine
end

