-- ==== Sys2Proof/Machine/Serve.lean ====
section
/-! DEFINITION. Performing the ready lanes of an operation, line by line: in the L1, at the home slice, at the host window or
a unit, or by sending them to a fabric home (06:R128, R134, R138; 03:R68; 04:R90-R92; 07:R165-R171). -/

namespace Sys2Proof.Machine

/-! ## Slice requests (R90, R91) -/

/-- A group's request at its home slice: a hit is ready, a miss joins, takes a register, waits, or bypasses. -/
def State.sliceAsk (s : State) (G : Group) (write : Bool) : State := s.ask G.part G.x G.line write (G.mask == fullMask) G.who

/-- A promoting acquire whose line another cluster released last is held for its promotion (R140). -/
def State.promoteHolds (s : State) (G : Group) : Bool :=
  G.a.sc == 5 && G.a.isAcq && match s.l2Find none (G.line * 128) with
    | some L => match L.rel with | some r => r.1 != G.cl | none => false
    | none => false

/-- The group stands in the queues of its slice. -/
def State.queued (s : State) (G : Group) : Bool :=
  let sl := s.slice (homeSlice (G.line * 128))
  sl.waits.any (·.who == G.who) || sl.mrs.any (·.2.joined.contains G.who)

/-- The group's turn at its home slice: whether it is served now. It waits in its queues, for a promotion, for the recall of an owned
exported line (R109), outside a full filter, or for what its allocation evicts (R91, R142). A group that has not asked yet asks
first: at its issue (`near`) for the fill alone, later a bypass is served at once. -/
def State.sliceTurn (s : State) (G : Group) (write near : Bool) : State × Bool :=
  let sl := s.slice (homeSlice (G.line * 128))
  let hit := (s.l2Find none (G.line * 128)).isSome
  let whole := write && G.mask == fullMask
  if s.exportSt.getD G.line 0 = 2 then (s.recallLine G.line, false)
  else if near then (if (s.sliceAsk G write).queued G then s.sliceAsk G write else s, false)
  else if s.promoteHolds G || s.queued G then (s, false)
  else if sl.filled.contains G.who then (s, true)
  else if (write && sl.full) || (whole && !hit && !s.allocRoom (s.waysOf (fnOf G.x)) (G.line * 128)) then (s, false)
  else if hit || whole then (s, true)
  else (s.sliceAsk G write, !(s.sliceAsk G write).queued G)

/-- The charges and residency of a home access whose fill is done, or which bypasses (R89, R90, R92). -/
def State.sliceServe (s : State) (G : Group) (write : Bool) : State :=
  let a := G.span
  let s := s.charge G.part G.x 11 1
  let filled := (s.slice (homeSlice a.pa)).filled.contains G.who
  let miss := (s.l2Find none a.pa).isNone || filled
  let s := (s.count G.part (fnOf G.x) (if miss then 0x013 else 0x012) 1).count G.part (fnOf G.x) 0x011 1
  match s.l2Find none a.pa with
  | some _ => if write then s.updLine none a.pa fun l => { l with dirty := true } else s
  | none =>
    if write ∧ G.mask = fullMask ∧ s.waysOf (fnOf G.x) ≠ 0 then
      s.l2Alloc G.part G.x (s.waysOf (fnOf G.x)) none a.pa true []
    else if !write ∧ filled then s
    else s.charge G.part G.x 12 a.halves

/-! ## Loads -/

/-- Bytes of a lane taken from a line's 128 bytes. -/
def laneValue (a : Acc) (line : List Byte) (pa : Nat) : Nat :=
  fromBytes ((List.range a.bytes).map fun i => line.getD (pa % 128 + i) 0)

/-- The CSGIDs open in a gang's slots (R170). -/
def Gang.ownIds (g : Gang) : List Nat := g.slots.filterMap fun c => if c.st = 1 then some c.csgid else none

/-- The lanes of a group that consume a bad byte of their line (R93), and the group without them. -/
def Group.split (G : Group) (bad : Nat) : List (Nat × LaneEnd) × Group :=
  let hit := fun (l : LaneAcc × Nat × Bool) => spanBad bad (l.2.1 % 128) G.a.bytes
  ((G.lanes.filter hit).map fun l => (l.1.lane, .trap 3), { G with lanes := G.lanes.filter (!hit ·) })

/-- The values of a group's lanes out of a line's bytes; a lane that consumes a bad byte takes a poison fault (R80, R93). -/
def Group.values (G : Group) (bad : Nat) (bs : List Byte) : List (Nat × LaneEnd) :=
  G.lanes.map fun l => (l.1.lane, if spanBad bad (l.2.1 % 128) G.a.bytes then .trap 3 else .value (laneValue G.a bs l.2.1))

/-- How a read's resolution holds or ends its lanes before any byte is read: for a seal record, for a line, or with a record out of reach
(R91, R102, R109, R170). -/
def Group.readEnd (G : Group) : Resolved → Option (List (Nat × LaneEnd))
  | .ask _ => some (G.all .park)
  | .busy => some (G.all .stay)
  | .lost => some (G.all (.trap 4))
  | _ => none

/-- A load's lanes at the home (R128, R130, R170). Lanes that consume a poisoned half take a poison fault (R93). A load that is no
wide acquire fills the L1 and reads what the L1 then holds, so that no later load finds an older value there (R127); the
clean bytes of a tagged line go, which allocates nothing (R171), and the cluster's own dirty bytes stand before the version read. A
line that the L1 holds in part is touched there too (R69). -/
def State.loadHome (s : State) (G : Group) (own : List Nat) : State × List (Nat × LaneEnd) :=
  let (s, r, tagged) := s.resolve G.part G.x (G.line * 128) own none
  match G.readEnd r with
  | some es => (s, es)
  | none =>
    let s := if !G.a.homeAcq && (s.l1Find G.cl G.line).isSome then s.charge G.part G.x 10 1 else s
    let s := s.sliceServe G false
    let mixed := fun (s : State) (bs : List Byte) (bad : Nat) =>
      (s.updL1 G.cl fun m => dropClean m G.line, G.values (s.overlayBad G.cl G.line bad) (s.overlay G.cl G.line bs))
    match r with
    | .expired => mixed s [] 0
    | .prior bs bad => mixed s bs bad
    | _ =>
      if tagged then mixed s (s.homeLine G.line) (s.badHalves G.line)
      else if G.a.homeAcq then
        (s, G.values (s.overlayBad G.cl G.line (s.badHalves G.line)) (s.overlay G.cl G.line (s.homeLine G.line)))
      else
        let s := s.l1Fill G.cl G.x G.line (G.mt = 0)
        let bad := match s.l1Find G.cl G.line with | some L => L.poison | none => s.badHalves G.line
        (s, G.values (halfMask bad) (s.lineBytes G.cl G.line 0 128))

/-- The L1 holds every byte the group touches. -/
def State.l1Has (s : State) (G : Group) : Bool :=
  match s.l1Find G.cl G.line with
  | some L => L.valid &&& G.mask == G.mask
  | none => false

/-- A load of memory type 0 or 1 (R68, R128): from the L1 when it holds the bytes and the load is no wide acquire, otherwise
from the home slice. -/
def State.loadLine (s : State) (G : Group) (own : List Nat) (near : Bool) : State × List (Nat × LaneEnd) :=
  if !G.a.homeAcq && s.l1Has G then
    let bad := match s.l1Find G.cl G.line with | some L => L.poison | none => 0
    (s.charge G.part G.x 10 1, G.values (halfMask bad) (s.lineBytes G.cl G.line 0 128))
  else
    match s.sliceTurn G false near with
    | (s, false) => (s, G.all .stay)
    | (s, true) => s.loadHome G own

/-- The view's stamp of a group. -/
def State.viewStamp (s : State) (G : Group) : Nat :=
  ((s.gang? G.cl G.slot).map fun g => (g.views.getD G.a.slot ⟨false, 0, false⟩).stamp.toNat).getD 0

/-- `ldview` (R171, R173): always at the home, never the L1; an expired lane receives zero and marks the slot. A page with CG = 0 is
read in place. -/
def State.viewLine (s : State) (G : Group) (near : Bool) : State × List (Nat × LaneEnd) :=
  match s.sliceTurn G false near with
  | (s, false) => (s, G.all .stay)
  | (s, true) =>
    let snap := s.viewStamp G
    let cg := (G.lanes.head?.map (·.2.2)).getD false
    let (s, r) := if cg then
        let r := (s.merge (BitVec.ofNat 64 snap)).resolve G.part G.x (G.line * 128) [] (some snap)
        (r.1, r.2.1)
      else (s, .inPlace)
    match G.readEnd r with
    | some es => (s, es)
    | none =>
      let s := s.sliceServe G false
      match r with
      | .prior bs bad => (s, G.values (halfMask bad) bs)
      | .expired =>
        (s.updGang G.cl G.slot fun g => { g with views := g.views.modify G.a.slot fun v => { v with expired := true } },
          G.all (.value 0))
      | _ => (s, G.values (halfMask (s.badHalves G.line)) (s.homeLine G.line))

/-! ## Stores and atomics -/

/-- A narrow release whose line its slice will not hold leaves no last releaser to be promoted later: what that promotion would do is
done before it (R142; log 130, DEDUCED). -/
def State.releaseReady (s : State) (G : Group) : State × Bool :=
  if !G.a.isRel || wideScope G.a.sc || (s.l2Find none (G.line * 128)).isSome ||
      (G.mask == fullMask && bitsOf (s.waysOf (fnOf G.x)) 0 32 != 0) then (s, true)
  else s.promote G.cl (fnOf G.x)

/-- The last-releaser field after a write (R138). -/
def State.markRelease (s : State) (G : Group) : State :=
  if !G.a.isRel then s
  else
    s.updLine none (G.line * 128) fun l =>
      { l with rel := if wideScope G.a.sc then none else some (G.cl, fnOf G.x), promoted := [] }

/-- How a write's gate ends its lanes, if it does not let them go on (R167). -/
def Group.gateEnd (G : Group) : Gate → Option (List (Nat × LaneEnd))
  | .pending => some (G.all (.trap 10))
  | .ask _ => some (G.all .park)
  | .busy => some (G.all .stay)
  | .lost => some (G.all (.trap 4))
  | .go => none

/-- A plain write performed at the home (R128): the lanes in ascending order. The issuing cluster's own copy keeps the new
bytes. -/
def State.performHome (s : State) (G : Group) : State × List (Nat × LaneEnd) :=
  let s := (s.sliceServe G true).markRelease G
  let s := G.lanes.foldl (fun s l =>
    let bs := toBytes G.a.bytes l.1.data
    (s.store l.2.1 bs).l1Refresh G.cl G.line (l.2.1 % 128) bs) s
  ((s.cleanMasked G.line G.mask).l1Clean G.cl G.line G.mask, G.all .ok)

/-- A write at the home, once the cluster's L1 has written back another context's bytes of the line (R129) and the line's tag lets it
(R167). -/
def State.homeWrite (s : State) (G : Group) (go : State → State × List (Nat × LaneEnd)) : State × List (Nat × LaneEnd) :=
  match s.l1Yield G.cl G.x G.line with
  | (s, false) => (s, G.all .stay)
  | (s, true) =>
    match s.writeGate G.part G.x (G.line * 128) with
    | (s, gate) => match G.gateEnd gate with
      | some es => (s, es)
      | none => go s

/-- A plain write at the home. -/
def State.storeHome (s : State) (G : Group) : State × List (Nat × LaneEnd) := s.homeWrite G (·.performHome G)

/-- The L1 line of a group records the launch whose stores it now holds (R404). -/
def State.markGrid (s : State) (G : Group) : State :=
  match s.gang? G.cl G.slot with
  | none => s
  | some g => s.updL1 G.cl fun m => m.adjust G.line fun L =>
      { L with grids := if L.grids.contains (g.blk / 2 ^ 32) then L.grids else L.grids ++ [g.blk / 2 ^ 32] }

/-- A store's lanes into the L1, in ascending order (R68, R129, R316). -/
def State.storeL1 (s : State) (G : Group) : State × L1Store :=
  let r := G.lanes.foldl (fun (acc : State × L1Store) l =>
    match acc with
    | (s, .took) =>
      s.l1Store G.cl G.x l.1.va G.line (l.2.1 % 128) (toBytes G.a.bytes l.1.data) (G.mt = 0)
    | r => r) (s, .took)
  ((r.1.l1Clean G.cl G.line G.mask).markGrid G, r.2)

/-- A store with release semantics at gang or cluster scope (R138): in the L1, where it holds or takes the line, and in the home
slice, in one step. -/
def State.storeBoth (s : State) (G : Group) : State × List (Nat × LaneEnd) :=
  s.homeWrite G fun s =>
    match s.releaseReady G with
    | (s, false) => (s, G.all .stay)
    | (s, true) =>
      if G.mt ≠ 0 ∧ (s.l1Find G.cl G.line).isNone then s.performHome G
      else
        match s.storeL1 G with
        | (s, .waits) => (s, G.all .stay)
        | (s, .took) => (s.charge G.part G.x 10 1).performHome G
        | (s, .no) => s.performHome G

/-- A store of memory type 0 or 1. -/
def State.storeLine (s : State) (G : Group) (near : Bool) : State × List (Nat × LaneEnd) :=
  let home := fun (s : State) (go : State → State × List (Nat × LaneEnd)) =>
    match s.sliceTurn G true near with
    | (s, false) => (s, G.all .stay)
    | (s, true) => go s
  if G.a.isRel && wideScope G.a.sc then home s (·.storeHome G)
  else if G.a.isRel then home s (·.storeBoth G)
  else if G.mt ≠ 0 ∧ (s.l1Find G.cl G.line).isNone then home s (·.storeHome G)
  else
    match s.storeL1 G with
    | (s, .waits) => (s, G.all .stay)
    | (s, .took) => (s.charge G.part G.x 10 1, G.all .ok)
    | (s, .no) => home s (·.storeHome G)

/-- Report the flags of a floating-point atomic (R330, R218): ORed into FPFLAGS when the lane completes. -/
def State.atomFlags (s : State) (G : Group) (fls : List (Nat × Nat)) : State :=
  let fl := fls.foldl (fun a f => a ||| f.2) 0
  let s := s.updGang G.cl G.slot fun g => { g with fpflags := g.fpflags ||| fl }
  s.flagTrap G.cl G.slot G.o fls

/-- The lanes of an atomic one after another, in ascending lane order (R329), over a reader and a writer of the element. -/
def atomLanes {σ : Type} (G : Group) (read : σ → Nat → Nat) (write : σ → Nat → Nat → σ) (s : σ) :
    σ × List (Nat × LaneEnd) × List (Nat × Nat) :=
  G.lanes.foldl (fun acc l =>
    let old := read acc.1 l.2.1
    let r := G.a.modify G.o.fpmode.toNat old l.1
    (write acc.1 l.2.1 r.v, acc.2.1 ++ [(l.1.lane, .value old)], acc.2.2 ++ [(l.1.lane, r.fl)])) (s, [], [])

/-- The lanes' end when a write-back that their access forces or needs does not pass (R47, R460, R520): the request and the trap
name the line address recorded with the line. The request carries the forcing context, whose access waits (log 171, DESIGN
CHOICE). -/
def State.wbEnd (s : State) (G : Group) (line : Nat) (w : Wb) : State × List (Nat × LaneEnd) :=
  let va := ((s.l1Find G.cl line).map (·.va)).getD 0
  match w with
  | .walk f =>
    let (s, r) := s.raise G.part G.x va f ⟨6, 0, G.o.iaddr⟩
    (s, G.all (.req r (some va)))
  | .tag => (s, G.all (.wbTrap va))
  | .ask _ => (s, G.all .park)
  | .far n => (s, G.all (.trap n))
  | _ => (s, G.all .stay)

/-- An atomic performed in the L1, which holds every byte it touches (R134). -/
def State.atomL1 (s : State) (G : Group) : State × List (Nat × LaneEnd) :=
  let (bad, G') := G.split (halfMask (match s.l1Find G.cl G.line with | some L => L.poison | none => 0))
  let va := (G.lanes.head?.map (·.1.va)).getD 0
  let (s, es, fls) := atomLanes G' (fun s pa => fromBytes (s.lineBytes G.cl G.line (pa % 128) G.a.bytes))
    (fun s pa v => (s.l1Store G.cl G.x va G.line (pa % 128) (toBytes G.a.bytes v) false).1) (s.charge G.part G.x 10 1)
  ((s.markGrid G).atomFlags G' fls, bad ++ es)

/-- An atomic performed in the home slice, after the cluster's own dirty line is given up (R134, R520). -/
def State.atomHome (s : State) (G : Group) : State × List (Nat × LaneEnd) :=
  match s.giveUpLine G.cl G.line (wideScope G.a.sc) with
  | (s, .done) =>
    match s.writeGate G.part G.x (G.line * 128) with
    | (s, gate) => match G.gateEnd gate with
      | some es => (s, es)
      | none =>
        match s.releaseReady G with
        | (s, false) => (s, G.all .stay)
        | (s, true) =>
          let s := (s.sliceServe G true).markRelease G
          let (bad, G') := G.split (halfMask (s.badHalves G.line))
          let (s, es, fls) := atomLanes G' (fun s pa => s.readNum pa G.a.bytes)
            (fun s pa v => (s.store pa (toBytes G.a.bytes v)).l1Refresh G.cl G.line (pa % 128) (toBytes G.a.bytes v)) s
          (s.atomFlags G' fls, bad ++ es)
  | (s, w) => s.wbEnd G G.line w

/-- An atomic that the L1 cannot perform with what it holds: it fetches and merges the missing bytes of a line it holds of type 0 (R68), but
not of a tagged line (R171), or is performed in the home slice. -/
def State.atomFetch (s : State) (G : Group) (inL1 near : Bool) : State × List (Nat × LaneEnd) :=
  let fill := inL1 && (s.findTag G.part G.x (G.line * 128)).2.isNone
  match s.sliceTurn G (!fill) near with
  | (s, false) => (s, G.all .stay)
  | (s, true) =>
    if fill then
      (((s.findTag G.part G.x (G.line * 128)).1.sliceServe G false).l1Fill G.cl G.x G.line false).atomL1 G
    else s.atomHome G

/-- An atomic of local memory (R134): cluster scope in the L1 when it holds a line of type 0, after another context's bytes of the line are
written back (R129), otherwise in the home slice. -/
def State.atomLine (s : State) (G : Group) (near : Bool) : State × List (Nat × LaneEnd) :=
  if wideScope G.a.sc || G.mt != 0 || G.a.isRel || (s.l1Find G.cl G.line).isNone then s.atomFetch G false near
  else
    match s.l1Yield G.cl G.x G.line with
    | (s, false) => (s, G.all .stay)
    | (s, true) => if s.l1Has G then s.atomL1 G else s.atomFetch G (s.l1Find G.cl G.line).isSome near

/-- One consignment-store lane at its line home (R166), acknowledged with a stamp of its own. -/
def State.csgLane (s : State) (G : Group) (sl : CsgSlot) (l : LaneAcc × Nat × Bool) : State × Nat × LaneEnd :=
  match s.csgStore G.part G.x (csgVf sl.csgid) sl.csgid sl.mrec (l.1.cmp - 1) l.2.1 (toBytes G.a.bytes l.1.data) with
  | (s, .done) =>
    let (st, s) := s.take
    (s.updGang G.cl G.slot fun g => { g with slots := g.slots.modify G.a.slot fun c =>
      { c with stamp := BitVec.ofNat 64 (Nat.max c.stamp.toNat st.toNat) } }, l.1.lane, .ok)
  | (s, .conflict) => (s, l.1.lane, .trap 8)
  | (s, .full) => (s, l.1.lane, .trap 9)
  | (s, .ask _) => (s, l.1.lane, .park)
  | (s, .busy) => (s, l.1.lane, .stay)
  | (s, .lost) => (s, l.1.lane, .trap 4)

/-- The lanes of a group that have ended well. -/
def Group.done (G : Group) (es : List (Nat × LaneEnd)) : Group :=
  { G with lanes := G.lanes.filter fun l => es.any fun e => e.1 == l.1.lane && e.2 == .ok }

/-- Consignment-store lanes of a local line (R166): counted before (R165), performed at the line home in ascending order. Before, the
cluster's own L1 gives up the line, as for every other write in the home slice that a thread's loads must see (R127, R131, R134; log 172,
DESIGN CHOICE). The tag is created in the version store of the consignment's function. -/
def State.csgLine (s : State) (G : Group) (near : Bool) : State × List (Nat × LaneEnd) :=
  match s.sliceTurn G true near with
  | (s, false) => (s, G.all .stay)
  | (s, true) =>
    match s.giveUpLine G.cl G.line true with
    | (s, .done) =>
      let sl := ((s.gang? G.cl G.slot).map fun g => g.slotAt G.a.slot).getD ⟨0, 0, 0, [], [], 0⟩
      let (s, es) := G.lanes.foldl (fun (acc : State × List (Nat × LaneEnd)) l =>
        let r := acc.1.csgLane G sl l
        (r.1, acc.2 ++ [r.2])) (s, [])
      let went := es.any fun e => e.2 != .stay && e.2 != .park
      ((if went then s.sliceServe G true else s).cleanMasked G.line (G.done es).mask, es)
    | (s, w) => s.wbEnd G G.line w

/-! ## Prefetch, wb, inv -/

/-- `pf` (R321): fills by memory type; L2ONLY fills the L2 only; types 2 and 3 are discarded. A tagged line allocates nothing
(R171); a bit without a tag is no tag (R162). A line the L1 holds whole is filled nowhere. -/
def State.pfLine (s : State) (G : Group) : State × List (Nat × LaneEnd) :=
  let whole := match s.l1Find G.cl G.line with | some L => L.valid == 2 ^ 128 - 1 | none => false
  if 2 ≤ G.mt ∨ !inHbm (G.line * 128) ∨ (G.a.slot ≠ 1 ∧ whole = true) then (s, G.all .ok)
  else
    match s.findTag G.part G.x (G.line * 128) with
    | (s, some _) => (s, G.all .ok)
    | (s, none) =>
      match s.unitWaits G.cl G.x G.line false false with
      | (s, true) => (s, G.all .stay)
      | (s, false) =>
        let s := s.l2Access G.part G.x ⟨G.line * 128, 128⟩ false
        (if G.a.slot = 1 then s else s.l1Fill G.cl G.x G.line (G.mt = 0), G.all .ok)

/-- A write-back of a line recorded at an address has left for another package and is not acknowledged. -/
def State.wbOut (s : State) (cl va : Nat) : Bool := s.remotes.any fun r => match r.2.unit with
  | some k => k.eng == 6 && k.cl == cl && k.unit == va
  | none => false

/-- `wb` of one line (R334): written back and kept, and complete when the line has reached its last destination; a physical-function
context's HBM = 1 also writes the slice line out. A write-back that fails holds the lanes as a forced one does (R47, R520). -/
def State.wbLine (s : State) (G : Group) : State × List (Nat × LaneEnd) :=
  let va := ((s.l1Find G.cl G.line).map (·.va)).getD 0
  if s.wbOut G.cl va then (s, G.all .stay)
  else
    match s.writeBack G.cl G.line true with
    | (s, .done) =>
      if s.wbOut G.cl va then (s, G.all .stay)
      else (if G.a.slot = 1 ∧ fnOf G.x = 128 then s.updLine none (G.line * 128) fun l => { l with dirty := false } else s, G.all .ok)
    | (s, w) => s.wbEnd G G.line w

/-! ## Uncached memory, the host window, units -/

/-- The charges of an access that no cache serves (R30, R86, R92): one for the line of type 2, one for each lane of type 3. A line that another
page brought into the slice is written back and dropped for type 3 as for type 2 (log 164, DESIGN CHOICE). -/
def State.chargeUncached (s : State) (G : Group) : State :=
  let hbm := inHbm (G.line * 128)
  if G.mt = 3 then
    G.lanes.foldl (fun s l =>
      if hbm then s.uncached G.part G.x ⟨l.2.1, G.a.bytes⟩ else s.charge G.part G.x 11 1) s
  else if hbm then s.uncached G.part G.x G.span else s.charge G.part G.x 11 1

/-- A read of memory that no cache holds: of the host window, or of HBM4 as its line resolves. -/
def State.readUncached (s : State) (G : Group) (own : List Nat) : State × List (Nat × LaneEnd) :=
  if !inHbm (G.line * 128) then (s.chargeUncached G, G.values 0 (s.homeLine G.line))
  else
    let (s, r, _) := s.resolve G.part G.x (G.line * 128) own none
    match G.readEnd r with
    | some es => (s, es)
    | none => (s.chargeUncached G, match r with
        | .prior bs bad => G.values (halfMask bad) bs
        | _ => G.values (halfMask (s.badHalves G.line)) (s.homeLine G.line))

/-- The threads of a group's lanes have written the host window (R148). -/
def State.markHost (s : State) (G : Group) : State :=
  s.updGang G.cl G.slot fun g => G.lanes.foldl (fun g l => g.updThread l.1.lane fun t => { t with hostWrote := some l.2.1 }) g

/-- Memory types 2 and 3 and the host window (R30, R86): never cached, performed at the home. -/
def State.uncachedLine (s : State) (G : Group) (own : List Nat) (near : Bool) : State × List (Nat × LaneEnd) :=
  let hbm := inHbm (G.line * 128)
  let gate := fun (s : State) (go : State → State × List (Nat × LaneEnd)) =>
    match if hbm then s.writeGate G.part G.x (G.line * 128) else (s, .go) with
    | (s, g) => match G.gateEnd g with
      | some es => (s, es)
      | none => go (s.chargeUncached G)
  if near then (s, G.all .stay)
  else
    match if hbm then s.dropTurn G.line (atWrites G.a.kind.atype) else (s, false) with
    | (s, true) => (s, G.all .stay)
    | (s, false) =>
      match G.a.kind with
      | .pf | .wb | .inv => (s, G.all .ok)
      | .view => (s.chargeUncached G, G.values (if hbm then halfMask (s.badHalves G.line) else 0) (s.homeLine G.line))
      | .load => s.readUncached G own
      | .store | .flag | .csg =>
        gate s fun s =>
          let s := G.lanes.foldl (fun s l => s.store l.2.1 (toBytes G.a.bytes l.1.data)) s
          (if hbm then s.cleanMasked G.line G.mask else s.markHost G, G.all .ok)
      | .atom | .cas | .atomf =>
        gate s fun s =>
          let (bad, G') := G.split (if hbm then halfMask (s.badHalves G.line) else 0)
          let (s, es, fls) := atomLanes G' (fun s pa => s.readNum pa G.a.bytes) (fun s pa v => s.store pa (toBytes G.a.bytes v)) s
          (s.atomFlags G' fls, bad ++ es)

/-- Accesses of the register aperture (R30, R86, R147): each lane once, at its size, in lane order. -/
def State.deviceLine (s : State) (G : Group) (near : Bool) : State × List (Nat × LaneEnd) :=
  if near then (s, G.all .stay)
  else
    match G.a.kind with
    | .load | .view =>
      G.lanes.foldl (fun (acc : State × List (Nat × LaneEnd)) l =>
        let (s, v) := (acc.1.charge G.part G.x 11 1).devLoad G.x l.2.1 G.a.bytes
        (s, acc.2 ++ [(l.1.lane, .value v)])) (s, [])
    | .store | .flag =>
      (G.lanes.foldl (fun s l => (s.charge G.part G.x 11 1).devStore G.x l.2.1 G.a.bytes l.1.data) s, G.all .ok)
    | _ => (s, G.all .ok)

/-! ## Constant loads (R16, R79) -/

/-- A constant load's lanes on one line that the constant cache misses, of memory type 0 or 1 of HBM4: kept, unless it is tagged or
poisoned (R93, R171). -/
def State.constMiss (s : State) (G : Group) (own : List Nat) (vline : Nat) : State × List (Nat × LaneEnd) :=
  let (s, r, tagged) := s.resolve G.part G.x (G.line * 128) own none
  match G.readEnd r with
  | some es => (s, es)
  | none =>
    let s := (s.chargeConst G.part G.x).sliceServe G false
    match r with
    | .prior bs bad => (s, G.values (halfMask bad) bs)
    | _ =>
      let bs := s.homeLine G.line
      let bad := s.badHalves G.line
      (if tagged ∨ bad ≠ 0 then s
       else s.updCluster G.cl fun k => { k with kcache := ((G.x, vline, bs) :: k.kcache).take 512 }, G.values (halfMask bad) bs)

/-- A constant load's lanes on one line: from the constant cache, or fetched into it. Lines are named by context and virtual
line. A page of type 2 and the host window, which acts as type 2 whatever its type, are read each time (R14, R30, R86). -/
def State.constLine (s : State) (G : Group) (own : List Nat) (near : Bool) : State × List (Nat × LaneEnd) :=
  let vline := ((G.lanes.head?.map (·.1.va)).getD 0) / 128
  match (s.cluster G.cl).kcache.find? fun e => e.1 == G.x && e.2.1 == vline with
  | some e => (s.chargeConst G.part G.x, G.values 0 e.2.2)
  | none =>
    if inHbm (G.line * 128) && decide (G.mt ≤ 1) then
      match s.sliceTurn G false near with
      | (s, false) => (s, G.all .stay)
      | (s, true) => s.constMiss G own vline
    else if near then (s, G.all .stay)
    else
      match if inHbm (G.line * 128) then s.dropTurn G.line false else (s, false) with
      | (s, true) => (s, G.all .stay)
      | (s, false) =>
        match s.readUncached G own with
        | (s, es) => (if es.any fun e => e.2 != .stay && e.2 != .park then s.chargeConst G.part G.x else s, es)

/-! ## One operation -/

/-- One group performed as far as it can be now; `near` serves only what the cluster holds itself and what leaves for another
package. -/
def State.serveGroup (s : State) (G : Group) (own : List Nat) (near : Bool) : State × List (Nat × LaneEnd) :=
  match G.far with
  | some pkg => s.sendGroup G pkg
  | none =>
    if inAperture (G.line * 128) then s.deviceLine G near
    else if G.a.sp = 2 ∧ G.mt ≠ 3 then s.constLine G own near
    else if 2 ≤ G.mt ∨ !inHbm (G.line * 128) then s.uncachedLine G own near
    else
      match G.a.kind with
      | .load => s.loadLine G own near
      | .view => s.viewLine G near
      | .store => s.storeLine G near
      | .flag =>
        match s.sliceTurn G true near with
        | (s, false) => (s, G.all .stay)
        | (s, true) => s.storeHome G
      | .csg => s.csgLine G near
      | .atom | .cas | .atomf => s.atomLine G near
      | .pf => s.pfLine G
      | .wb => s.wbLine G
      | .inv => (s.updL1 G.cl fun m => dropClean m G.line, G.all .ok)

/-- The stop of what owns a register of a window, for a cluster (R86, R95): the trace and capture collector of its die for the profiling
registers, the power and sensor interface for meters and power, the scrubber of a slice's die for its status, the register-aperture gateway
of a die for its torus and its clusters, and the H-die for everything else (log 140, DESIGN CHOICE). -/
def unitStop (cl win off : Nat) : Stop :=
  let bar := win == 128 && decide (0x20000 ≤ off)
  if !bar && decide (0x4000 ≤ off ∧ off < 0x13000) then serviceStop (cl / 40) 1
  else if !bar && decide (0x280 ≤ off ∧ off < 0x2E0) then serviceStop (cl / 40) 2
  else if bar && decide (0x400000 ≤ off ∧ off < 0x420290) then serviceStop (cl / 40) 2
  else if bar && decide (0x450100 ≤ off ∧ off < 0x450300) then serviceStop ((off - 0x450100) / 128) 3
  else if bar && decide (0x450000 ≤ off ∧ off < 0x450020) then serviceStop ((off - 0x450000) / 8) 0
  else if bar && decide (0x1000000 ≤ off ∧ off < 0x1A00000) then serviceStop ((off - 0x1000000) / 0x10000 / 40) 0
  else hostStop

/-- The stop of what owns a register of the aperture. -/
def apertureStop (cl pa : Nat) : Stop :=
  match apertureAt pa with
  | some (u, o) => unitStop cl u o
  | none => hostStop

/-- The stop of what serves a group (R95, R96): the H-die for another package and for the host, the owner of a register, the home
slice. -/
def Group.stop (G : Group) : Stop :=
  if G.far.isSome || inHost (G.line * 128) then hostStop
  else if inAperture (G.line * 128) then apertureStop G.cl ((G.lanes.head?.map (·.2.1)).getD (G.line * 128))
  else sliceStop (homeSlice (G.line * 128))

/-- A group's request enters the torus (R95-R97): one flit, three with data. It is answered with data, or acknowledged when it
only stores; the answers of the H-die are taken at their events (log 140). -/
def State.groupPacket (s : State) (G : Group) : State :=
  if s.onNet G.who then s
  else
    let kind := G.a.kind
    let reads := kind != .store && kind != .flag && kind != .csg
    s.inject 0 (if atWrites kind.atype then 3 else 1) (clusterStop G.cl) G.stop (G.mt == 3)
      (if G.stop.die = hDie then none else some (if reads then (1, 3) else (2, 1))) G.who

/-- The group's lanes leave the cluster: to its home when the cluster could not serve them, or sent to another package. -/
def leaves (near : Bool) (es : List (Nat × LaneEnd)) : Bool :=
  es.any fun e => match e.2 with
    | .stay => near
    | .sent _ => true
    | _ => false

/-- A lane that is ready, with where it goes. -/
structure ReadyLane where
  far : Option Nat
  line : Nat
  mt : Nat
  la : LaneAcc
  pa : Nat
  cg : Bool
  deriving DecidableEq, Repr

/-- A lane that is ready, of an operation of some access. -/
def LaneAcc.ready? (l : LaneAcc) : Option ReadyLane :=
  match l.st with
  | .ready far pa mt cg => some ⟨far, pa / 128, mt, l, pa, cg⟩
  | _ => none

/-- Two spans of `n` bytes overlap. -/
def meet (a b n : Nat) : Bool := decide (a < b + n ∧ b < a + n)

/-- The ready lanes of an operation, each with whether it is held back: by an earlier access of its thread to its bytes (R127), or, where
it writes, by a lower lane to the same bytes that is held or cannot be performed yet, as they take effect in ascending lane
order (R316, R329). -/
def Gang.boundLanes (g : Gang) (o : Op) (a : Acc) : List (ReadyLane × Bool) :=
  (o.lanes.foldl (fun (acc : List (ReadyLane × Bool) × List LaneAcc) l =>
    match l.ready? with
    | some r =>
      let lower := atWrites a.kind.atype &&
        ((acc.1.any fun q => q.2 && q.1.far == r.far && meet q.1.pa r.pa a.bytes) || acc.2.any fun m => meet m.va l.va a.bytes)
      (acc.1 ++ [(r, g.blocked o a l || lower)], acc.2)
    | none => match l.st with
      | .done | .remote _ => acc
      | _ => (acc.1, acc.2 ++ [l])) ([], [])).1

/-- The unit that an address of memory type 3 belongs to: a window, the host endpoint, a home slice. -/
def destUnit (pa : Nat) : Nat :=
  if inAperture pa then 2 ^ 20 + ((apertureAt pa).map (·.1)).getD 0 else if inHost pa then 2 ^ 19 else homeSlice pa

/-- A device-type lane waits for those before it: its gang's to the same unit arrive in issue order (R100), so that it waits for every
lane whose unit is not known yet or whose line's tag is being asked for, and its thread's are performed in program order (R147).
Another thread's lane that waits for a page's response is issued anew when it replays (log 173, DEDUCED). -/
def Gang.deviceHeld (g : Gang) (o : Op) (r : ReadyLane) : Bool :=
  g.ops.any fun p => decide (p.id < o.id) && p.lanes.any fun m => match m.st with
    | .ready none pa 3 _ => destUnit pa == destUnit r.pa
    | .fresh | .walking | .parked => true
    | .stalled | .faulted _ _ _ => m.lane == r.la.lane
    | _ => false

/-- A lane of another package's line waits until its operation's lanes are all translated, so that each line or element leaves in
one request (R103, R112), and behind the gang's earlier requests to its line (R101). -/
def Gang.farHeld (g : Gang) (o : Op) (rs : List (ReadyLane × Bool)) (r : ReadyLane) : Bool :=
  (o.lanes.any fun l => l.st == .fresh || l.st == .walking) ||
  (rs.any fun q => q.2 && q.1.far == r.far && q.1.line == r.line) ||
  g.ops.any fun p => decide (p.id < o.id) && p.lanes.any fun m => match m.st with
    | .ready far pa _ _ => far == r.far && pa / 128 == r.line
    | _ => false

/-- The ready lanes of an operation that nothing holds back. A consignment store's lanes have been counted first (R165). -/
def Gang.readyLanes (g : Gang) (o : Op) (a : Acc) : List ReadyLane :=
  let rs := g.boundLanes o a
  (rs.filter fun r =>
    !r.2 && (a.kind != .csg || r.1.la.cmp != 0) &&
      (if r.1.far.isSome then !g.farHeld o rs r.1 else r.1.mt != 3 || !g.deviceHeld o r.1)).map (·.1)

/-- The lanes of a consignment store are judged against their slot in ascending lane order, once each has been translated or
has faulted (R165); `cmp` keeps a counted lane's manifest index plus one. A line of the record that has to be waited for holds the lanes
from there on. -/
def State.countEach (cl slot : Nat) (o : Op) (a : Acc) (x : Nat) : List LaneAcc → State → State
  | [], s => s
  | l :: ls, s =>
    match l.ready? with
    | none => State.countEach cl slot o a x ls s
    | some r =>
      if l.cmp ≠ 0 then State.countEach cl slot o a x ls s
      else
        match s.countLine cl slot x a.slot (r.far.getD s.pkgId) r.line with
        | (s, .busy) => s
        | (s, .limit) => State.countEach cl slot o a x ls (s.endLanes cl slot a o [(l.lane, .trap 7)])
        | (s, .at' i) => State.countEach cl slot o a x ls (s.updOp cl slot o.id fun o =>
            { o with lanes := o.lanes.map fun m => if m.lane = l.lane then { m with cmp := i } else m })

def State.countLanes (s : State) (cl slot : Nat) (o : Op) (a : Acc) (x : Nat) : State :=
  if a.kind ≠ .csg ∨ (o.lanes.any fun l => l.st == .fresh || l.st == .walking) = true then s
  else State.countEach cl slot o a x o.lanes s

/-- A package's lanes that write drop its local copies of their lines at issue (R108). -/
def State.dropCopies (s : State) (o : Op) (a : Acc) : State :=
  if !atWrites a.kind.atype || a.kind == .wb then s
  else o.lanes.foldl (fun s l => match l.ready? with
    | some r => if r.far.isSome then s.dropLine r.far r.pa else s
    | none => s) s

/-- The groups of lanes that are performed together: one line of one package, of one memory type (R30). -/
def ReadyLane.key (r : ReadyLane) : Option Nat × Nat × Nat := (r.far, r.line, r.mt)

/-- Serve an operation's ready lanes, the lines in order of their lowest lane. -/
def State.serveOp (s : State) (cl slot id : Nat) (near : Bool) : State :=
  match (s.gang? cl slot).bind fun g => (g.op? id).bind fun o => (accOf o.instr).map fun a => (g.ctx, o, a) with
  | none => s
  | some (x, o, a) =>
    let s := (s.dropCopies o a).countLanes cl slot o a x
    match (s.gang? cl slot).bind fun g => (g.op? id).map fun o => (g, o) with
    | none => s
    | some (g, o) =>
      let rs := g.readyLanes o a
      let s := ((rs.map (·.key)).eraseDups).foldl (fun s k =>
        let G : Group := { cl, slot, o, a, x, far := k.1, line := k.2.1, mt := k.2.2
                           lanes := (rs.filter fun r => r.key == k).map fun r => (r.la, r.pa, r.cg) }
        let (s, es) := s.serveGroup G g.ownIds near
        let s := if leaves near es then s.groupPacket G else s
        s.endLanes cl slot a o es) s
      s.closeOp cl slot id

/-! ## Translating lanes -/

/-- A miss of the TLBs (R43): it joins a walk of the same function, CTXID and page, takes a free engine, or waits in arrival
order. -/
def State.miss (s : State) (cl x va a : Nat) : State :=
  let p := partOf cl
  let pt := s.part p
  let same := fun y v => fnOf y == fnOf x && s.asid y == s.asid x && v / 2 ^ 18 == va / 2 ^ 18
  if pt.walks.any (fun w => same w.2.ctx w.2.va) ∨ pt.missq.any (fun m => same m.2.1 m.2.2.1) then s
  else
    match (List.range 32).find? fun e => !pt.walks.has e with
    | some e => { s with parts := s.parts.set p { pt with walks := pt.walks.set e (Walk.begin s p cl x va a) } }
    | none => { s with parts := s.parts.set p { pt with missq := pt.missq ++ [(cl, x, va, a)] } }

/-- One lane of an operation translated where a TLB holds its page; otherwise it waits for a walk. -/
def State.translateLane (s : State) (cl slot x : Nat) (o : Op) (a : Acc) (l : LaneAcc) : State :=
  let (s, hit) := s.tlbLook cl x l.va a.kind.atype
  match hit with
  | some e => s.updOp cl slot o.id fun o => o.bindLane l.lane (e.xlat l.va)
  | none => (s.miss cl x l.va a.kind.atype).updOp cl slot o.id fun o => o.setLane l.lane .walking

/-- Translate an operation's fresh lanes, then serve what the cluster holds. -/
def State.startOp (s : State) (cl slot id : Nat) : State :=
  match s.gang? cl slot with
  | none => s
  | some g =>
    match g.op? id with
    | none => s
    | some o =>
      match accOf o.instr with
      | none => s
      | some a =>
        let s := (o.lanes.filter fun l => l.st == .fresh).foldl (fun s l => s.translateLane cl slot g.ctx o a l) s
        s.serveOp cl slot id true

end Sys2Proof.Machine
end

