-- ==== Sys2Proof/Machine/Fetch.lean ====
section
/-! DEFINITION. Instruction fetch (01:R20, R21; 03:R79): words through the context's translation and the instruction cache,
and what a fetch that fails does. Its energy is part of the issue toll. -/

namespace Sys2Proof.Machine

/-- The outcome of a fetch. -/
inductive Fetched where
  | words (ws : List Word)
  /-- An address that is not canonical. -/
  | form (va : Nat)
  /-- A walk or attribute fault at an address. -/
  | fault (va : Nat) (f : WalkFault)
  /-- An access fault of a subtype at an address: poison, or a line at a fabric home that cannot be reached. -/
  | denied (sub va : Nat)
  /-- It has to wait and is to be made again. -/
  | waits
  deriving DecidableEq, Repr

/-- A line of instruction memory as a fetch reads it: its virtual line, its bytes, its bad halves, and whether the cache may keep
it: neither a line with a bad half nor a tagged one (R80, R171). -/
structure FetchLine where
  line : Nat
  bytes : List Byte
  bad : Nat
  keep : Bool
  deriving DecidableEq, Repr

/-- The address of the first word of a fetch from `va` on that lies on a line: what a fault of that line names (R47). -/
def fetchedPc (va l : Nat) : Nat := if va / 128 = l then va else l * 128

/-- The translations of the lines of a fetch from `va` on, in order, up to the first that fails. -/
def fetchXlats (cl x va : Nat) : List Nat → State → State × (List (Nat × Xlat) ⊕ Fetched)
  | [], s => (s, .inl [])
  | l :: ls, s =>
    if !canonical (l * 128) then (s, .inr (.form (fetchedPc va l)))
    else
      match s.translate cl x (fetchedPc va l) atFetch with
      | (s, .fault f) => (s, .inr (match f.trap with | some n => .denied n (fetchedPc va l) | none => .fault (fetchedPc va l) f))
      | (s, .waits) => (s, .inr .waits)
      | (s, .ok t) =>
        match fetchXlats cl x va ls s with
        | (s, .inl ts) => (s, .inl ((l, t) :: ts))
        | r => r

/-- The access of a fetch to a line of another package. -/
def fetchAsk (cl x pkg : Nat) (t : Xlat) : FarAsk := { cl, x, eng := 1, write := false, pkg, pa := t.pa / 128 * 128, n := 128 }

/-- A line that a fetch misses is brought into its slice (R30, R90). The fetch's energy is part of the issue toll (R79); an eviction is
charged (R92). With all registers busy it bypasses (R91). -/
def State.fetchFill (s : State) (p x pa : Nat) : State :=
  if (s.l2Find none pa).isSome || (s.slice (homeSlice pa)).freeReg.isNone then s
  else s.l2Alloc p x (s.waysOf (fnOf x)) none pa false []

/-- A line of this package read by a fetch, as a read of its line resolves (R170). A host-window page of type 0 or 1 acts as type 2 (R14): the
fetch is accepted, its line not kept (log 166, DESIGN CHOICE). -/
def State.fetchNear (s : State) (cl x : Nat) (own : List Nat) (l : Nat) (t : Xlat) : State × (FetchLine ⊕ Fetched) :=
  let line := t.pa / 128
  if !inHbm t.pa then (s, .inl ⟨l, s.homeLine line, 0, false⟩)
  else
    match s.unitWaits cl x line false false with
    | (s, true) => (s, .inr .waits)
    | (s, false) =>
      match s.resolve (partOf cl) x (line * 128) own none with
      | (s, .ask _, _) => (s, .inr .waits)
      | (s, .busy, _) => (s, .inr .waits)
      | (s, .lost, _) => (s, .inr (.denied 4 (l * 128)))
      | (s, .prior bs bad, _) => ((s.unitTrip cl t.pa false).fetchFill (partOf cl) x (line * 128), .inl ⟨l, bs, bad, false⟩)
      | (s, _, tagged) =>
        let s := (s.unitTrip cl t.pa false).fetchFill (partOf cl) x (line * 128)
        (s, .inl ⟨l, s.homeLine line, s.badHalves line, !tagged && s.badHalves line == 0⟩)

/-- A line of a fetch: of this package, or of another one as its fabric home returns it (R101). A line whose answer says that it is tagged is
not kept (R171). -/
def State.fetchRead (s : State) (cl x : Nat) (own : List Nat) (l : Nat) (t : Xlat) : State × (FetchLine ⊕ Fetched) :=
  match t.far with
  | none => s.fetchNear cl x own l t
  | some pkg =>
    let tagged := s.farGot.any fun g => g.ask == fetchAsk cl x pkg t && g.tagged
    match s.farUnit (partOf cl) t.mt (fetchAsk cl x pkg t) (some t.via) [] with
    | (s, .bytes bs) => (s, .inl ⟨l, bs, 0, !tagged⟩)
    | (s, .trap n) => (s, .inr (.denied n (l * 128)))
    | (s, .waits) => (s, .inr .waits)

/-- Lines read one after another, up to the first that fails. -/
def fetchReads (cl x : Nat) (own : List Nat) : List (Nat × Xlat) → State → State × (List FetchLine ⊕ Fetched)
  | [], s => (s, .inl [])
  | t :: ts, s =>
    match s.fetchRead cl x own t.1 t.2 with
    | (s, .inr r) => (s, .inr r)
    | (s, .inl b) =>
      match fetchReads cl x own ts s with
      | (s, .inl bs) => (s, .inl (b :: bs))
      | r => r

/-- The copy that the package holds of a line of another package (R108). -/
def State.farCopy (s : State) (t : Xlat) : Bool := decide (t.mt ≤ 1) && (s.l2Find t.far t.pa).isSome

/-- An answer of a fetch that no copy can stand for: of a tagged line, or for a function without a way to allocate in (R108, R171). -/
def State.uncopied (s : State) (x : Nat) (g : FarGot) : Bool := g.sub.isSome || g.tagged || bitsOf (s.waysOf (fnOf x)) 0 32 == 0

/-- A line of another package is at hand: held as a copy, or answered. Of a fetch of several lines an answer counts alone only where there
can be no copy, so that the lines are those of one moment (R237; log 168, DESIGN CHOICE). -/
def State.farAtHand (s : State) (cl x : Nat) (many : Bool) (t : Xlat) : Bool :=
  match t.far with
  | none => true
  | some pkg => s.farCopy t || s.farGot.any fun g => g.ask == fetchAsk cl x pkg t && (!many || s.uncopied x g)

/-- The answers of a fetch of several lines that are not used: a copy stands for them, or has been lost since. -/
def State.dropAnswers (s : State) (cl x : Nat) (ts : List (Nat × Xlat)) : State :=
  { s with farGot := s.farGot.filter fun g => s.uncopied x g || !ts.any fun t => match t.2.far with
      | some pkg => g.ask == fetchAsk cl x pkg t.2
      | none => false }

/-- All lines of a fetch read in one step (R237): first the requests for lines that are not at hand leave. -/
def State.fetchAll (s : State) (cl x : Nat) (own : List Nat) (ts : List (Nat × Xlat)) : State × (List FetchLine ⊕ Fetched) :=
  let many := decide (1 < ts.length)
  let s := if many then s.dropAnswers cl x ts else s
  match ts.filter fun t => !s.farAtHand cl x many t.2 with
  | [] =>
    match fetchReads cl x own (ts.filter (·.2.far.isNone)) s with
    | (s, .inr r) => (s, .inr r)
    | (s, .inl bs) =>
      match fetchReads cl x own (ts.filter (·.2.far.isSome)) s with
      | (s, .inr r) => (s, .inr r)
      | (s, .inl cs) => (s, .inl (bs ++ cs))
  | away =>
    away.foldl (fun (acc : State × (List FetchLine ⊕ Fetched)) t =>
      match acc with
      | (s, .inr (.denied n va)) => (s, .inr (.denied n va))
      | (s, _) => match s.fetchRead cl x own t.1 t.2 with
        | (s, .inr r) => (s, .inr r)
        | (s, .inl _) => (s, .inr .waits)) (s, .inr .waits)

/-- A word of a line. -/
def wordAt (bs : List Byte) (o : Nat) : Word :=
  BitVec.ofNat 32 (fromBytes ((List.range 4).map fun i => bs.getD (o + i) 0))

/-- `n` words from an address on, out of lines. -/
def wordsOf (ls : List FetchLine) (va n : Nat) : Fetched :=
  let at' := fun i => (va + 4 * i) % 2 ^ 64
  let lineOf := fun a => (ls.find? (·.line == a / 128)).getD ⟨0, [], 0, false⟩
  match (List.range n).find? fun i => spanBad (halfMask (lineOf (at' i)).bad) (at' i % 128) 4 with
  | some i => .denied 3 (at' i)
  | none => .words ((List.range n).map fun i => wordAt (lineOf (at' i)).bytes (at' i % 128))

/-- `n` instruction words from an address on. The lines of one fetch come from the cache only where one fetch read them all, so
that no clause joins two versions (R237). `own` are the identifiers open in the fetching gang's slots (R170). -/
def fetchWords (s : State) (cl x : Nat) (own : List Nat) (va n : Nat) : State × Fetched :=
  let lines := (List.range ((va % 128 + 4 * n - 1) / 128 + 1)).map fun i => (va / 128 + i) % 2 ^ 57
  match fetchXlats cl x va lines s with
  | (s, .inr r) => (s, r)
  | (s, .inl ts) =>
    let held := (s.cluster cl).icache.filter fun e => e.ctx == x && lines.contains e.line
    if held.length = lines.length ∧ held.all (fun e => e.pass == (held.head?.map (·.pass)).getD 0) = true then
      (s, wordsOf (held.map fun e => ⟨e.line, e.bytes, 0, true⟩) va n)
    else
      match s.fetchAll cl x own ts with
      | (s, .inr r) => (s, r)
      | (s, .inl ls) =>
        let pass := ((s.cluster cl).icache.map (·.pass)).foldl Nat.max 0 + 1
        let new := (ls.filter (·.keep)).map fun l => ({ ctx := x, line := l.line, pass, bytes := l.bytes } : InstrLine)
        (s.updCluster cl fun k => { k with
          icache := (new ++ k.icache.filter fun e => !(e.ctx == x && lines.contains e.line)).take 1024 }, wordsOf ls va n)

/-- An access trap of a fetch at an address. -/
def fetchTrap (sub va : Nat) (ls : List Nat) : TrapRec :=
  { cls := clsAccess, subtype := sub, pc := BitVec.ofNat 64 va, faddr := BitVec.ofNat 64 va, lanemask := maskOf ls
    actmask := maskOf ls, eng := 1, lcause := if sub = 1 then laneCauses ls 1 else if sub = 3 then laneCauses ls 4 else 0 }

/-- A fetch made for an instruction in issue fails (R20): a PC that is not canonical takes an address-form fault, and one that its
home cannot serve an access fault; any other fault raises a page request of ENG 1 on which the thread waits. A user handler
takes the trap at once (R459). -/
def fetchFault (s : State) (c : Ctxt) (r : Fetched) : Eff :=
  match r with
  | .words _ => .trap (trapOf clsIllegalClause c.act)
  | .form va => .stop s { fetchTrap 1 va c.act with iaddr := c.q.addr }
  | .denied n va => .stop s { fetchTrap n va c.act with iaddr := c.q.addr }
  | .waits => .wait s (.retry (s.cycles + 1))
  | .fault va f =>
    if c.q.scalar then .trap (trapOf clsTranslation c.act)
    else
      let (s, req) := s.raise (partOf c.q.cl) c.g.ctx va f ⟨1, 0, BitVec.ofNat 64 va⟩
      .wait s (.fetch req va c.q.addr)

end Sys2Proof.Machine
end

