-- ==== Sys2Proof/Machine/IntInstr.lean ====
section
/-! DEFINITION. The integer, bit, move and index-register instructions: majors 0x01 to 0x04 (11:R262-R275). -/

namespace Sys2Proof.Machine


/-- Two typed sources to an exact integer, written wrapped or saturated (R262). -/
def int2 (i : Instr) (f : Fields) (s : State) (k : Nat) (sat : Bool) (op : Int → Int → Int) : Out :=
  issueWith i f s fun c s =>
    let t := tyOf f
    let n := tyRegs t
    intEff c s n (k * tyToll t) fun l => tyFit t sat (op (tyVal t (c.a n l)) (tyVal t (c.b n l)))

/-- One typed source to an exact integer. -/
def int1 (i : Instr) (f : Fields) (s : State) (sat : Bool) (op : Int → Int) : Out :=
  issueWith i f s fun c s =>
    let t := tyOf f
    let n := tyRegs t
    intEff c s n (tyToll t) fun l => tyFit t sat (op (tyVal t (c.a n l)))

/-- Three typed sources to an exact integer. -/
def int3 (i : Instr) (f : Fields) (s : State) (k : Nat) (sat : Bool) (op : Int → Int → Int → Int) : Out :=
  issueWith i f s fun c s =>
    let t := tyOf f
    let n := tyRegs t
    intEff c s n (k * tyToll t) fun l =>
      tyFit t sat (op (tyVal t (c.a n l)) (tyVal t (c.b n l)) (tyVal t (c.c3 n l)))

/-- Bits 2w−1:w of an exact product (R262). -/
def highHalf (w : Nat) (v : Int) : Int := (v % ((2 ^ (2 * w) : Nat) : Int)) / ((2 ^ w : Nat) : Int)

def execAdd (f : Fields) (s : State) : Out := int2 (.add f) f s 1 (satOf f) (· + ·)
def execSub (f : Fields) (s : State) : Out := int2 (.sub f) f s 1 (satOf f) (· - ·)

/-- Carry-in of a lane (R263): CIE in AUX bit 10, CIP in bits 9:7. -/
def carryIn (c : Ctxt) (l : Nat) : Int :=
  if auxBit c.f 10 && (c.g.thread l).pred (auxBits c.f 7 3) then 1 else 0

/-- Add or subtract with carry (R263): the exact value and the carry-out condition. -/
def carryOp (i : Instr) (f : Fields) (s : State) (op : Int → Int → Int → Int) : Out :=
  issueWith i f s fun c s =>
    let t := tyOf f
    let n := tyRegs t
    let w := tyWidth t
    let v := fun l => op ((c.a n l % 2 ^ w : Nat) : Int) ((c.b n l % 2 ^ w : Nat) : Int) (carryIn c l)
    let s := writeRegs (chargeLanes s c 1 (tyToll t)) c f.vd.toNat n fun l => code w (v l)
    .go (writePred s c (auxBits f 4 3) fun l => decide (v l < 0 ∨ ((2 ^ w : Nat) : Int) ≤ v l)) []

def execAddc (f : Fields) (s : State) : Out := carryOp (.addc f) f s fun a b ci => a + b + ci
def execSubc (f : Fields) (s : State) : Out := carryOp (.subc f) f s fun a b ci => a - b - ci

def execNeg (f : Fields) (s : State) : Out := int1 (.neg f) f s (satOf f) fun a => -a
def execAbs (f : Fields) (s : State) : Out := int1 (.abs f) f s (satOf f) fun a => if a < 0 then -a else a
def execMin (f : Fields) (s : State) : Out := int2 (.min f) f s 1 false fun a b => if b < a then b else a
def execMax (f : Fields) (s : State) : Out := int2 (.max f) f s 1 false fun a b => if a < b then b else a
def execMul (f : Fields) (s : State) : Out := int2 (.mul f) f s 2 (satOf f) (· * ·)
def execMulhi (f : Fields) (s : State) : Out :=
  int2 (.mulhi f) f s 2 false fun a b => highHalf (tyWidth (tyOf f)) (a * b)

/-- mulw: the exact product at width 2w, a pair for w = 32 (R262). -/
def execMulw (f : Fields) (s : State) : Out :=
  issueWith (.mulw f) f s fun c s =>
    let t := tyOf f
    let v := fun l => tyVal t (c.a 1 l) * tyVal t (c.b 1 l)
    intEff c s (if t ≤ 1 then 2 else 1) 2 fun l => code (2 * tyWidth t) (v l)

def execMad (f : Fields) (s : State) : Out := int3 (.mad f) f s 2 (satOf f) fun a b d => a * b + d
def execMadhi (f : Fields) (s : State) : Out :=
  int3 (.madhi f) f s 2 false fun a b d => highHalf (tyWidth (tyOf f)) (a * b) + d
def execSad (f : Fields) (s : State) : Out :=
  int3 (.sad f) f s 1 false fun a b d => (if a < b then b - a else a - b) + d
def execAvg (f : Fields) (s : State) : Out := int2 (.avg f) f s 1 false fun a b => (a + b + 1) / 2
def execClamp (f : Fields) (s : State) : Out :=
  int3 (.clamp f) f s 1 false fun a b d => let m := if a < b then b else a; if d < m then d else m

/-! ## Bit operations -/

/-- A result given as a w-bit code (R264). -/
def bits2 (i : Instr) (f : Fields) (s : State) (op : Nat → Nat → Nat → Nat) : Out :=
  issueWith i f s fun c s =>
    let t := tyOf f
    let n := tyRegs t
    let w := tyWidth t
    intEff c s n (tyToll t) fun l => tyPlace t (op w (c.a n l % 2 ^ w) (c.b n l % 2 ^ w))

/-- A bitwise result from one source. -/
def bits1 (i : Instr) (f : Fields) (s : State) (op : Nat → Nat → Nat) : Out :=
  issueWith i f s fun c s =>
    let t := tyOf f
    let n := tyRegs t
    let w := tyWidth t
    intEff c s n (tyToll t) fun l => tyPlace t (op w (c.a n l % 2 ^ w))

/-- A shift or rotate by the 32-bit unsigned value of b (R264). -/
def shiftOp (i : Instr) (f : Fields) (s : State) (op : Nat → Nat → Nat → Nat) : Out :=
  issueWith i f s fun c s =>
    let t := tyOf f
    let n := tyRegs t
    let w := tyWidth t
    intEff c s n (tyToll t) fun l => tyPlace t (op w (c.a n l % 2 ^ w) (c.b 1 l))

/-- A 32-bit count of the w bits of a. -/
def countOp (i : Instr) (f : Fields) (s : State) (op : Nat → Nat → Nat) : Out :=
  issueWith i f s fun c s =>
    let t := tyOf f
    let w := tyWidth t
    intEff c s 1 (tyToll t) fun l => op w (c.a (tyRegs t) l % 2 ^ w)

/-- The complement of a w-bit code. -/
def notBits (w a : Nat) : Nat := 2 ^ w - 1 - a % 2 ^ w
/-- Left rotation of a w-bit code. -/
def rotBits (w a k : Nat) : Nat := a * 2 ^ (k % w) % 2 ^ w + a / 2 ^ (w - k % w)
/-- Arithmetic right shift of a w-bit code; k of w or more gives all sign bits. -/
def sarBits (w a k : Nat) : Nat := code w (sgn w a / ((2 ^ Nat.min k w : Nat) : Int))
/-- The w bits in reverse order. -/
def revBits (w a : Nat) : Nat := maskOf ((List.range w).filter fun i => bitOf a (w - 1 - i))

def execAnd (f : Fields) (s : State) : Out := bits2 (.and f) f s fun _ a b => a &&& b
def execOr (f : Fields) (s : State) : Out := bits2 (.or f) f s fun _ a b => a ||| b
def execXor (f : Fields) (s : State) : Out := bits2 (.xor f) f s fun _ a b => a ^^^ b
def execAndn (f : Fields) (s : State) : Out := bits2 (.andn f) f s fun w a b => a &&& notBits w b
def execNot (f : Fields) (s : State) : Out := bits1 (.not f) f s fun w a => notBits w a

/-- One result bit of lop3 (R265): the nibble chosen by the old bit, indexed by 2a + b. -/
def lop3Word (n0 n1 a b d : Nat) : Nat :=
  maskOf ((List.range 32).filter fun j => bitOf (if bitOf d j then n1 else n0) (2 * b2n (bitOf a j) + b2n (bitOf b j)))

def execLop3 (f : Fields) (s : State) : Out :=
  issueWith (.lop3 f) f s fun c s =>
    intEff c s 1 1 fun l => lop3Word (auxBits f 0 4) (auxBits f 4 4) (c.a 1 l) (c.b 1 l) (c.d 1 l)

def execShl (f : Fields) (s : State) : Out :=
  shiftOp (.shl f) f s fun w a k => if w ≤ k then 0 else a * 2 ^ k
def execShr (f : Fields) (s : State) : Out :=
  shiftOp (.shr f) f s fun w a k => if w ≤ k then 0 else a / 2 ^ k
def execSar (f : Fields) (s : State) : Out := shiftOp (.sar f) f s sarBits
def execRotl (f : Fields) (s : State) : Out := shiftOp (.rotl f) f s rotBits
def execRotr (f : Fields) (s : State) : Out := shiftOp (.rotr f) f s fun w a k => rotBits w a (w - k % w)

/-- The funnel shift of the pair b:a by min(c, 32) (R266). -/
def funnel (right : Bool) (a b k : Nat) : Nat :=
  let y := b * 2 ^ 32 + a
  let k := Nat.min k 32
  if right then y / 2 ^ k % 2 ^ 32 else y * 2 ^ k / 2 ^ 32 % 2 ^ 32

def execShf (f : Fields) (s : State) : Out :=
  issueWith (.shf f) f s fun c s =>
    intEff c s 1 1 fun l => funnel (auxBit f 3) (c.a 1 l) (c.b 1 l) (c.c3 1 l)

/-- Field extract (R267). -/
def bfeVal (t a p len : Nat) : Nat :=
  let w := tyWidth t
  if w ≤ p ∨ len = 0 then 0
  else
    let n := Nat.min len (w - p)
    let v := bitsOf a p n
    tyPlace t (if tySigned t then sgn n v else v)

/-- Field insert into the old value (R267). -/
def bfiVal (t a p len d : Nat) : Nat :=
  let w := tyWidth t
  if w ≤ p ∨ len = 0 then d else setBits d p (Nat.min len (w - p)) a

def execBfe (f : Fields) (s : State) : Out :=
  issueWith (.bfe f) f s fun c s =>
    let t := tyOf f
    intEff c s (tyRegs t) (tyToll t) fun l => bfeVal t (c.a (tyRegs t) l) (c.b 1 l) (c.c3 1 l)

def execBfi (f : Fields) (s : State) : Out :=
  issueWith (.bfi f) f s fun c s =>
    let t := tyOf f
    let n := tyRegs t
    intEff c s n (tyToll t) fun l => bfiVal t (c.a n l) (c.b 1 l) (c.c3 1 l) (c.d n l)

def execBrev (f : Fields) (s : State) : Out := bits1 (.brev f) f s revBits
def execPopc (f : Fields) (s : State) : Out := countOp (.popc f) f s popcount

/-! ## Major 0x03 -/

def execClz (f : Fields) (s : State) : Out := countOp (.clz f) f s fun w a => w - bitLen a
/-- The lowest set bit; all ones when there is none (R268). -/
def execFfs (f : Fields) (s : State) : Out :=
  countOp (.ffs f) f s fun w a => ((List.range w).find? (bitOf a ·)).getD 0xFFFFFFFF

/-- Division rounding toward zero with its two fixed cases (R269). -/
def divVal (a b : Int) : Int := if b = 0 then -1 else Int.tdiv a b
/-- Remainder with the sign of a (R269). -/
def remVal (a b : Int) : Int := if b = 0 then a else Int.tmod a b

def execDiv (f : Fields) (s : State) : Out := int2 (.div f) f s 8 false divVal
def execRem (f : Fields) (s : State) : Out := int2 (.rem f) f s 8 false remVal

def execExt (f : Fields) (s : State) : Out :=
  issueWith (.ext f) f s fun c s =>
    let t := tyOf f
    let n := tyRegs t
    intEff c s n (tyToll t) fun l =>
      tyPlace t (if tySigned t then sgn (immU f) (c.a n l) else ((c.a n l % 2 ^ immU f : Nat) : Int))

/-- `a` clamped to an n-bit integer of the type's signedness (R268). -/
def satBits (t n : Nat) (v : Int) : Int :=
  if tySigned t then clampInt (-((2 ^ (n - 1) : Nat) : Int)) (((2 ^ (n - 1) : Nat) : Int) - 1) v
  else clampInt 0 (((2 ^ n : Nat) : Int) - 1) v

def execSat (f : Fields) (s : State) : Out :=
  issueWith (.sat f) f s fun c s =>
    let t := tyOf f
    let n := tyRegs t
    intEff c s n (tyToll t) fun l => tyPlace t (satBits t (immU f) (tyVal t (c.a n l)))

/-- One narrowed value of pack (R270): `src` bits read by signedness, kept or clamped to the narrow type. -/
def narrow (t src : Nat) (sat : Bool) (v : Nat) : Nat :=
  let x : Int := if tySigned t then sgn src v else ((v % 2 ^ src : Nat) : Int)
  code (tyWidth t) (if sat then clampInt (tyMin t) (tyMax t) x else x)

/-- pack (R270). -/
def packVal (t : Nat) (sat : Bool) (a b : Nat) : Nat :=
  if tyWidth t = 16 then narrow t 32 sat a + 2 ^ 16 * narrow t 32 sat b
  else narrow t 16 sat a + 2 ^ 8 * narrow t 16 sat (a / 2 ^ 16) + 2 ^ 16 * narrow t 16 sat b +
    2 ^ 24 * narrow t 16 sat (b / 2 ^ 16)

/-- A narrow field extended to `w` bits by the type's signedness. -/
def widen (t w v : Nat) : Nat := if tySigned t then code w (sgn (tyWidth t) v) else v % 2 ^ tyWidth t

/-- unpack (R270): half or bytes H of a. -/
def unpackVal (t h a : Nat) : Nat :=
  if tyWidth t = 16 then widen t 32 (bitsOf a (16 * h) 16)
  else widen t 16 (bitsOf a (16 * h) 8) + 2 ^ 16 * widen t 16 (bitsOf a (16 * h + 8) 8)

def execPack (f : Fields) (s : State) : Out :=
  issueWith (.pack f) f s fun c s =>
    intEff c s 1 1 fun l => packVal (tyOf f) (satOf f) (c.a 1 l) (c.b 1 l)

def execUnpack (f : Fields) (s : State) : Out :=
  issueWith (.unpack f) f s fun c s =>
    intEff c s 1 1 fun l => unpackVal (tyOf f) (b2n (satOf f)) (c.a 1 l)

def execMov (f : Fields) (s : State) : Out :=
  issueWith (.mov f) f s fun c s =>
    let n := tyRegs (tyOf f)
    intEff c s n (tyToll (tyOf f)) fun l => c.a n l

def execMovl (f : Fields) (lit : BitVec 32) (s : State) : Out :=
  issueWith (.movl f lit) f s fun c s =>
    intEff c s (tyRegs (tyOf f)) (tyToll (tyOf f)) fun _ => code 64 (sgn 32 lit.toNat)

def execSel (f : Fields) (s : State) : Out :=
  issueWith (.sel f) f s fun c s =>
    let n := tyRegs (tyOf f)
    intEff c s n (tyToll (tyOf f)) fun l =>
      if (c.g.thread l).pred (auxBits f 4 3) != auxBit f 3 then c.a n l else c.b n l

/-- The block a gang belongs to. -/
def State.blockOf (s : State) (q : Issue) (g : Gang) : Option Block := (s.cluster q.cl).blocks.find? g.blk

/-- The special registers (R201, R273); in scalar mode lane, gang and role read 0 (R459). -/
def sregVal (s : State) (c : Ctxt) (k l : Nat) : Nat :=
  let blk := s.blockOf c.q c.g
  match k with
  | 0 => if c.q.scalar then 0 else l
  | 1 => if c.q.scalar then 0 else c.g.index
  | 2 => (blk.map (·.bx)).getD 0
  | 3 => (blk.map (·.by')).getD 0
  | 4 => (blk.map (·.bz)).getD 0
  | 5 => c.q.cl
  | 6 => partOf c.q.cl
  | 7 => if c.q.scalar then 0 else c.g.role
  | _ => c.g.jord

def execSreg (f : Fields) (s : State) : Out :=
  issueWith (.sreg f) f s fun c s => intEff c s 1 1 fun l => sregVal s c (immU f) l

/-- Address formation of lea (R272). -/
def leaVal (f : Fields) (a ix : Nat) : Nat :=
  let x : Int := if auxBit f 3 then sgn 32 ix else ix
  code 64 (a + x * ((2 ^ auxBits f 0 3 : Nat) : Int) + immS f)

def execLea (f : Fields) (s : State) : Out :=
  issueWith (.lea f) f s fun c s => intEff c s 2 1 fun l => leaVal f (c.a 2 l) (c.c3 1 l)

def execWadd (f : Fields) (s : State) : Out :=
  issueWith (.wadd f) f s fun c s => intEff c s 2 1 fun l => code 64 (c.a 2 l + tyVal (tyOf f) (c.b 1 l))

/-! ## Index registers -/

/-- Each active lane writes an index register; bit 16 is written as 0 (R274). -/
def writeX (s : State) (c : Ctxt) (i : Nat) (v : Nat → Nat) : State :=
  s.updIss c.q (·.updLanes c.act fun l t =>
    { t with xregs := t.xregs.set i (BitVec.ofNat 32 (setBits (v l) 16 1 0)) })

def execXset (f : Fields) (lit : BitVec 32) (s : State) : Out :=
  issueWith (.xset f lit) f s fun c s =>
    .go (writeX (chargeLanes s c 1 1) c f.vd.toNat fun _ => lit.toNat) []

/-- The window element xmov writes: index register in VD bits 1:0, offset in bits 4:2. -/
def xmovReg (f : Fields) (t : Thread) : Nat := t.winReg (f.vd.toNat % 4) (f.vd.toNat / 4) 0

def execXmov (f : Fields) (s : State) : Out :=
  issueWith (.xmov f) f s fun c s =>
    match c.q.lanes.filter fun l => !(c.g.thread l).winOk c.g.usable (f.vd.toNat % 4) (f.vd.toNat / 4) 1 1 with
    | [] =>
      .go ((chargeLanes s c 1 1).updIss c.q (·.updLanes c.act fun l t =>
        t.setReg (xmovReg f (c.g.thread l)) (c.a 1 l))) []
    | ls => .trap (trapOf clsIndexRange ls)

def execXadd (f : Fields) (s : State) : Out :=
  issueWith (.xadd f) f s fun c s =>
    .go (writeX (chargeLanes s c 1 1) c f.vd.toNat fun l =>
      let x := (c.g.thread l).xreg f.vd.toNat
      setBits x 0 16 (code 16 (xIdx x + immS f))) []

def execXget (f : Fields) (s : State) : Out :=
  issueWith (.xget f) f s fun c s => intEff c s 1 1 fun l => (c.g.thread l).xreg f.vs0.toNat

end Sys2Proof.Machine
end

