-- ==== Sys2Proof/Machine/Mem.lean ====
section
/-! DEFINITION. The memory, atomic, consignment and ordering instructions: majors 0x20 to 0x24 (14:R311-R335, 06:R123-R152,
07:R157-R174). -/

namespace Sys2Proof.Machine

/-! ## Lane addresses and their conditions (R314, R315, R35) -/

/-- The bytes of the issuing thread's scratchpad space (R15, R459). -/
def State.scratchSize (s : State) (c : Ctxt) : Nat :=
  if c.q.scalar then 16384 else ((s.blockOf c.q c.g).map (·.ssize)).getD 0

/-- The base register value of a lane: a pair in the global space, one register otherwise; the row forms take that of the
lowest active lane (R314, R318). -/
def Ctxt.base (c : Ctxt) (a : Acc) (l : Nat) : Nat :=
  (c.g.thread (if a.row then c.low else l)).regsN c.f.vs0.toNat (if a.sp = 0 then 2 else 1)

/-- The address of a lane (R314, R318, R326): base, scaled offset for the forms that have one, and the row's place. -/
def Ctxt.laneAddr (c : Ctxt) (a : Acc) (off : Bool) (l : Nat) : Nat :=
  let v : Int := (c.base a l : Int) + (if off then immS c.f * a.bytes else 0) + (if a.row then l * a.bytes else 0)
  if a.sp = 0 then code 64 v else if a.sp = 1 then swizzle a.slot (code 32 v) else code 32 v

/-- The base of the constant space of the issuing gang's launch (R16). -/
def State.constBase (s : State) (c : Ctxt) : Nat := ((s.blockOf c.q c.g).map (·.cbase.toNat)).getD 0

/-- The cause of a lane's condition of R35 items 2 and 3: 1 address-form, 2 range, 3 alignment, 0 none. A constant load's global address is
judged as one once its offset is in range (R16). -/
def State.laneCause (s : State) (c : Ctxt) (a : Acc) (v : Nat) : Nat :=
  let bad := match a.sp with
    | 0 => if canonical v then 0 else 1
    | 1 => if v < s.scratchSize c then 0 else 2
    | _ =>
      if c.q.scalar || !decide (v + a.bytes ≤ ((s.blockOf c.q c.g).map (·.csize)).getD 0) then 2
      else if canonical ((s.constBase c + v) % 2 ^ 64) then 0 else 1
  if bad ≠ 0 then bad else if v % a.bytes ≠ 0 then 3 else 0

/-- The trap of the lanes' conditions (R315): none is performed; the lowest lane decides the class, each lane has its
cause. -/
def causeTrap (c : Ctxt) (cause : Nat → Nat) (va : Nat → Nat) : Option TrapRec :=
  match c.act.filter fun l => cause l != 0 with
  | [] => none
  | l :: ls =>
    some { cls := if cause l = 3 then clsAlignment else clsAccess, subtype := if cause l = 3 then 0 else cause l
           faddr := BitVec.ofNat 64 (va l), lanemask := maskOf (l :: ls)
           lcause := (l :: ls).foldl (fun n m => n + cause m * 2 ^ (4 * m)) 0 }

/-! ## Gates before an access -/

/-- Instructions a user handler may not execute (R459). -/
def noHandler (c : Ctxt) (e : Eff) : Eff := if c.q.scalar then .trap (trapOf clsIllegalInstr c.act) else e

/-- Operations of the gang with unperformed lanes among some threads. -/
def Gang.pendingOps (g : Gang) (ls : List Nat) : List Nat :=
  (g.ops.filter fun o => o.lanes.any fun l => ls.contains l.lane && l.st != .done).map (·.id)

/-- Loads and atomics of some threads that are not yet bound (R128, R130). -/
def Gang.openLoads (g : Gang) (ls : List Nat) : List Nat :=
  (g.ops.filter fun o => (match accOf o.instr with
      | some a => [AccKind.load, .view, .atom, .cas, .atomf].contains a.kind || a.kind == .inv
      | none => false) &&
    o.lanes.any fun l => ls.contains l.lane && l.st != .done).map (·.id)

/-- Acquires of the issuing threads that are not yet bound (R130), and their drops by `inv` that are not yet made (R335). -/
def Gang.openAcquires (g : Gang) (ls : List Nat) : List Nat :=
  (g.ops.filter fun o => (match accOf o.instr with | some a => a.isAcq || a.kind == .inv | none => false) &&
    o.lanes.any fun l => ls.contains l.lane && l.st != .done).map (·.id)

/-- No access is performed before the acquires before it in its threads are bound (R130). -/
def afterAcquires (c : Ctxt) (s : State) (e : Eff) : Eff :=
  match c.g.openAcquires c.act with
  | k :: ks => .wait s (.ops (k :: ks))
  | [] => e

/-- The scope that an operation naming `sc` runs at (R152). -/
def State.scopeOf (s : State) (c : Ctxt) (sc : Nat) : Nat :=
  if sc = 4 ∧ (s.func (fnOf c.g.ctx)).capTnt = true ∧ c.act ≠ [] then 3 else sc

/-- Scope demotion of an operation that names system scope (R152): counted once for each issue that has an active lane. -/
def State.demoted (s : State) (c : Ctxt) (sc : Nat) : State :=
  if s.scopeOf c sc = sc then s
  else s.updFunc (fnOf c.g.ctx) fun u => { u with scopeDemoted := true, demotions := (u.demotions + 1) % 2 ^ 32 }

/-- A demoted operation traps instead of running, before anything is performed for it, or runs at the scope it is demoted to
(R152). -/
def demote (c : Ctxt) (s : State) (sc : Nat) (e : Nat → Eff) : Eff :=
  if s.scopeOf c sc ≠ sc ∧ (s.func (fnOf c.g.ctx)).trapOnDemote = true then
    .stop (s.demoted c sc) { cls := clsAccess, subtype := 11, lanemask := maskOf c.act, pc := c.q.addr, actmask := maskOf c.act }
  else e (s.scopeOf c sc)

/-- The wait or trap of a release's failing write-back (R460). -/
def wbFail (s : State) (c : Ctxt) (line : Nat) (w : Wb) : Eff :=
  let va := ((s.l1Find c.q.cl line).map (·.va)).getD 0
  match w with
  | .walk f =>
    if c.q.scalar then .trap (trapOf clsReleaseWb c.act)
    else
      let (s, r) := s.raise (partOf c.q.cl) c.g.ctx va f ⟨6, 0, c.q.addr⟩
      .wait s (.writeback r va)
  | .tag =>
    .stop s { cls := clsReleaseWb, subtype := 10, eng := 6, faddr := BitVec.ofNat 64 va, pc := c.q.addr
              lanemask := maskOf c.act, actmask := maskOf c.act }
  | .ask t => .wait s (.record t.line)
  | .far n =>
    .stop s { cls := clsAccess, subtype := n, eng := 6, faddr := BitVec.ofNat 64 va, pc := c.q.addr
              lanemask := maskOf c.act, actmask := maskOf c.act }
  | .done | .waits => .wait s (.retry (s.cycles + 1))

/-- Write-backs of a context that have left for another package are acknowledged before what waits for them goes on; one that
failed there stops it (log 129, DESIGN CHOICE). -/
def wbAcked (c : Ctxt) (s : State) : Option Eff :=
  match s.wbLost c.g.ctx with
  | some (g, n) =>
    let r : TrapRec := { cls := clsAccess, subtype := n, eng := 6, faddr := BitVec.ofNat 64 g.ask.unit, pc := c.q.addr
                         lanemask := maskOf c.act, actmask := maskOf c.act }
    some (.stop { s with farGot := s.farGot.erase g } r)
  | none => if s.wbAway c.g.ctx then some (.wait s (.retry (s.cycles + 1))) else none

/-- Every dirty line of a cluster that holds stores of the context is written back and, where it left for another package, acknowledged
(R129, R460). `none` when all is done. -/
def State.ctxWritten (s : State) (c : Ctxt) : State × Option Eff :=
  match State.writeBackList c.q.cl true (s.dirtyLines c.q.cl (· == c.g.ctx)) s with
  | (s, some (line, w)) => (s, some (wbFail s c line w))
  | (s, none) => (s, wbAcked c s)

/-- The part of a release before its own store (R129): earlier accesses of the issuing threads are performed; at device
scope and wider the context's dirty lines are written back; wider still, export invalidations are acknowledged (R109) and a
system release makes its flushing read (R148). `none` when all is done. -/
def State.releaseGate (s : State) (c : Ctxt) (sc : Nat) : State × Option Eff :=
  match c.g.pendingOps c.act with
  | i :: is => (s, some (.wait s (.ops (i :: is))))
  | [] =>
    if !wideScope sc then (s, none)
    else
      match s.ctxWritten c with
      | (s, some e) => (s, some e)
      | (s, none) =>
        if (sc = 3 ∨ sc = 4) ∧ s.exportInv ≠ [] then (s, some (.wait s .exported))
        else if sc = 4 ∧ c.act.any fun l => (c.g.thread l).hostWrote.isSome then (s, some (.wait s (.flushing false)))
        else (s, none)

/-- Whether a lane of an ordered-flag store goes to local memory, as its translation at issue says; `none` while that has to wait. A lane that
faults counts as local (log 175, DEDUCED). -/
def flagLocal (cl x : Nat) : List Nat → State → State × Option Bool
  | [], s => (s, some false)
  | v :: vs, s =>
    match s.translate cl x v atWrite with
    | (s, .ok t) => if t.far.isNone then (s, some true) else flagLocal cl x vs s
    | (s, .fault _) => (s, some true)
    | (s, .waits) => (s, none)

/-- A store or atomic of the gang to local memory, or to memory not known yet, is not performed (R111). -/
def Gang.storesOpen (g : Gang) : Bool :=
  g.ops.any fun o => match accOf o.instr with
    | some a => atWrites a.kind.atype && a.kind != .wb && a.sp == 0 && o.lanes.any fun l => match l.st with
      | .done | .remote _ => false
      | .ready far _ _ _ => far.isNone
      | _ => true
    | none => false

/-- What comes before the local lanes of an ordered-flag store (R111, R323): every earlier store and atomic of the gang to local memory is
performed, and the context's dirty lines are written back, while the PC stays on the instruction as R460 lays down for a
release (log 175, DEDUCED). -/
def State.flagGate (s : State) (c : Ctxt) (vas : List Nat) : State × Option Eff :=
  match flagLocal c.q.cl c.g.ctx vas s with
  | (s, none) => (s, some (.wait s (.retry (s.cycles + 1))))
  | (s, some false) => (s, none)
  | (s, some true) => if c.g.storesOpen then (s, some (.wait s (.retry (s.cycles + 1)))) else s.ctxWritten c

/-! ## Issuing an operation -/

/-- The classes of a global operation (R137, R104): its own, and oc.rm when a lane is remote in the L1 TLB or misses it. -/
def State.classes (s : State) (c : Ctxt) (a : Acc) (vas : List Nat) : List Ctr :=
  let far := vas.any fun v => match (s.cluster c.q.cl).tlb.find? fun e => e.covers s c.g.ctx v && e.serves a.kind.atype v with
    | some e => e.far.isSome
    | none => true
  match a.kind with
  | .load => if far ∧ a.sp = 0 then [.ld, .rm] else [.ld]
  | .view => if far then [.ld, .rm] else [.ld]
  | .pf | .inv => []
  | .csg => [.rm]
  | .wb => if far then [.st, .rm] else [.st]
  | _ => if far then [.st, .rm] else [.st]

/-- An instruction that would raise a counter above 63 waits (R137). -/
def Gang.full (g : Gang) (cs : List Ctr) : Bool := cs.any fun k => 63 ≤ g.count k

/-- The registers a returned value is written to. -/
def destRegs (f : Fields) (n : Nat) : List Nat := (List.range n).map (f.vd.toNat + ·)

/-- The gang with a new operation; the destinations of its active lanes are unsettled until it ends (R195, R507). -/
def Gang.addOp (g : Gang) (i : Instr) (q : Issue) (act : List Nat) (cs : List Ctr) (lanes : List LaneAcc)
    (dests predDests : List Nat) (cmdseq : Nat) (complete : Bool) : Gang :=
  let o : Op := { id := g.nextOp, instr := i, iaddr := q.addr, ctrs := cs, act := maskOf act, fpmode := g.fpmode, lanes
                  cmdseq, stamp := 0, complete }
  ({ g with ops := g.ops ++ [o], nextOp := g.nextOp + 1 }.updLanes act fun _ t =>
    { t with unsettled := dests.foldl (fun m r => m.set r o.id) t.unsettled
             unsettledP := predDests.foldl (fun m r => m.set r o.id) t.unsettledP }).retire

/-- Where the L1 TLB sends an access to another package: the package and the line. -/
def State.knownFar (s : State) (c : Ctxt) (a : Acc) (v : Nat) : Option (Nat × Nat) :=
  match (s.cluster c.q.cl).tlb.find? fun e => e.covers s c.g.ctx v && e.serves a.kind.atype v with
  | some e => e.far.map fun pkg => (pkg, e.out v / 128)
  | none => none

/-- The destination table takes stores to some lines of other packages (R111). -/
def destTakes (ds : List (Nat × List Nat)) : List (Nat × Nat) → Bool
  | [] => true
  | (pkg, line) :: rest =>
    let pl := planeOf pkg (line * 128)
    match destRoom ds pkg pl with
    | none => false
    | some ds => destTakes (ds.map fun d => if d.1 = pkg then (d.1, d.2.modify pl (· + 1)) else d) rest

/-- Launch a global or constant operation: every active lane becomes an access of it, translated and served as far as the
cluster can (R53, R316). An ordinary store to a package for which the destination table has no room waits at issue (R111). -/
def launch (i : Instr) (c : Ctxt) (s : State) (a : Acc) (va data cmp : Nat → Nat) : Eff :=
  let cs := s.classes c a (c.act.map va)
  if c.g.full cs then .wait s .full
  else if a.kind == .store && a.sp == 0 && !destTakes c.g.dests ((c.act.filterMap fun l => s.knownFar c a (va l)).eraseDups) then
    .wait s .full
  else
    let lanes := c.act.map fun l => ({ lane := l, va := va l, data := data l, cmp := cmp l, st := .fresh } : LaneAcc)
    let s := s.updIss c.q fun g => g.addOp i c.q c.act cs lanes (if a.regs = 0 then [] else destRegs c.f a.regs) [] 0
      (c.act = [])
    .go (s.startOp c.q.cl c.q.gangSlot c.g.nextOp) []

/-- The cluster's scratchpad offset of a block offset (R70). -/
def State.scratchBase (s : State) (c : Ctxt) : Nat := ((s.blockOf c.q c.g).map (·.sbase)).getD 0

/-- A byte of the issuing thread's scratchpad space: the bank's, or the handler's local memory (R459). -/
def State.spByte (s : State) (c : Ctxt) (o : Nat) : Byte :=
  if c.q.scalar then FMap.getD (((s.cluster c.q.cl).handler.map (·.mem)).getD []) o 0
  else (s.cluster c.q.cl).scratchByte (s.scratchBase c + o)

/-- `n` bytes of it as a number. -/
def State.spRead (s : State) (c : Ctxt) (o n : Nat) : Nat := fromBytes ((List.range n).map fun i => s.spByte c (o + i))

/-- The state with bytes of it written. -/
def State.spWrite (s : State) (c : Ctxt) (o : Nat) (bs : List Byte) : State :=
  s.updCluster c.q.cl fun k =>
    if c.q.scalar then
      { k with handler := k.handler.map fun h =>
          { h with mem := (List.range bs.length).foldl (fun m i => m.set (o + i) (bs.getD i 0)) h.mem } }
    else k.scratchWrite (s.scratchBase c + o) bs

/-- Whether an access consumes a poisoned word (R80). -/
def State.spPoison (s : State) (c : Ctxt) (o n : Nat) : Bool :=
  !c.q.scalar && (s.cluster c.q.cl).scratchPoison (s.scratchBase c + o) n

/-- The row tolls of a scratchpad instruction (R72). -/
def State.chargeRows (s : State) (c : Ctxt) (os : List Nat) (n : Nat) : State :=
  if c.q.scalar then s
  else
    let k := s.cluster c.q.cl
    let words := (os.map fun o => (List.range (ceilDiv n 4)).map fun i => k.scratchWord (s.scratchBase c + o + 4 * i)).flatten
    s.charge (partOf c.q.cl) c.g.ctx 9 (bankCycles words)

/-- A scratchpad access (R71, R72, R128): performed at the bank at issue, the lanes in ascending order. It counts in its
class, from which it leaves in issue order. -/
def scratchAccess (i : Instr) (c : Ctxt) (s : State) (a : Acc) (va data cmp : Nat → Nat) (cs : List Ctr) : Eff :=
  if c.g.full cs then .wait s .full
  else
    let s := s.chargeRows c (c.act.map va) a.bytes
    let g0 := c.g
    let s := s.updIss c.q fun g => g.addOp i c.q c.act cs
      (c.act.map fun l => ({ lane := l, va := va l, data := data l, cmp := cmp l, st := .fresh } : LaneAcc)) [] [] 0 false
    let reads := a.kind != .store
    let (s, es, fls) := c.act.foldl (fun (acc : State × List (Nat × LaneEnd) × List (Nat × Nat)) l =>
      let s := acc.1
      if reads ∧ s.spPoison c (va l) a.bytes then (s, acc.2.1 ++ [(l, .trap 3)], acc.2.2)
      else
        match a.kind with
        | .load => (s, acc.2.1 ++ [(l, .value (s.spRead c (va l) a.bytes))], acc.2.2)
        | .store => (s.spWrite c (va l) (toBytes a.bytes (data l)), acc.2.1 ++ [(l, .ok)], acc.2.2)
        | _ =>
          let old := s.spRead c (va l) a.bytes
          let r := a.modify c.g.fpmode.toNat old { lane := l, va := va l, data := data l, cmp := cmp l, st := .fresh }
          (s.spWrite c (va l) (toBytes a.bytes r.v), acc.2.1 ++ [(l, .value old)], acc.2.2 ++ [(l, r.fl)])) (s, [], [])
    let o : Op := { id := g0.nextOp, instr := i, iaddr := c.q.addr, ctrs := cs, act := maskOf c.act, fpmode := g0.fpmode
                    lanes := c.act.map fun l => { lane := l, va := va l, data := data l, cmp := cmp l, st := .fresh }
                    cmdseq := 0, stamp := 0, complete := false }
    let s := s.endLanes c.q.cl c.q.gangSlot a o es
    let s := s.updIss c.q fun g => { g with fpflags := fls.foldl (fun n f => n ||| f.2) g.fpflags }
    let s := s.flagTrap c.q.cl c.q.gangSlot o fls
    .go ((s.updOp c.q.cl c.q.gangSlot o.id fun o => { o with complete := true }).updIss c.q (·.retire)) []

/-- The scope that an access of any space names (R152): of its release, its acquire, or as an atomic. -/
def Acc.named (a : Acc) : Nat := if a.ord ≠ 0 ∨ a.kind = .atom ∨ a.kind = .cas ∨ a.kind = .atomf then a.sc else 0

/-- A memory access by its space, after the conditions of its lanes, its scope's demotion, the acquires before it and, for a
release or an ordered-flag store, what comes before it. -/
def access (i : Instr) (c : Ctxt) (s : State) (a : Acc) (off : Bool) (data cmp : Nat → Nat) : Eff :=
  let va := c.laneAddr a off
  match causeTrap c (fun l => s.laneCause c a (va l)) va with
  | some r => .trap r
  | none =>
    demote c s a.named fun sc => afterAcquires c s <|
      match if a.isRel then s.releaseGate c (if a.sp = 1 then 2 else if a.named = 0 then a.sc else sc)
          else if a.kind = .flag then s.flagGate c (c.act.map va) else (s, none) with
      | (_, some e) => e
      | (s, none) =>
        let s := s.demoted c a.named
        if a.sp = 1 then scratchAccess i c s a va data cmp (if a.kind = .load then [.ld] else [.st])
        else if a.sp = 2 then launch i c s a (fun l => (s.constBase c + va l) % 2 ^ 64) data cmp
        else launch i c s a va data cmp

/-- The low bytes of a lane's data registers (R312). -/
def Ctxt.stData (c : Ctxt) (a : Acc) (l : Nat) : Nat := c.d (ceilDiv a.bytes 4) l % 2 ^ (8 * a.bytes)

/-! ## Loads (major 0x20) -/

def execLd (f : Fields) (s : State) : Out :=
  issueWith (.ld f) f s fun c s => access (.ld f) c s (memAcc f .load false) true (fun _ => 0) (fun _ => 0)

def execLdv (f : Fields) (s : State) : Out :=
  issueWith (.ldv f) f s fun c s => access (.ldv f) c s (memAcc f .load true) true (fun _ => 0) (fun _ => 0)

/-- ldview (R319, R173): a free slot is the instruction's own operand trap. -/
def execLdview (f : Fields) (s : State) : Out :=
  issueWith (.ldview f) f s fun c s => noHandler c <|
    let a : Acc := { kind := .view, bytes := szBytes (szOf f), sext := szOf f == 4 || szOf f == 6
                     regs := szRegs (szOf f), slot := auxBits f 4 1 }
    if c.act ≠ [] ∧ (c.g.views.getD a.slot ⟨false, 0, false⟩).isOpen = false then .trap (trapOf clsIllegalOperand c.act)
    else access (.ldview f) c s a true (fun _ => 0) (fun _ => 0)

/-- A FIFO that the issuing gang may use (R73): the bank is in FIFO mode and its context owns it. -/
def State.fifoOk (s : State) (c : Ctxt) (b : Nat) : Bool :=
  let k := s.cluster c.q.cl
  k.mode b == 2 && (k.fifos.getD b ⟨none, 0, 0⟩).owner == some c.g.ctx

/-- The fill of a FIFO (R73). -/
def FifoReg.fill (r : FifoReg) : Nat := (r.tail + 1024 - r.head) % 1024

/-- fpop (R320, R74). -/
def execFpop (f : Fields) (s : State) : Out :=
  issueWith (.fpop f) f s fun c s => noHandler c <| afterAcquires c s <|
    let b := immU f
    let r := (s.cluster c.q.cl).fifos.getD b ⟨none, 0, 0⟩
    if c.act = [] then .go s []
    else if !s.fifoOk c b then .trap { trapOf clsAccess c.act with subtype := 0 }
    else if r.fill = 0 then .wait s (.fifoData b)
    else if c.g.full [.ld] then .wait s .full
    else
      let k := s.cluster c.q.cl
      let word := fun l => wordIndex b (r.head % 512) l
      let s := s.charge (partOf c.q.cl) c.g.ctx 9 1
      let s := s.updCluster c.q.cl fun k => { k with fifos := k.fifos.set b { r with head := (r.head + 1) % 1024 } }
      let bad := c.act.filter fun l => k.sramPoison.getD (word l) false
      let s := s.updIss c.q fun g => (g.updLanes (c.act.filter (!bad.contains ·)) fun l t =>
        t.setReg f.vd.toNat (k.sram.getD (word l) 0).toNat).addOp (.fpop f) c.q c.act [.ld] [] [] [] 0 true
      match bad with
      | [] => .go s []
      | l :: ls => .after s { trapOf clsAccess (l :: ls) with subtype := 3, lcause := laneCauses (l :: ls) 4 }

/-- pf (R321): lanes that would fault are discarded. -/
def execPf (f : Fields) (s : State) : Out :=
  issueWith (.pf f) f s fun c s =>
    let a : Acc := { kind := .pf, bytes := 128, slot := b2n (auxBit f 0) }
    let va := fun l => c.laneAddr a true l / 128 * 128
    let c' := { c with act := c.act.filter fun l => canonical (va l) }
    launch (.pf f) c' s a va (fun _ => 0) (fun _ => 0)

/-! ## Stores (major 0x21) -/

def execSt (f : Fields) (s : State) : Out :=
  issueWith (.st f) f s fun c s =>
    let a := memAcc f .store false
    access (.st f) c s a true (c.stData a) (fun _ => 0)

def execStv (f : Fields) (s : State) : Out :=
  issueWith (.stv f) f s fun c s =>
    let a := memAcc f .store true
    access (.stv f) c s a true (c.stData a) (fun _ => 0)

/-- stflag (R323, R111). -/
def execStflag (f : Fields) (s : State) : Out :=
  issueWith (.stflag f) f s fun c s =>
    let a : Acc := { kind := .flag, bytes := szBytes (szOf f) }
    access (.stflag f) c s a true (c.stData a) (fun _ => 0)

/-- fpush (R324, R74): the words of lanes that are not active are zero. -/
def execFpush (f : Fields) (s : State) : Out :=
  issueWith (.fpush f) f s fun c s => noHandler c <| afterAcquires c s <|
    let b := immU f
    let r := (s.cluster c.q.cl).fifos.getD b ⟨none, 0, 0⟩
    if c.act = [] then .go s []
    else if !s.fifoOk c b then .trap { trapOf clsAccess c.act with subtype := 0 }
    else if r.fill = 512 then .wait s (.fifoRoom b)
    else if c.g.full [.st] then .wait s .full
    else
      let s := s.charge (partOf c.q.cl) c.g.ctx 9 1
      let s := s.updCluster c.q.cl fun k =>
        let k := (List.range 32).foldl (fun (k : Cluster) l =>
          let w := wordIndex b (r.tail % 512) l
          { k with sram := k.sram.set w (if c.act.contains l then BitVec.ofNat 32 (c.d 1 l) else 0), sramPoison := k.sramPoison.del w }) k
        { k with fifos := k.fifos.set b { r with tail := (r.tail + 1) % 1024 } }
      .go (s.updIss c.q fun g => g.addOp (.fpush f) c.q c.act [.st] [] [] [] 0 true) []

/-- stcsg (R325, R165): a slot that is free or closing is the instruction's own operand trap. -/
def execStcsg (f : Fields) (s : State) : Out :=
  issueWith (.stcsg f) f s fun c s => noHandler c <|
    let a : Acc := { kind := .csg, bytes := szBytes (szOf f), slot := auxBits f 4 2 }
    if c.act ≠ [] ∧ (c.g.slotAt a.slot).st ≠ 1 then .trap (trapOf clsIllegalOperand c.act)
    else access (.stcsg f) c s a true (c.stData a) (fun _ => 0)

/-! ## Atomics (major 0x22) -/

def execAtom (f : Fields) (s : State) : Out :=
  issueWith (.atom f) f s fun c s =>
    let a := atomAcc f .atom true
    access (.atom f) c s a false (c.b (if a.wide then 2 else 1)) (fun _ => 0)

/-- cas (R328): VD holds the new value and VS1 the comparand. -/
def execCas (f : Fields) (s : State) : Out :=
  issueWith (.cas f) f s fun c s =>
    let a := atomAcc f .cas true
    let n := if a.wide then 2 else 1
    access (.cas f) c s a false (c.d n) (c.b n)

def execAtomr (f : Fields) (s : State) : Out :=
  issueWith (.atomr f) f s fun c s =>
    let a := atomAcc f .atom false
    access (.atomr f) c s a false (c.b (if a.wide then 2 else 1)) (fun _ => 0)

def execAtomf (f : Fields) (s : State) : Out :=
  issueWith (.atomf f) f s fun c s =>
    let a := atomAcc f .atomf (auxBit f 7)
    access (.atomf f) c s a false (c.b 1) (fun _ => 0)

/-! ## Consignments and views (major 0x23) -/

/-- Gang-collective instructions (R158): every live thread in one issue, with its guard true. -/
def collective (c : Ctxt) (e : Eff) : Eff :=
  if c.act = c.g.liveLanes then e else .trap (trapOf clsConvergence c.act)

/-- An instruction's own operand trap, which comes before illegal-convergence (R246). -/
def operandTrap (c : Ctxt) (bad : Bool) (e : Eff) : Eff := if bad then .trap (trapOf clsIllegalOperand c.act) else e

/-- Consignments a context holds open or closing over all its gangs (R157). -/
def State.openCsgs (s : State) (x : Nat) : Nat :=
  (s.clusters.map fun k => (k.2.gangs.map fun g => if g.2.ctx = x then g.2.slots.countP (·.st != 0) else 0).sum).sum

/-- A seal record written at its home (R164, R178): its first line, then words 0 and 1. -/
def State.writeSeal (s : State) (p x f mrec st csgid sealT : Nat) : State :=
  let a := (s.func f).recAt mrec
  ((s.l2Access p x ⟨a, 64⟩ true).writeNum a 8 (st * 2 ^ 48 + csgid)).writeNum (a + 8) 8 sealT

/-- csg.open (R159). -/
def execCsgOpen (f : Fields) (s : State) : Out :=
  issueWith (.csgOpen f) f s fun c s => noHandler c <|
    operandTrap c ((c.g.slotAt (immU f)).st == 1) <| collective c <|
    let cs := immU f
    let fn := fnOf c.g.ctx
    let u := s.func fn
    let full := fun s sub => Eff.stop s { cls := clsAccess, subtype := sub, lanemask := maskOf c.act, pc := c.q.addr, actmask := maskOf c.act }
    match (c.g.slotAt cs).st with
    | 0 =>
      if fn = 128 ∨ !u.vOn then full s 9
      else
        match lowestFree 0 (Nat.min u.recCount (u.recUsed.length + 1)) u.recUsed with
        | none => full (s.updFunc fn fun u => { u with recFull := true }) 9
        | some r =>
          if 4096 ≤ s.openCsgs c.g.ctx then full s 7
          else
            let id := s.pkgId * 2 ^ 38 + fn * 2 ^ 31 + u.csgNext
            let s := s.updFunc fn fun u =>
              { u with recUsed := u.recUsed ++ [r], csgNext := if u.csgNext + 1 = 2 ^ 31 then 1 else u.csgNext + 1 }
            let p := partOf c.q.cl
            let s := (s.charge p c.g.ctx 17 1).writeSeal p c.g.ctx fn r 0 id 0
            let s := (s.zeroRange ((s.func fn).recAt r + 16) 48).zeroRange ((s.func fn).recAt r + 4160) 4032
            let s := s.updIss c.q fun g => { g with slots := g.slots.set cs ⟨1, id, r, [], [], 0⟩ }
            .go (writeRegs s c f.vd.toNat 2 fun _ => id) []
    | _ => .wait s (.slot cs)

/-- The start of a seal or an abort: the slot becomes closing and the operation enters oc.rm (R168, R169). -/
def closeSlot (i : Instr) (c : Ctxt) (s : State) (st : Nat) (dests : List Nat) : Eff :=
  let cs := immU c.f
  operandTrap c ((c.g.slotAt cs).st != 1) <| collective c <|
  if c.g.full [.rm] then .wait s .full
  else
    .go (s.updIss c.q fun g => { g with slots := g.slots.modify cs fun x => { x with st } }.addOp i c.q c.act [.rm] [] dests [] 0 false) []

/-- csg.seal (R168): VD settles to T when the seal completes. -/
def execCsgSeal (f : Fields) (s : State) : Out :=
  issueWith (.csgSeal f) f s fun c s => noHandler c <| closeSlot (.csgSeal f) c s 2 (destRegs f 2)

/-- csg.abort (R169). -/
def execCsgAbort (f : Fields) (s : State) : Out :=
  issueWith (.csgAbort f) f s fun c s => noHandler c <| closeSlot (.csgAbort f) c s 3 []

/-- view.open (R172): the acquire part of a tenant-scope fence, then the snapshot. -/
def execViewOpen (f : Fields) (s : State) : Out :=
  issueWith (.viewOpen f) f s fun c s => noHandler c <|
    let vs := immU f
    operandTrap c (c.g.views.getD vs ⟨false, 0, false⟩).isOpen <| collective c <|
      match c.g.pendingOps c.act with
      | i :: is => .wait s (.ops (i :: is))
      | [] =>
        let (st, s) := (s.acquireDrop c.q.cl).take
        .go (s.updIss c.q fun g => { g with views := g.views.set vs ⟨true, st, false⟩ }) []

/-- view.close (R174): after every earlier `ldview` of the slot. -/
def execViewClose (f : Fields) (s : State) : Out :=
  issueWith (.viewClose f) f s fun c s => noHandler c <|
    let vs := immU f
    let v := c.g.views.getD vs ⟨false, 0, false⟩
    operandTrap c (!v.isOpen) <| collective c <|
      let earlier := c.g.ops.filter fun o => match accOf o.instr with | some a => a.kind == .view && a.slot == vs && !o.complete | none => false
      match earlier.map (·.id) with
      | i :: is => .wait s (.ops (i :: is))
      | [] =>
        let s := writePred s c (f.vd.toNat % 8) fun _ => !v.expired
        .go (s.updIss c.q fun g => { g with views := g.views.set vs ⟨false, 0, false⟩ }) []

/-- view.stamp (R172). -/
def execViewStamp (f : Fields) (s : State) : Out :=
  issueWith (.viewStamp f) f s fun c s => noHandler c <|
    let v := c.g.views.getD (immU f) ⟨false, 0, false⟩
    if c.act = [] then .go s []
    else if !v.isOpen then .trap (trapOf clsIllegalOperand c.act)
    else .go (writeRegs s c f.vd.toNat 2 fun _ => v.stamp.toNat) []

/-! ## Ordering (major 0x24) -/

/-- The part of an acquiring fence before its drop (R130): the loads and atomics before it in the issuing threads are bound. -/
def acquiring (c : Ctxt) (s : State) (e : Eff) : Eff :=
  match c.g.openLoads c.act with
  | i :: is => .wait s (.ops (i :: is))
  | [] => e

/-- fence (R332, R143): an acquire, a release, or both, of the issuing threads; nothing without one (R243). -/
def execFence (f : Fields) (s : State) : Out :=
  issueWith (.fence f) f s fun c s =>
    let ord := auxBits f 3 2
    if c.act = [] then .go s []
    else
      demote c s (auxBits f 0 3) fun sc =>
        let drop := fun (s : State) =>
          let s := s.demoted c (auxBits f 0 3)
          Eff.go (if ord ≠ 2 ∧ wideScope sc then s.acquireDrop c.q.cl else s) []
        if ord = 1 then acquiring c s (drop s)
        else match s.releaseGate c sc with
          | (_, some e) => e
          | (s, none) => drop s

/-- fence.sc (R144, R145): the gang's operations complete and the release is made, at system scope for every host-window store of the gang's
threads and engines; at device scope and wider the threads then wait for the cadence, at gang and cluster scope the fence
completes. -/
def execFenceSc (f : Fields) (s : State) : Out :=
  issueWith (.fenceSc f) f s fun c s =>
    if c.act = [] then .go s []
    else
      demote c s (auxBits f 0 3) fun sc =>
        match c.g.ops.map (·.id) with
        | i :: is => .wait s (.ops (i :: is))
        | [] =>
          match s.releaseGate c sc with
          | (_, some e) => e
          | (s, none) =>
            if sc = 4 ∧ c.g.flushed = false then .wait s (.flushing true)
            else
              let s := s.demoted c (auxBits f 0 3)
              if !wideScope sc then .go s [] else .split s true c.act (.fenceSc sc s.timeNs none)

/-- The counter a code names (R251, R333). -/
def ctrOf (k : Nat) : Ctr :=
  match k with | 1 => .ld | 2 => .st | 3 => .cp | 4 => .mx | 5 => .ch | _ => .rm

/-- wait (R333): holds each issuing thread until the counter is at most n. -/
def execWait (f : Fields) (s : State) : Out :=
  issueWith (.wait f) f s fun c s =>
    if c.g.count (ctrOf f.vd.toNat) ≤ immU f then .go s [] else .wait s (.counter f.vd.toNat (immU f))

/-- The home line of a dirty L1 line: of its recorded address as it translates now, else the line it was stored to. -/
def State.wbHome (s : State) (cl line : Nat) : Nat :=
  match s.l1Find cl line with
  | some L => match (s.tlbLook cl L.ctx L.va atWrite).2 with
    | some e => e.out L.va / 128
    | none => line
  | none => line

/-- The dirty lines of a list are written back and, with `hbm`, each slice line written out at once, so that a line done before a later
one has to wait is not left out (R334, R460). -/
def State.writeOutList (cl : Nat) (hbm : Bool) : List Nat → State → State × Option (Nat × Wb)
  | [], s => (s, none)
  | l :: ls, s =>
    match s.writeBack cl l true with
    | (s, .done) =>
      State.writeOutList cl hbm ls (if hbm then s.updLine none (s.wbHome cl l * 128) fun L => { L with dirty := false } else s)
    | (s, w) => (s, some (l, w))

/-- wb (R334). -/
def execWb (f : Fields) (s : State) : Out :=
  issueWith (.wb f) f s fun c s =>
    let a : Acc := { kind := .wb, bytes := 128, slot := b2n (auxBit f 1) }
    if !auxBit f 0 then
      let va := fun l => c.laneAddr a true l / 128 * 128
      match causeTrap c (fun l => if canonical (va l) then 0 else 1) va with
      | some r => .trap r
      | none => launch (.wb f) c s a va (fun _ => 0) (fun _ => 0)
    else if c.act = [] then .go s []
    else
      match c.g.pendingOps c.act with
      | i :: is => .wait s (.ops (i :: is))
      | [] =>
        let lines := s.dirtyLines c.q.cl (· == c.g.ctx)
        if c.g.full [.st] then .wait s .full
        else match State.writeOutList c.q.cl (auxBit f 1 && fnOf c.g.ctx == 128) lines s with
        | (s, some (line, w)) => wbFail s c line w
        | (s, none) => (wbAcked c s).getD <| .go (s.updIss c.q fun g => g.addOp (.wb f) c.q c.act [.st] [] [] [] 0 true) []

/-- inv (R335). -/
def execInv (f : Fields) (s : State) : Out :=
  issueWith (.inv f) f s fun c s =>
    let a : Acc := { kind := .inv, bytes := 128 }
    if auxBit f 0 then
      if c.act = [] then .go s []
      else .go (s.updL1 c.q.cl fun m => (m.filter fun e => e.2.ctx == c.g.ctx).foldl (fun m e => dropClean m e.1) m) []
    else
      let va := fun l => c.laneAddr a true l / 128 * 128
      match causeTrap c (fun l => if canonical (va l) then 0 else 1) va with
      | some r => .trap r
      | none => launch (.inv f) c s a va (fun _ => 0) (fun _ => 0)

end Sys2Proof.Machine
end

