-- ==== Sys2Proof/Machine/Barrier.lean ====
section
/-! DEFINITION. Barrier objects (03:R77, R78) and the barrier instructions: major 0x38 (17:R383-R389). -/

namespace Sys2Proof.Machine

/-! ## The object -/

/-- A barrier record (R77). `bad` says that a reserved field is not zero. -/
structure Bar where
  phase : Bool
  init : Bool
  arrived : Nat
  expect : Nat
  exp : Nat
  rcv : Nat
  bad : Bool
  deriving DecidableEq, Repr

/-- The record of 16 bytes. -/
def barOf (n : Nat) : Bar :=
  { phase := bitOf n 0, init := bitOf n 1, arrived := bitsOf n 32 12, expect := bitsOf n 48 12, exp := bitsOf n 64 32
    rcv := bitsOf n 96 32, bad := bitsOf n 2 30 != 0 || bitsOf n 44 4 != 0 || bitsOf n 60 4 != 0 }

/-- The 16 bytes of a record. -/
def Bar.num (b : Bar) : Nat :=
  b2n b.phase + 2 * b2n b.init + b.arrived * 2 ^ 32 + b.expect * 2 ^ 48 + b.exp * 2 ^ 64 + b.rcv * 2 ^ 96

/-- A record that no barrier instruction but `bar.init` accepts (R77). -/
def Bar.refused (b : Bar) : Bool := !b.init || b.bad || b.expect == 0 || 2048 < b.expect || b.expect ≤ b.arrived

/-- Saturating addition of byte counts. -/
def satAdd (a b : Nat) : Nat := Nat.min 0xFFFFFFFF (a + b)

/-- The phase completes when its conditions hold (R78). -/
def Bar.settle (b : Bar) : Bar :=
  if b.arrived = b.expect ∧ b.exp ≤ b.rcv then
    { b with rcv := b.rcv - b.exp, exp := 0, arrived := 0, phase := !b.phase }
  else b

/-- The record at a cluster scratchpad offset. -/
def Cluster.bar (k : Cluster) (o : Nat) : Bar := barOf (fromBytes (k.scratchRead o 16))

/-- Every gang of a block starts a new count of issues (R415). -/
def State.clearRsb (s : State) (cl blk : Nat) : State :=
  s.updCluster cl fun k => { k with gangs := k.gangs.map fun g => if g.2.blk = blk then (g.1, { g.2 with rsb := 0 }) else g }

/-- One indivisible update of a record by the cluster (R78); a completed phase restarts its block's counts (R415). What is
written is made from what was read, so a poisoned word keeps its mark (R80). -/
def State.barUpdate (s : State) (cl blk o : Nat) (f : Bar → Bar) : State :=
  let b := f ((s.cluster cl).bar o)
  let b' := b.settle
  let s := s.updCluster cl fun k => k.scratchPuts o (toBytes 16 b'.num)
  if b'.phase = b.phase then s else s.clearRsb cl blk

/-- An arrival's update of a record: a phase that it completes leaves the issuing gang's own count at zero too (R415). -/
def State.barArrive (s : State) (q : Issue) (blk o : Nat) (f : Bar → Bar) : State :=
  let t := s.barUpdate q.cl blk o f
  if ((t.cluster q.cl).bar o).phase = ((s.cluster q.cl).bar o).phase then t else t.updIss q fun g => { g with restarted := true }

/-- A copy's delivered bytes are counted (R78). The word keeps whatever else the record holds. -/
def State.barBytes (s : State) (cl blk o n : Nat) : State :=
  let raw := fromBytes ((s.cluster cl).scratchRead o 16)
  let b : Bar := { barOf raw with rcv := satAdd (bitsOf raw 96 32) n }
  if b.settle.phase = b.phase then s.updCluster cl fun k => k.scratchPuts (o + 12) (toBytes 4 b.rcv)
  else s.barUpdate cl blk o fun _ => b

/-! ## Block barriers -/

/-- The object of a barrier instruction: the offset in the lowest active lane's VS0. -/
def Ctxt.barOff (c : Ctxt) : Nat := c.a 1 c.low

/-- The checks of an object's address: range (R15), then alignment (R77). -/
def State.barAddr (s : State) (c : Ctxt) : Option TrapRec :=
  let o := c.barOff
  if s.scratchSize c ≤ o then some { trapOf clsAccess c.act with subtype := 2, faddr := BitVec.ofNat 64 o, lcause := laneCauses c.act 2 }
  else if o % 16 ≠ 0 then some { trapOf clsAlignment c.act with faddr := BitVec.ofNat 64 o, lcause := laneCauses c.act 3 }
  else none

/-- The object of a barrier instruction for an active set, given by its cluster offset: the access comes after the acquires before
it (R130), nothing happens without an active lane, and the offset is checked. -/
def atBar (c : Ctxt) (s : State) (k : Nat → Eff) : Eff :=
  afterAcquires c s <|
    if c.act = [] then .go s []
    else
      match s.barAddr c with
      | some r => .trap r
      | none => k (s.scratchBase c + c.barOff)

/-- The checks of R77 before an instruction's effect on its object, given with the object; `bad` is the instruction's own
operand check, judged first (R246). A poisoned record is a poison fault of the lane that consumes it (R80). -/
def withBar (c : Ctxt) (s : State) (bad : Bool) (k : Nat → Bar → Eff) : Eff :=
  noHandler c <|
    if !c.act.isEmpty && bad then .trap (trapOf clsIllegalOperand c.act)
    else atBar c s fun o =>
      if (s.cluster c.q.cl).scratchPoison o 16 then
        .trap { trapOf clsAccess c.act with subtype := 3, faddr := BitVec.ofNat 64 c.barOff, lcause := laneCauses c.act 4 }
      else
        let b := (s.cluster c.q.cl).bar o
        if b.refused then .trap (trapOf clsIllegalOperand c.act) else k o b

/-- The row toll of an update (R383). -/
def chargeBar (s : State) (c : Ctxt) : State := s.charge (partOf c.q.cl) c.g.ctx 9 1

/-- bar.init (R384). -/
def execBarInit (f : Fields) (s : State) : Out :=
  issueWith (.barInit f) f s fun c s => noHandler c <|
    let e := c.b 1 c.low
    if c.act ≠ [] ∧ (e = 0 ∨ 2048 < e) then .trap (trapOf clsIllegalOperand c.act)
    else atBar c s fun o =>
      let b : Bar := { phase := false, init := true, arrived := 0, expect := e, exp := 0, rcv := 0, bad := false }
      .go ((chargeBar s c).updCluster c.q.cl fun k => k.scratchWrite o (toBytes 16 b.num)) []

/-- An arrival first acts as a cluster release of its active lanes (R388). -/
def arriving (c : Ctxt) (s : State) (k : State → Eff) : Eff :=
  match s.releaseGate c 2 with
  | (_, some e) => e
  | (s, none) => k s

/-- bar.arrive (R385). -/
def execBarArrive (f : Fields) (s : State) : Out :=
  issueWith (.barArrive f) f s fun c s =>
    let n := if auxBit f 1 then c.b 1 c.low else if auxBit f 0 then c.act.length else 1
    withBar c s (auxBit f 1 && (n == 0 || 2048 < n)) fun o b =>
    if b.expect < b.arrived + n then .trap (trapOf clsIllegalOperand c.act)
    else arriving c s fun s =>
      let s := (chargeBar s c).barArrive c.q c.g.blk o fun b => { b with arrived := b.arrived + n }
      .go (writeRegs s c f.vd.toNat 1 fun _ => b2n b.phase) []

/-- bar.wait (R387): threads whose token is the record's phase stay, as waiting threads; the others pass as at a cluster
acquire, the loads before them being bound (R130, R388). The record is judged (R77) when the instruction issues; a thread that waits
is held until PHASE differs, whatever else the record then holds, and passes uncharged. -/
def execBarWait (f : Fields) (s : State) : Out :=
  issueWith (.barWait f) f s fun c s =>
    match c.act.filter fun l => match (c.g.thread l).wait with | some (.phase _ _) => true | _ => false with
    | w :: ws => .split s false (c.q.lanes.filter fun l => !(w :: ws).contains l) (.retry (s.cycles + 1))
    | [] => withBar c s false fun _ b => acquiring c s <|
      match c.act.filter fun l => bitOf (c.b 1 l) 0 == b.phase with
      | [] => .go (chargeBar s c) []
      | h :: hs => .split (chargeBar s c) true (h :: hs) (.phase c.barOff b.phase)

/-- bar.expect (R386). -/
def execBarExpect (f : Fields) (s : State) : Out :=
  issueWith (.barExpect f) f s fun c s => withBar c s false fun o b =>
    let n := c.b 1 c.low
    let arr := auxBit f 0
    let go := fun s : State =>
      Eff.go ((chargeBar s c).barArrive c.q c.g.blk o fun b =>
        { b with exp := satAdd b.exp n, arrived := b.arrived + b2n arr }) []
    if arr && b.expect < b.arrived + 1 then .trap (trapOf clsIllegalOperand c.act)
    else if arr then arriving c s go else go s

/-- bar.try (R387). -/
def execBarTry (f : Fields) (s : State) : Out :=
  issueWith (.barTry f) f s fun c s => withBar c s false fun _ b =>
    acquiring { c with act := c.act.filter fun l => b.phase != bitOf (c.b 1 l) 0 } s <|
    .go (writePred (chargeBar s c) c (f.vd.toNat % 8) fun l => b.phase != bitOf (c.b 1 l) 0) []

/-! ## Group and grid barriers (R389) -/

/-- A completed phase releases its waiting threads: their clusters wake through the slew limiter (R419), and the counts of
the blocks restart (R415). `of` chooses the gangs that take part, `w` the wait that ends; the arriving gang's lanes `act`
are released with them. The clusters of a context that stands stopped for energy wake with its resume (R439). -/
def State.releaseAll (s : State) (q : Issue) (act : List Nat) (of : Gang → Bool) (w : Wait → Bool) : State :=
  let waits := fun (t : Thread) => match t.wait with | some x => w x | none => false
  let mine := fun (cl slot l : Nat) => cl == q.cl && slot == q.gangSlot && act.contains l
  let awake := match s.issGang? q with | some g => !(s.ctx g.ctx).stopped | none => true
  let hit := fun (cl : Nat) (g : Nat × Gang) =>
    of g.2 && (List.range g.2.threads.length).any fun l => waits (g.2.thread l) || mine cl g.1 l
  let clusters := s.clusters.map fun k => (k.1,
    let blks := (k.2.gangs.filter (hit k.1)).map (·.2.blk)
    { k.2 with
      wakePend := k.2.wakePend || (awake && !blks.isEmpty)
      gangs := k.2.gangs.map fun g => (g.1,
        let r := if blks.contains g.2.blk then { g.2 with rsb := 0, restarted := k.1 == q.cl && g.1 == q.gangSlot } else g.2
        if awake && hit k.1 g then
          { r with threads := (List.range r.threads.length).map fun l =>
              let t := r.thread l
              if waits t || mine k.1 g.1 l then { t with wake := true } else t }
        else r) })
  let woken := if awake then (s.clusters.filter fun k => k.2.gangs.any (hit k.1)).map (·.1) else []
  { s with clusters, wakes := s.wakes ++ woken.filter fun c => !s.wakes.contains c && !s.batch.contains c }

/-- Arrive and wait: lanes that come back from a completed phase pass as at a device acquire; the others arrive once, after a
device release, and wait. -/
def arriveWait (c : Ctxt) (s : State) (back : Wait → Bool) (arrive : List Nat → State → State × Wait) : Eff :=
  let done := c.act.filter fun l => match (c.g.thread l).wait with | some w => back w | none => false
  let fresh := c.act.filter (!done.contains ·)
  let s := if done = [] then s else s.acquireDrop c.q.cl
  if fresh = [] then (if c.act = [] then .go s [] else .split s false [] .full)
  else
    match s.releaseGate { c with act := fresh } 0 with
    | (s, some (.wait _ w)) => .split s false fresh w
    | (_, some e) => e
    | (s, none) =>
      let (s, w) := arrive fresh s
      .split s true fresh w

/-- gbar (R389, R192, R193). -/
def execGbar (f : Fields) (s : State) : Out :=
  issueWith (.gbar f) f s fun c s => noHandler c <|
    let g := auxBits f 0 8
    let member := ((s.blockOf c.q c.g).map (·.groups.contains g)).getD false
    if c.act = [] then .go s []
    else if !member then .trap (trapOf clsIllegalOperand c.act)
    else
      arriveWait c s (fun w => match w with | .group h _ => h == g | _ => false) fun ls s =>
        let e := ((s.ctx c.g.ctx).groups.getD g ⟨1, 0, 0⟩)
        let full := e.members ≤ e.arrived + 1
        let e' := if full then { e with arrived := 0, phase := e.phase + 1 } else { e with arrived := e.arrived + 1 }
        let s := s.updCtx c.g.ctx fun x => { x with groups := x.groups.set g e' }
        let s := if full then s.releaseAll c.q ls (fun h => h.ctx == c.g.ctx)
            (fun w => match w with | .group h _ => h == g | _ => false) else s
        (s, .group g e.phase)

/-- gridbar (R389, R194). -/
def execGridbar (f : Fields) (s : State) : Out :=
  issueWith (.gridbar f) f s fun c s => noHandler c <|
    let ill := Eff.trap (trapOf clsIllegalOperand c.act)
    if c.act = [] then .go s [] else
    match s.blockOf c.q c.g with
    | none => ill
    | some b =>
      match s.launches.find? b.launch with
      | none => ill
      | some n =>
        if !n.coop then ill
        else
          arriveWait c s (fun w => match w with | .grid _ => true | _ => false) fun ls s =>
            let full := n.gridX * n.gridY * n.gridZ ≤ n.arrived + 1
            let n' := if full then { n with arrived := 0, phase := n.phase + 1 } else { n with arrived := n.arrived + 1 }
            let s := { s with launches := s.launches.set b.launch n' }
            let s := if full then s.releaseAll c.q ls (fun h => h.blk / 2 ^ 32 == b.launch) (fun w => match w with | .grid _ => true | _ => false) else s
            (s, .grid n.phase)

end Sys2Proof.Machine
end

