-- ==== Sys2Proof/Machine/Engine.lean ====
section
/-! DEFINITION. The engines' accesses and commands: global reads and writes of the copy, chain and matrix engines (06:R136,
R520), what stops a command, and how a command ends (02:R46, R54; 20:R455). -/

namespace Sys2Proof.Machine

/-- For whom an engine makes its accesses: cluster, context, the code of R47, the consignments open in the issuing gang's
slots, its number among the engines of the cluster, and the issuing gang's slot. -/
structure Eng where
  cl : Nat
  x : Nat
  eng : Nat
  own : List Nat
  unit : Nat := 0
  slot : Nat := 2 ^ 20
  deriving DecidableEq, Repr

/-- One access of an engine to a piece of a line: the bytes of a write, or a read of `n`, of the constant space perhaps. -/
structure EngAcc where
  e : Eng
  va : Nat
  n : Nat
  bs : Option (List Byte)
  const : Bool := false
  deriving DecidableEq, Repr

/-- Why an engine access has to be made again. -/
inductive EngWhy where
  /-- A walk fault, with the source code and the address that its request carries. -/
  | walk (eng va : Nat) (f : WalkFault)
  /-- The pending tag of a line has its record on another package. -/
  | ask (line : Nat)
  /-- It waits for a walk, a slice, a plane or another package. -/
  | busy
  deriving DecidableEq, Repr

/-- What stops an engine access. -/
inductive EngStop where
  /-- It is made again later. -/
  | again (w : EngWhy) (a : EngAcc)
  /-- A condition delivered as a trap. -/
  | trap (r : TrapRec)
  deriving DecidableEq, Repr

/-- An access trap of an engine at an address. -/
def engTrap (e sub va : Nat) : EngStop := .trap { cls := clsAccess, subtype := sub, eng := e, faddr := BitVec.ofNat 64 va }

/-- The pieces of a span, cut at 128-byte lines. -/
def linePieces (a n : Nat) : List (Nat × Nat) :=
  if n = 0 then []
  else
    (List.range ((a + n - 1) / 128 - a / 128 + 1)).map fun i =>
      let lo := if i = 0 then a else (a / 128 + i) * 128
      let hi := Nat.min (a + n) ((a / 128 + i + 1) * 128)
      (lo, hi - lo)

/-- What a failed translation makes of an engine access. -/
def engFault (e : Eng) (va : Nat) (a : EngAcc) (f : WalkFault) : EngStop :=
  match f.trap with
  | some n => engTrap e.eng n va
  | none => .again (.walk e.eng va f) a

/-- A read of memory that no cache serves (R30, R86), or of a unit. -/
def engReadRaw (s : State) (e : Eng) (va n : Nat) (t : Xlat) (a : EngAcc) : State × (List Byte ⊕ EngStop) :=
  let p := partOf e.cl
  if inAperture t.pa then
    let (s, v) := (s.charge p e.x 11 1).devLoad e.x t.pa n
    (s, .inl (toBytes n v))
  else if !inHbm t.pa then (s.charge p e.x 11 1, .inl (readBytes s.mem t.pa n))
  else
    match s.dropTurn (t.pa / 128) false with
    | (s, true) => (s, .inr (.again .busy a))
    | (s, false) =>
      let done := fun (s : State) (bs : List Byte) (bad : Nat) =>
        let s := (s.unitTrip e.cl t.pa false).uncached p e.x ⟨t.pa, n⟩
        (s, if spanBad (halfMask bad) (t.pa % 128) n then .inr (engTrap e.eng 3 va) else .inl ((bs.drop (t.pa % 128)).take n))
      match s.resolve p e.x (t.pa / 128 * 128) e.own none with
      | (s, .ask g, _) => (s, .inr (.again (.ask g.line) a))
      | (s, .busy, _) => (s, .inr (.again .busy a))
      | (s, .lost, _) => (s, .inr (engTrap e.eng 4 va))
      | (s, .prior bs bad, _) => done s bs bad
      | (s, _, _) => done s (s.homeLine (t.pa / 128)) (s.badHalves (t.pa / 128))

/-- A read of a line of this package of memory type 0 or 1: the cluster's L1 is looked up first (R136), and its dirty bytes stand before
the home's. A line that the L1 holds in part charges both (R69). -/
def engReadLine (s : State) (e : Eng) (va n : Nat) (t : Xlat) (a : EngAcc) : State × (List Byte ⊕ EngStop) :=
  let p := partOf e.cl
  let line := t.pa / 128
  let m := spanMask (t.pa % 128) n
  match (s.l1Find e.cl line).filter fun L => L.valid &&& m == m with
  | some L =>
    let s := s.charge p e.x 10 1
    if spanBad (halfMask L.poison) (t.pa % 128) n then (s, .inr (engTrap e.eng 3 va))
    else (s, .inl (s.lineBytes e.cl line (t.pa % 128) n))
  | none =>
    match s.unitWaits e.cl e.x line false false with
    | (s, true) => (s, .inr (.again .busy a))
    | (s, false) =>
      let done := fun (s : State) (bs : List Byte) (bad : Nat) =>
        let s := if (s.l1Find e.cl line).isSome then s.charge p e.x 10 1 else s
        let s := (s.unitTrip e.cl t.pa false).l2Access p e.x ⟨t.pa, n⟩ false
        (s, if spanBad (s.overlayBad e.cl line bad) (t.pa % 128) n then .inr (engTrap e.eng 3 va)
            else .inl (((s.overlay e.cl line bs).drop (t.pa % 128)).take n))
      match s.resolve p e.x (line * 128) e.own none with
      | (s, .ask g, _) => (s, .inr (.again (.ask g.line) a))
      | (s, .busy, _) => (s, .inr (.again .busy a))
      | (s, .lost, _) => (s, .inr (engTrap e.eng 4 va))
      | (s, .prior bs bad, _) => done s bs bad
      | (s, _, _) => done s (s.homeLine line) (s.badHalves line)

/-- A read of one piece (R136). -/
def engRead1 (s : State) (e : Eng) (va n : Nat) : State × (List Byte ⊕ EngStop) :=
  let a : EngAcc := ⟨e, va, n, none, false⟩
  if !canonical va then (s, .inr (engTrap e.eng 1 va))
  else
    match s.translate e.cl e.x va atRead with
    | (s, .fault f) => (s, .inr (engFault e va a f))
    | (s, .waits) => (s, .inr (.again .busy a))
    | (s, .ok t) =>
      match t.far with
      | some pkg =>
        match s.farUnit (partOf e.cl) t.mt { cl := e.cl, x := e.x, eng := e.eng, write := false, pkg, pa := t.pa, n, unit := e.unit } (some t.via) [] with
        | (s, .bytes bs) => (s, .inl bs)
        | (s, .trap k) => (s, .inr (engTrap e.eng k va))
        | (s, .waits) => (s, .inr (.again .busy a))
      | none =>
        if 2 ≤ t.mt ∨ !inHbm t.pa then engReadRaw s e va n t a else engReadLine s e va n t a

/-- How a write-back that an engine's write forces stops it (R520): its request and its trap name the line address recorded with
the line. -/
def engWb (lva : Nat) (a : EngAcc) : Wb → Option EngStop
  | .done => none
  | .walk f => some (.again (.walk 6 lva f) a)
  | .tag => some (.trap { cls := clsReleaseWb, subtype := 10, eng := 6, faddr := BitVec.ofNat 64 lva })
  | .far n => some (engTrap 6 n lva)
  | .ask g => some (.again (.ask g.line) a)
  | .waits => some (.again .busy a)

/-- A write of a piece at its home slice (R136), after the cluster's L1 has given up the line (R520) and the tag's judgement
(R167). -/
def engWriteLine (s : State) (e : Eng) (va : Nat) (bs : List Byte) (t : Xlat) (a : EngAcc) : State × Option EngStop :=
  let p := partOf e.cl
  let line := t.pa / 128
  let lva := ((s.l1Find e.cl line).map (·.va)).getD (va / 128 * 128)
  match s.giveUpLine e.cl line true with
  | (s, w) =>
    match engWb lva a w with
    | some x => (s, some x)
    | none =>
      match if 2 ≤ t.mt then s.dropTurn line true else s.unitWaits e.cl e.x line true (bs.length == 128) with
      | (s, true) => (s, some (.again .busy a))
      | (s, false) =>
        match s.writeGate p e.x (line * 128) with
        | (s, .pending) => (s, some (engTrap e.eng 10 va))
        | (s, .ask g) => (s, some (.again (.ask g.line) a))
        | (s, .busy) => (s, some (.again .busy a))
        | (s, .lost) => (s, some (engTrap e.eng 4 va))
        | (s, .go) =>
          let s := s.unitTrip e.cl t.pa true
          ((if 2 ≤ t.mt then s.uncached p e.x ⟨t.pa, bs.length⟩ else s.l2Access p e.x ⟨t.pa, bs.length⟩ true).store t.pa bs, none)

/-- A write of one piece (R136); one to another package is performed when it is acknowledged (R128). -/
def engWrite1 (s : State) (e : Eng) (va : Nat) (bs : List Byte) : State × Option EngStop :=
  let a : EngAcc := ⟨e, va, bs.length, some bs, false⟩
  if !canonical va then (s, some (engTrap e.eng 1 va))
  else
    match s.translate e.cl e.x va atWrite with
    | (s, .fault f) => (s, some (engFault e va a f))
    | (s, .waits) => (s, some (.again .busy a))
    | (s, .ok t) =>
      let p := partOf e.cl
      match t.far with
      | some pkg =>
        match s.farUnit p t.mt { cl := e.cl, x := e.x, eng := e.eng, write := true, pkg, pa := t.pa, n := bs.length, unit := e.unit } (some t.via) bs with
        | (s, .bytes _) => (s, none)
        | (s, .trap k) => (s, some (engTrap e.eng k va))
        | (s, .waits) => (s, some (.again .busy a))
      | none =>
        if inAperture t.pa then ((s.charge p e.x 11 1).devStore e.x t.pa bs.length (fromBytes bs), none)
        else if !inHbm t.pa then
          (((s.charge p e.x 11 1).store t.pa bs).updGang e.cl e.slot fun g => { g with engWrote := some t.pa }, none)
        else engWriteLine s e va bs t a

/-- A line of constant space that the constant cache misses, of memory type 0 or 1 (R79): looked up at its home slice, and kept unless it
is tagged or poisoned (R93, R171). -/
def constFill (s : State) (e : Eng) (va n : Nat) (t : Xlat) (a : EngAcc) : State × (List Byte ⊕ EngStop) :=
  let p := partOf e.cl
  let line := t.pa / 128
  match s.unitWaits e.cl e.x line false false with
  | (s, true) => (s, .inr (.again .busy a))
  | (s, false) =>
    let done := fun (s : State) (bs : List Byte) (bad : Nat) (keep : Bool) =>
      let s := ((s.chargeConst p e.x).unitTrip e.cl t.pa false).l2Access p e.x ⟨line * 128, 128⟩ false
      if spanBad (halfMask bad) (va % 128) n then (s, .inr (engTrap e.eng 3 va))
      else
        (if keep && bad == 0 then s.updCluster e.cl fun k => { k with kcache := ((e.x, va / 128, bs) :: k.kcache).take 512 } else s,
          .inl ((bs.drop (va % 128)).take n))
    match s.resolve p e.x (line * 128) e.own none with
    | (s, .ask g, _) => (s, .inr (.again (.ask g.line) a))
    | (s, .busy, _) => (s, .inr (.again .busy a))
    | (s, .lost, _) => (s, .inr (engTrap e.eng 4 va))
    | (s, .prior bs bad, _) => done s bs bad false
    | (s, _, tagged) => done s (s.homeLine line) (s.badHalves line) (!tagged)

/-- A read of constant space inside one line (R16, R79, R354). A page of types 2 and 3, the host window, a tagged line and another package's
are not kept (R14, R30, R171). -/
def constRead (s : State) (e : Eng) (va n : Nat) : State × (List Byte ⊕ EngStop) :=
  let p := partOf e.cl
  let a : EngAcc := ⟨e, va, n, none, true⟩
  match (s.cluster e.cl).kcache.find? fun l => l.1 == e.x && l.2.1 == va / 128 with
  | some l => (s.chargeConst p e.x, .inl ((l.2.2.drop (va % 128)).take n))
  | none =>
    match s.translate e.cl e.x va atRead with
    | (s, .ok t) =>
      if t.far.isNone && decide (t.mt ≤ 1) && inHbm t.pa && canonical va then constFill s e va n t a
      else match engRead1 s e va n with
        | (s, .inl bs) => (s.chargeConst p e.x, .inl bs)
        | r => r
    | _ => engRead1 s e va n

/-- A step is made again from its beginning: of all it did, only what its stopping access asked for stays (a request, a place in a
queue, a walk's entries). A trap stays as it is. -/
def State.engAgain (s0 s : State) (x : EngStop) : State × EngStop :=
  match x with
  | .trap r => (s, .trap r)
  | .again w a =>
    match a.bs with
    | some bs => match engWrite1 s0 a.e a.va bs with | (s', some y) => (s', y) | _ => (s, .again w a)
    | none => match (if a.const then constRead else engRead1) s0 a.e a.va a.n with | (s', .inr y) => (s', y) | _ => (s, .again w a)

/-- A read of a list of pieces, in order. -/
def engReads (e : Eng) : List (Nat × Nat) → State → State × (List Byte ⊕ EngStop)
  | [], s => (s, .inl [])
  | q :: qs, s =>
    match engRead1 s e q.1 q.2 with
    | (s, .inr x) => (s, .inr x)
    | (s, .inl bs) =>
      match engReads e qs s with
      | (s, .inr x) => (s, .inr x)
      | (s, .inl cs) => (s, .inl (bs ++ cs))

/-- A read of `n` bytes from a global address on; addresses wrap at 2^64. -/
def engRead (s : State) (e : Eng) (va n : Nat) : State × (List Byte ⊕ EngStop) :=
  engReads e ((linePieces va n).map fun q => (q.1 % 2 ^ 64, q.2)) s

/-- A write of a list of pieces taken from the bytes in order. -/
def engWrites (e : Eng) : List (Nat × Nat) → List Byte → State → State × Option EngStop
  | [], _, s => (s, none)
  | q :: qs, bs, s =>
    match engWrite1 s e q.1 (bs.take q.2) with
    | (s, some x) => (s, some x)
    | (s, none) => engWrites e qs (bs.drop q.2) s

/-- A write of bytes from a global address on. -/
def engWrite (s : State) (e : Eng) (va : Nat) (bs : List Byte) : State × Option EngStop :=
  engWrites e ((linePieces va bs.length).map fun q => (q.1 % 2 ^ 64, q.2)) bs s

/-! ## Commands -/

/-- The unit number of a command's engine in trace records (R477). -/
def Cmd.unit (c : Cmd) : Nat :=
  match c.instr with
  | .cpTile f | .cpLin f | .cpMcast f => 4 + f.vd.toNat % 8
  | .chain _ => 12
  | _ => 13

/-- The gang's side of a command: its engine view. -/
def Cmd.engOf (c : Cmd) (s : State) (cl eng : Nat) : Eng :=
  { cl, x := c.ctx, eng, own := ((s.gang? cl c.slot).map (·.ownIds)).getD [], unit := c.unit, slot := c.slot }

/-- A trap at a command's launch site (R367, R455). -/
def State.cmdTrapAt (s : State) (cl : Nat) (c : Cmd) (r : TrapRec) (lanes : List Nat) : State :=
  match (s.gang? cl c.slot).bind (·.op? c.op) with
  | some o => s.asyncTrap cl c.slot o r lanes
  | none => s

/-- The same of no lanes. -/
def State.cmdTrap (s : State) (cl : Nat) (c : Cmd) (r : TrapRec) : State := s.cmdTrapAt cl c r []

/-- A command begins or ends: the trace record of it (R477). -/
def State.traceCmd (s : State) (cl ev : Nat) (c : Cmd) (data : Nat) : State :=
  s.trace (partOf cl) ev (16 * cl + c.unit) c.slot c.ctx 0 c.iaddr c.cmdseq data

/-- A command has ended: its rows are free, its operation is complete (R137), and no access of it is waited for. -/
def State.endCmd (s : State) (cl : Nat) (c : Cmd) : State :=
  let s := (s.traceCmd cl 2 c c.done).forgetUnits fun k => k.cl == cl && k.x == c.ctx && k.unit == c.unit
  let s := s.updCluster cl fun k => { k with busy := k.busy.filter fun b => !(b.slot == c.slot && b.op == c.op) }
  (s.updOp cl c.slot c.op fun o => { o with complete := true }).updGang cl c.slot (·.retire)

/-- How a command whose step began at `s0` goes on when it stops: a page request is raised and the command keeps its place, a trap
ends it, or it waits. The second value is the command as it stays at the head of its queue, if it does. -/
def State.stopCmd (s0 s : State) (cl : Nat) (c : Cmd) (x : EngStop) : State × Option Cmd :=
  match s0.engAgain s x with
  | (s, .trap r) => ((s.cmdTrap cl c r).endCmd cl c, none)
  | (s, .again (.walk eng va f) _) =>
    let (s, r) := s.raise (partOf cl) c.ctx va f ⟨eng, c.cmdseq, c.iaddr⟩
    (s, some { c with fault := r, site := (eng, va) })
  | (s, .again (.ask line) _) => (s, some { c with asked := some line })
  | (s, .again .busy _) => (s, some c)

/-- A stop that shows as a fault of the command (R76). -/
def EngStop.faulted : EngStop → Bool
  | .again (.walk _ _ _) _ => true
  | _ => false

/-- A command may take its next step: it waits for no request and no answer. -/
def Cmd.free (c : Cmd) (s : State) : Bool :=
  c.fault.isNone && match c.asked with
    | some l => s.answers.any (·.line == l) || s.asks.all (·.1 != l)
    | none => true

/-- The stores before a command in its threads are performed at cluster scope (R136). -/
def State.cmdReady (s : State) (cl : Nat) (c : Cmd) : Bool :=
  match s.gang? cl c.slot with
  | none => true
  | some g =>
    match g.op? c.op with
    | none => true
    | some o => g.ops.all fun p => !decide (p.id < o.id) || match accOf p.instr with
        | some a => !atWrites a.kind.atype || p.lanes.all fun l => !bitOf o.act l.lane || l.st == .done
        | none => true

/-- Or the flags of a completing engine operation into its gang's FPFLAGS; an enabled one is an arithmetic exception at the launch
site (R218, R223). -/
def State.opFlags (s : State) (cl slot op fl : Nat) : State :=
  match (s.gang? cl slot).bind (·.op? op) with
  | none => s.updGang cl slot fun g => { g with fpflags := g.fpflags ||| fl }
  | some o =>
    let s := s.updGang cl slot fun g => { g with fpflags := g.fpflags ||| fl }
    if fl &&& bitsOf o.fpmode.toNat 19 5 = 0 then s else s.asyncTrap cl slot o { cls := clsArith, arg := fl } []

/-- The same for a command. -/
def State.cmdFlags (s : State) (cl : Nat) (c : Cmd) (fl : Nat) : State := s.opFlags cl c.slot c.op fl

end Sys2Proof.Machine
end

