-- ==== Sys2Proof/Machine/Context.lean ====
section
/-! DEFINITION. Contexts seen from outside their gangs: accesses through stage 2 alone (01:R519), the descriptor and the fault
ring (22:R487), completion records (18:R404-R406), consignments aborted (07:R169), and how a context ends (20:R458). -/

namespace Sys2Proof.Machine

/-! ## Where a context is -/

/-- The first partition on which a context is resident; 0 when none. -/
def State.partOfCtx (s : State) (x : Nat) : Nat :=
  ((s.clusters.search fun k => k.2.blocks.any fun b => b.2.ctx == x).map fun k => partOf k.1).getD 0

/-- The clusters on which a context has blocks. -/
def State.clustersOf (s : State) (x : Nat) : List Nat :=
  (s.clusters.filter fun k => k.2.blocks.any fun b => b.2.ctx == x).map (·.1)

/-- Energy that no context bears (R434): a state with the meters, buckets and sums of an older one. -/
def State.unbilled (s old : State) : State :=
  { s with ctxs := old.ctxs, uncoreRaw := old.uncoreRaw, uncoreSum := old.uncoreSum, pkgMeter := old.pkgMeter
           funcs := s.funcs.map fun u => (u.1, { u.2 with meter := (old.func u.1).meter }) }

/-! ## Accesses of a context that no cluster makes -/

/-- A read of bytes of one line at a physical address of this package, with its memory type (R30, R86, R170). A poisoned half is a fault
(R93). With stage 2 off there is no leaf and no type to refuse an address of the register aperture: it is accessed as a device (log 178,
DESIGN CHOICE). -/
def State.nearRead (s : State) (p x pa mt n : Nat) : State × Got (List Byte) :=
  if inAperture pa then
    let (s, v) := (s.charge p x 11 1).devLoad x pa n
    (s, .val (toBytes n v))
  else if inHost pa then (s.charge p x 11 1, .val (readBytes s.mem pa n))
  else if !inHbm pa then (s, .fault)
  else
    match if 2 ≤ mt then s.dropTurn (pa / 128) false else s.unitWaits (4 * p) x (pa / 128) false false with
    | (s, true) => (s, .waits)
    | (s, false) =>
      match s.resolve p x (pa / 128 * 128) [] none with
      | (s, .ask _, _) => (s, .waits)
      | (s, .busy, _) => (s, .waits)
      | (s, .expired, _) => (s, .fault)
      | (s, .lost, _) => (s, .fault)
      | (s, r, _) =>
        let s := if 2 ≤ mt then s.uncached p x ⟨pa, n⟩ else s.l2Access p x ⟨pa, n⟩ false
        match r with
        | .prior bs bad => (s, if spanBad (halfMask bad) (pa % 128) n then .fault else .val ((bs.drop (pa % 128)).take n))
        | _ => (s, if s.poisoned ⟨pa, n⟩ then .fault else .val (readBytes s.mem pa n))

/-- A write of bytes of one line in the same way; a line pending on a consignment is a fault (R167). `f` gives the bytes from those that
stand there, for an atomic. -/
def State.nearWrite (s : State) (p x pa mt n : Nat) (f : List Byte → List Byte) : State × Got Unit :=
  if inAperture pa then ((s.charge p x 11 1).devStore x pa n (fromBytes (f [])), .val ())
  else if inHost pa then ((s.charge p x 11 1).store pa (f (readBytes s.mem pa n)), .val ())
  else if !inHbm pa then (s, .fault)
  else
    match if 2 ≤ mt then s.dropTurn (pa / 128) true else s.unitWaits (4 * p) x (pa / 128) true (n == 128) with
    | (s, true) => (s, .waits)
    | (s, false) =>
      match s.writeGate p x (pa / 128 * 128) with
      | (s, .ask _) => (s, .waits)
      | (s, .busy) => (s, .waits)
      | (s, .pending) => (s, .fault)
      | (s, .lost) => (s, .fault)
      | (s, .go) =>
        let s := if 2 ≤ mt then s.uncached p x ⟨pa, n⟩ else s.l2Access p x ⟨pa, n⟩ true
        (s.store pa (f (readBytes s.mem pa n)), .val ())

/-! ## Accesses through stage 2 alone (R519) -/

/-- A read of one piece for context `x`. -/
def State.gpaRead1 (s : State) (p x : Nat) (q : Nat × Nat) : State × Got (List Byte) :=
  match s.stage2 p x q.1 false with
  | (s, .val t) => s.nearRead p x t.1 t.2 q.2
  | (s, .fault) => (s, .fault)
  | (s, .waits) => (s, .waits)

/-- A write of one piece for context `x`. -/
def State.gpaWrite1 (s : State) (p x q : Nat) (bs : List Byte) : State × Got Unit :=
  match s.stage2 p x q true with
  | (s, .val t) => s.nearWrite p x t.1 t.2 bs.length fun _ => bs
  | (s, .fault) => (s, .fault)
  | (s, .waits) => (s, .waits)

/-- Reads of pieces in order. Where one has to wait, of all they did only what it asked for stays, when the state `s0` before them is
given. -/
def readPieces (read1 : State → Nat × Nat → State × Got (List Byte)) (s0 : Option State) :
    List (Nat × Nat) → State → State × Got (List Byte)
  | [], s => (s, .val [])
  | q :: qs, s =>
    match read1 s q with
    | (s, .val bs) =>
      match readPieces read1 s0 qs s with
      | (s, .val cs) => (s, .val (bs ++ cs))
      | r => r
    | (s, .fault) => (s, .fault)
    | (s, .waits) => ((s0.map fun s0 => (read1 s0 q).1).getD s, .waits)

/-- Writes of pieces in order; the first fault stops. Where one has to wait, none is made, when the state before them is given. -/
def writePieces (write1 : State → Nat → List Byte → State × Got Unit) (s0 : Option State) :
    List (Nat × Nat) → List Byte → State → State × Got Unit
  | [], _, s => (s, .val ())
  | q :: qs, bs, s =>
    match write1 s q.1 (bs.take q.2) with
    | (s, .val _) => writePieces write1 s0 qs (bs.drop q.2) s
    | (s, .fault) => (s, .fault)
    | (s, .waits) => ((s0.map fun s0 => (write1 s0 q.1 (bs.take q.2)).1).getD s, .waits)

/-- `n` bytes at a guest-physical address of context `x`'s function, charged to it. -/
def State.gpaRead (s : State) (x gpa n : Nat) : State × Got (List Byte) :=
  readPieces (fun s q => s.gpaRead1 (s.partOfCtx x) x q) (some s) (linePieces gpa n) s

/-- Bytes written at a guest-physical address of context `x`'s function, charged to it. -/
def State.gpaWrite (s : State) (x gpa : Nat) (bs : List Byte) : State × Got Unit :=
  writePieces (fun s q bs => s.gpaWrite1 (s.partOfCtx x) x q bs) (some s) (linePieces gpa bs.length) bs s

/-! ## Global accesses of the queue manager (R186, R402, R404) -/

/-- S1ROOT and S2CTL sampled for a context (R22, R23). -/
def State.sampleRoots (s : State) (x : Nat) : State :=
  s.updCtx x fun c => { c with sroot := BitVec.ofNat 64 (s.desc x 0), s2ctl := (s.func (fnOf x)).s2ctl }

/-- A translation of a context's address by the queue manager: a walk of its own that fills no cache. A context that is not resident
holds no sampled root; its address is translated under those that its next residency would sample (log 132, DEDUCED). -/
def State.qTranslate (s : State) (x va a : Nat) : State × Got Xlat :=
  if !canonical va then (s, .fault)
  else
    let s := if (s.ctx x).st = 2 then s else s.sampleRoots x
    match s.unitWalk (s.partOfCtx x) (4 * s.partOfCtx x) x va a with
    | (s, .val (.inl e), _) => (s, .val (e.xlat va))
    | (s, .waits, _) => (s, .waits)
    | (s, _, _) => (s, .fault)

/-- An access of the queue manager to a line of another package. -/
def qAsk (p x pkg : Nat) (write : Bool) (pa n : Nat) : FarAsk := { cl := 4 * p, x, eng := 7, write, pkg, pa, n }

/-- What an end of a unit's access means to an access that raises nothing. -/
def UnitEnd.got : UnitEnd → Got (List Byte)
  | .bytes bs => .val bs
  | .trap _ => .fault
  | .waits => .waits

/-- A global read of one piece. -/
def State.qRead1 (s : State) (x : Nat) (q : Nat × Nat) : State × Got (List Byte) :=
  let p := s.partOfCtx x
  match s.qTranslate x q.1 atRead with
  | (s, .fault) => (s, .fault)
  | (s, .waits) => (s, .waits)
  | (s, .val t) =>
    match t.far with
    | some pkg => let r := s.farUnit p t.mt (qAsk p x pkg false t.pa q.2) (some t.via) []; (r.1, r.2.got)
    | none => s.nearRead p x t.pa t.mt q.2

/-- `n` bytes at a global address of a context; a fault raises no page request (R187, R397). -/
def State.qRead (s : State) (x va n : Nat) : State × Got (List Byte) :=
  readPieces (fun s q => s.qRead1 x q) (some s) ((linePieces va n).map fun q => (q.1 % 2 ^ 64, q.2)) s

/-- The completion counter add: a system-scope atomic of the context (R404). A fault leaves the counter as it is. -/
def State.counterAdd (s : State) (x va inc : Nat) : State × Got Unit :=
  let p := s.partOfCtx x
  match s.qTranslate x va atAtomic with
  | (s, .fault) => (s, .fault)
  | (s, .waits) => (s, .waits)
  | (s, .val t) =>
    match t.far with
    | some pkg =>
      match s.farUnitOp p t.mt (qAsk p x pkg true t.pa 8) (some t.via) (.atomic 0 true false (BitVec.ofNat 64 inc)) 1 with
      | (s, .waits) => (s, .waits)
      | (s, .trap _) => (s, .fault)
      | (s, .bytes _) => (s, .val ())
    | none =>
      if inHbm t.pa ∧ s.poisoned ⟨t.pa, 8⟩ then (s, .fault)
      else s.nearWrite p x t.pa t.mt 8 fun bs => toBytes 8 (fromBytes bs + inc)

/-! ## The descriptor and the fault ring (R486, R487) -/

/-- Write word `w` of a context's descriptor. -/
def State.setDesc (s : State) (x w v : Nat) : State :=
  if (s.func (fnOf x)).tblOn then s.homeStore (s.descAt x + 8 * w) (toBytes 8 v) else s

/-- The 128 bytes of a trap record. -/
def TrapRec.bytes (r : TrapRec) : List Byte := (r.words.map (toBytes 8)).flatten

/-- A record copied into its context's fault ring, and vector 16 signalled (R458, R487). A full ring or a faulting write
sets FRLOST. The Bool is false when the write has to wait. -/
def State.putRecord (s : State) (x : Nat) (r : TrapRec) : State × Bool :=
  let w7 := s.desc x 7
  let w8 := s.desc x 8
  let size := 2 ^ (Nat.min 10 (bitsOf w7 0 4) + 5)
  let head := w8 % 2 ^ 32
  let tail := w8 / 2 ^ 32 % 2 ^ 32
  if (tail + 1) % size = head % size then ((s.setDesc x 9 1).interrupt (fnOf x) 16, true)
  else
    match s.gpaWrite x (bitsOf w7 12 40 * 4096 + tail % size * 128) r.bytes with
    | (s', .val _) => (((s'.unbilled s).setDesc x 8 ((tail + 1) % size * 2 ^ 32 + head)).interrupt (fnOf x) 16, true)
    | (s', .fault) => (((s'.unbilled s).setDesc x 9 1).interrupt (fnOf x) 16, true)
    | (s', .waits) => (s'.unbilled s, false)

/-- A record for a context's fault ring: written at once, or behind those that wait. -/
def State.faultRecord (s : State) (x : Nat) (r : TrapRec) : State :=
  if s.frq != [] then { s with frq := s.frq ++ [(x, r)] }
  else
    match s.putRecord x r with
    | (s, true) => s
    | (s, false) => { s with frq := [(x, r)] }

/-- The oldest record that waits is written, if it can be. -/
def State.drainRecord (s : State) : Option State :=
  match s.frq with
  | [] => none
  | (x, r) :: rest =>
    match s.putRecord x r with
    | (s, true) => some { s with frq := rest }
    | (_, false) => none

/-- A line counted in LOSTLINES. -/
def State.countLost (s : State) (x : Nat) : State := s.updFunc (fnOf x) fun u => { u with lostLines := (u.lostLines + 1) % 2 ^ 32 }

/-- A dirty line that is given up (R404, R460): dropped, counted in LOSTLINES. -/
def State.loseLine (s : State) (cl line x : Nat) : State := (s.updL1 cl (·.del line)).countLost x

/-! ## Completion (R404-R406) -/

/-- The state with a queue changed. -/
def State.updQueue (s : State) (f q : Nat) (g : Queue → Queue) : State :=
  s.updFunc f fun u => { u with queues := u.queues.set q (g (u.queue q)) }

/-- Ring sizes (R399). -/
def Queue.sqSize (u : Queue) : Nat := 2 ^ (Nat.min 10 (bitsOf u.ctl.toNat 8 4) + 6)
def Queue.cqSize (u : Queue) : Nat := 2 ^ (Nat.min 10 (bitsOf u.ctl.toNat 12 4) + 6)
/-- EN. -/
def Queue.on (u : Queue) : Bool := bitOf u.ctl.toNat 0
/-- The context a queue of function `f` feeds. -/
def Queue.ctxOf (u : Queue) (f : Nat) : Nat := f * 4096 + u.ctl.toNat / 2 ^ 52
/-- The completion ring is full (R398). -/
def Queue.cqFull (u : Queue) : Bool := (u.cqTail + 1) % u.cqSize == u.cqHead % u.cqSize

/-- The four words of a completion record (R405). -/
def Done.words (d : Done) (q cseq stamp : Nat) : List Nat :=
  [d.seq % 2 ^ 32 * 2 ^ 32 + q * 2 ^ 28 + d.status, cseq, stamp, d.blocks % 2 ^ 32]

/-- The first step of a completion (R404): the record and CQ_TAIL. With no ring space it waits and CQFULL is set (R406); a record that
cannot be written waits too. -/
def State.writeDone (s : State) (f q : Nat) (d : Done) : State × Bool :=
  let u := (s.func f).queue q
  if d.written then (s, true)
  else if !u.on then (s, false)
  else if u.cqFull then (s.updQueue f q fun u => { u with stat := u.stat ||| 2 }, false)
  else
    let x := u.ctxOf f
    let (st, s1) := s.take
    let at' := u.cqBase.toNat / 4096 * 4096 + u.cqTail % u.cqSize * 32
    match s1.gpaWrite x at' ((d.words q u.nextCseq st.toNat).map (toBytes 8)).flatten with
    | (_, .fault) => (s, false)
    | (s', .waits) => (s', false)
    | (s, .val _) =>
      (s.updQueue f q fun u =>
        { u with cqTail := (u.cqTail + 1) % u.cqSize, doneSeq := d.seq, doneCseq := u.nextCseq
                 nextCseq := if u.nextCseq + 1 = 2 ^ 32 then 1 else u.nextCseq + 1
                 waiting := u.waiting.modify 0 fun d => { d with written := true } }, true)

/-- The three steps of the completion that heads a queue's waiting ones (R404): the record, the counter add, the interrupt. -/
def State.finishDone (s : State) (f q : Nat) (d : Done) : State × Bool :=
  match s.writeDone f q d with
  | (s, false) => (s, false)
  | (s, true) =>
    let u := (s.func f).queue q
    match if d.compAddr = 0 then (s, Got.val ()) else s.counterAdd (u.ctxOf f) d.compAddr d.compInc with
    | (s, .waits) => (s, false)
    | (s, _) => (if bitOf u.ctl.toNat 1 then s.interrupt f q else s, true)

/-- The waiting completions of a queue that can now be made, in order. -/
def State.flushDone (f q : Nat) : Nat → State → State
  | 0, s => s
  | n + 1, s =>
    match ((s.func f).queue q).waiting with
    | [] => s
    | d :: _ =>
      match s.finishDone f q d with
      | (s, true) => State.flushDone f q n (s.updQueue f q fun u => { u with waiting := u.waiting.tail })
      | (s, false) => s

/-- An entry completes: behind the completions that wait. -/
def State.complete (s : State) (f q : Nat) (d : Done) : State :=
  let s := s.updQueue f q fun u => { u with waiting := u.waiting ++ [d] }
  State.flushDone f q ((s.func f).queue q).waiting.length s

/-! ## Entries (R400, R401) -/

/-- Bytes of an entry as eight words. -/
def entryWords (bs : List Byte) : List Nat := (List.range 8).map fun i => fromBytes ((bs.drop (8 * i)).take 8)

/-- The fields of an entry. -/
def entryOf (w : List Nat) : Entry :=
  { seq := w.getD 0 0 / 2 ^ 32, typ := bitsOf (w.getD 0 0) 8 8, hdr := w.getD 1 0, depAddr := w.getD 2 0, depVal := w.getD 3 0
    compAddr := w.getD 4 0, compInc := w.getD 5 0 }

/-- The next entry of a queue is read and consumed (R397, R494): SQ_HEAD and SUBMIT_SEQ_SEEN move in one step; a read that
faults sets RFAULT and consumes nothing. -/
def State.consume (s : State) (f q : Nat) : State × Option (List Nat) :=
  let u := (s.func f).queue q
  if !u.on ∨ u.head % u.sqSize = u.tail % u.sqSize then (s, none)
  else
    match s.gpaRead (u.ctxOf f) (u.base.toNat / 4096 * 4096 + u.head % u.sqSize * 64) 64 with
    | (s, .waits) => (s, none)
    | (s, .fault) => (s.updQueue f q fun u => { u with stat := u.stat ||| 4 }, none)
    | (s, .val bs) =>
      let w := entryWords bs
      (s.updQueue f q fun u => { u with head := (u.head + 1) % u.sqSize, consumed := (u.consumed + 1) % 2 ^ 32
                                        seqSeen := w.getD 0 0 / 2 ^ 32 }, some w)

/-! ## Consignments of a context that ends (R169) -/

/-- The tag of a line, whichever store holds it. -/
def State.tagOfLine (s : State) (line : Nat) : Option Tag :=
  (128 :: List.range 128).findSome? fun f =>
    if (s.func f).vOn && decide (0 < (s.func f).tagPages) then
      (s.bucket f (line * 128)).find? fun t => t.st != 0 && t.line == line
    else none

/-- The tags of this package pending on a consignment, in MIDX order. -/
def State.tagsOf (s : State) (csgid : Nat) : List Tag :=
  ((s.tagBit.filterMap fun e => if e.2 then s.tagOfLine e.1 else none).filter fun t =>
    t.st == 1 && t.csgid == csgid).mergeSort fun a b => a.midx ≤ b.midx

/-- The restore of every pending line of a consignment on this package (R169). -/
def State.restoreAll (s : State) (p x csgid : Nat) : State :=
  (s.tagsOf csgid).foldl (fun s t => (s.restore p x t).1) s

/-- The lines that the restores of a consignment's tags need. -/
def State.restoreNeeds (s : State) (csgid : Nat) : List (Nat × Bool × Bool) :=
  (s.tagsOf csgid).flatMap fun t => (t.addr / 128, false, false) :: s.restoreLines t

/-- An abort has to wait: for lines of its record and its restores (R91, R109), for remote accesses of its context that are not yet
acknowledged, among which its stores are (R168 step 1). -/
def State.abortWaits (s : State) (p x : Nat) (c : CsgSlot) : State × Bool :=
  if s.remotes.any fun r => r.2.ctx == x && r.2.unit.isNone then (s, true)
  else State.linesWait p x (((s.func (csgVf c.csgid)).recAt c.mrec / 128, true, false) ::
    (if c.pkgs.contains s.pkgId then s.restoreNeeds c.csgid else [])) s

/-- A record is freed (R168, R169). -/
def State.freeRec (s : State) (f rec' : Nat) : State :=
  s.updFunc f fun u => { u with recUsed := u.recUsed.filter (· != rec'), notices := u.notices.filter (·.1 != rec') }

/-- An abort's record and restores (R169): STATE 2, the lines of this package restored at once, a restore sent to each other
package. The record is freed when none is left. -/
def State.abortRec (s : State) (p x : Nat) (c : CsgSlot) : State :=
  let f := csgVf c.csgid
  let a := (s.func f).recAt c.mrec
  let s := ((s.l2Access p x ⟨a, 64⟩ true).writeNum a 8 (2 * 2 ^ 48 + c.csgid)).writeNum (a + 8) 8 0
  let s := if c.pkgs.contains s.pkgId then s.restoreAll p x c.csgid else s
  match c.pkgs.filter (· != s.pkgId) with
  | [] => s.freeRec f c.mrec
  | ps =>
    let s := ps.foldl (fun s d => s.reply .restore d c.mrec a 1 [c.csgid] []) (s.chargeQ p x 13 (2 * ps.length))
    s.updFunc f fun u => { u with notices := u.notices ++ [(c.mrec, ps, true, x)] }

/-- A slot of a context that has ended is aborted, or waits for it (R169). -/
def State.abortSlot (s : State) (p x : Nat) (c : CsgSlot) : State :=
  match s.abortWaits p x c with
  | (s, true) => { s with aborts := s.aborts ++ [(x, c)] }
  | (s, false) => s.abortRec p x c

/-- The first waiting abort that can be made. -/
def State.drainAbort (s : State) : Option State :=
  s.aborts.findSome? fun a => match s.abortWaits (s.partOfCtx a.1) a.1 a.2 with
    | (s, false) => some ({ s with aborts := s.aborts.erase a }.abortRec (s.partOfCtx a.1) a.1 a.2)
    | (_, true) => none

/-! ## Leaving the clusters -/

/-- References to the gang of a slot are dropped: its lanes wait at no slice, its remote requests find no gang. -/
def State.forget (s : State) (cl slot : Nat) : State :=
  let mine := fun (w : LaneRef) => w.cl == cl && w.slot == slot
  { s with
    slices := s.slices.map fun k => (k.1,
      { k.2 with waits := k.2.waits.filter (fun w => !mine w.who)
                 mrs := k.2.mrs.map fun m => (m.1, { m.2 with joined := m.2.joined.filter (!mine ·) }) })
    remotes := s.remotes.map fun r => (r.1, if r.2.cl = cl ∧ r.2.slot = slot then { r.2 with slot := 2 ^ 20 } else r.2) }

/-- A FIFO is released: its register and its words are zero (R73). -/
def Cluster.freeFifo (k : Cluster) (b : Nat) : Cluster :=
  { k with fifos := k.fifos.del b, sram := k.sram.filter fun w => w.1 / 16384 != b
           sramPoison := k.sramPoison.filter fun w => w.1 / 16384 != b }

/-- The FIFOs a context owns. -/
def Cluster.fifosOf (k : Cluster) (x : Nat) : List Nat :=
  (k.fifos.filter fun e => e.2.owner == some x).map (·.1)

/-- A context's channel registers leave a cluster, with what it left in the macros and the A row buffer. -/
def Cluster.dropChans (k : Cluster) (x : Nat) : Cluster :=
  { k with chans := k.chans.filter fun c => c.1 / 8 != x
           units8 := k.units8.map fun u => if u.ctx = some x then { u with ctx := none } else u
           arow := k.arow.filter fun a => a.ctx != x }

/-- A gang of a context that leaves with it: every one, or, at a save, those of its blocks. An ended gang of an ended block holds
nothing of the cluster and stays until its operations end (R169, R417). -/
def Cluster.leaves (k : Cluster) (x : Nat) (ends : Bool) (g : Nat × Gang) : Bool :=
  g.2.ctx == x && (ends || decide (g.1 < 64) || k.blocks.has g.2.blk)

/-- Everything of a context leaves a cluster: its gangs, blocks, commands, queues, FIFOs, tables and handler. -/
def Cluster.evict (k : Cluster) (x : Nat) (ends : Bool) : Cluster :=
  let blks := (k.blocks.filter fun b => b.2.ctx == x).map (·.1)
  let slots := (k.gangs.filter (k.leaves x ends)).map (·.1)
  let k := (k.fifosOf x).foldl Cluster.freeFifo k
  { k with
    gangs := k.gangs.filter (!k.leaves x ends ·)
    blocks := k.blocks.filter fun b => b.2.ctx != x
    mxq := k.mxq.filter fun c => c.ctx != x
    chanq := k.chanq.map fun q => q.filter fun c => c.ctx != x
    chainq := k.chainq.filter fun c => c.ctx != x
    units8 := k.units8.map fun u => if u.ctx = some x then { u with ctx := none } else u
    arow := k.arow.filter fun a => a.ctx != x
    busy := k.busy.filter fun b => !slots.contains b.slot
    rowWait := k.rowWait.filter fun w => !slots.contains w.slot
    rowqs := k.rowqs.map fun r => match r.1 with | some b => if blks.contains b then (none, []) else r | none => r
    tids := k.tids.filter fun t => t.1 / 64 != x
    handler := match k.handler with | some h => if h.gang.ctx = x then none else some h | none => none
    wakePend := k.wakePend && (k.gangs.any fun g => g.2.ctx != x && g.2.threads.any (·.wake)) }

/-- A context leaves every cluster, with the wakes that were pending for it alone (R422); no access of its engines is waited for. -/
def State.evict (s : State) (x : Nat) (ends : Bool) : State :=
  let s := s.clusters.foldl (fun s k =>
    (k.2.gangs.filter (k.2.leaves x ends)).foldl (fun s g => s.forget k.1 g.1) s) s
  let clusters := s.clusters.map fun k => (k.1, k.2.evict x ends)
  let s : State := { s with clusters, wakes := s.wakes.filter fun c => ((FMap.find? clusters c).map (·.wakePend)).getD false }
  s.forgetUnits fun k => k.x == x && k.eng != 6

/-- A context's channel registers (R75), tiles and A row entries leave every cluster. -/
def State.dropChans (s : State) (x : Nat) : State := { s with clusters := s.clusters.map fun k => (k.1, k.2.dropChans x) }

/-- The gangs of a context, resident or saved. -/
def State.gangsOf (s : State) (x : Nat) : List Gang :=
  (s.clusters.map fun k => (k.2.gangs.filter fun g => g.2.ctx == x).map (·.2)).flatten ++
    ((s.ctx x).saved.map fun c => (c.blocks.map fun b => b.gangs.map (·.2)).flatten).flatten

/-- The consignment slots of some gangs that are open or closing. -/
def slotsInUse (gs : List Gang) : List CsgSlot := (gs.map fun g => g.slots.filter fun c => c.st != 0 && c.st != 4).flatten

/-- The consignments of a context that its end aborts (R169): open ones, those of ended gangs among them, and those whose seal or
abort still waits to be made (log 137, DESIGN CHOICE). -/
def State.openSlots (s : State) (x : Nat) : List CsgSlot := slotsInUse (s.gangsOf x)

/-- The visible function meter follows the exact one (R430). -/
def State.showMeter (s : State) (f : Nat) : State := s.updFunc f fun u => { u with shown := u.meter }

/-- The entries of a queue of an ended context complete ABORTED (R405): its started launches, whatever context the queue feeds now, the one
held at its head, and those still in its ring. -/
def State.abortQueue (s : State) (f q x : Nat) : State :=
  let u := (s.func f).queue q
  let mine := s.launches.filter fun n => n.2.ctx == x && n.2.queue == q
  let s := mine.foldl (fun s n => s.complete f q
    { seq := n.2.seq, status := 6, blocks := n.2.placed, compAddr := n.2.compAddr, compInc := n.2.compInc }) s
  if u.ctxOf f ≠ x then s
  else
    let s := match u.entry, u.launch with
      | some e, none => s.complete f q { seq := e.seq, status := 6, blocks := 0, compAddr := e.compAddr, compInc := e.compInc }
      | _, _ => s
    let s := s.updQueue f q fun u => { u with entry := none, launch := none }
    let left := (u.tail + u.sqSize - u.head % u.sqSize) % u.sqSize
    (List.range left).foldl (fun s _ =>
      match s.consume f q with
      | (s, some w) =>
        let e := entryOf w
        s.complete f q { seq := e.seq, status := 6, blocks := 0, compAddr := e.compAddr, compInc := e.compInc }
      | (s, none) => s) s

/-! ## Lanes of every gang -/

/-- A request that could not be raised may be raised now (R50). -/
def State.canRaise (s : State) (p x : Nat) : Bool :=
  let u := s.func (fnOf x)
  decide (u.live.countP (·.ctx == x) < 512) &&
    (u.prqRoom || decide ((s.funcs.map fun v => v.2.live.countP fun r => r.held && r.part == p).sum < 64))

/-- Every gang with its cluster and slot, handlers included. -/
def State.everyGang (s : State) : List (Nat × Nat × Gang) :=
  (s.clusters.map fun k =>
    k.2.gangs.map (fun g => (k.1, g.1, g.2)) ++
      (match k.2.handler with | some h => [(k.1, handlerSlot, h.gang)] | none => [])).flatten

/-- The lanes of every gang that satisfy a test. -/
def State.lanesWhere (s : State) (t : Nat → Gang → Op → LaneAcc → Bool) : List LaneRef :=
  (s.everyGang.map fun g => (g.2.2.ops.map fun o =>
    (o.lanes.filter fun l => t g.1 g.2.2 o l).map fun l => (⟨g.1, g.2.1, o.id, l.lane⟩ : LaneRef)).flatten).flatten

/-- A lane by its reference: its gang, operation, access and lane. -/
def State.laneAt (s : State) (r : LaneRef) : Option (Gang × Op × Acc × LaneAcc) :=
  match s.gang? r.cl r.slot with
  | none => none
  | some g =>
    match g.op? r.op with
    | none => none
    | some o =>
      match accOf o.instr, o.lanes.find? (·.lane == r.lane) with
      | some a, some l => some (g, o, a, l)
      | _, _ => none

/-- The operations of some lanes. -/
def opsOf (ls : List LaneRef) : List (Nat × Nat × Nat) := (ls.map fun r => (r.cl, r.slot, r.op)).eraseDups

/-- Start some operations' fresh lanes again and serve what is ready. -/
def State.startOps (s : State) (os : List (Nat × Nat × Nat)) : State := os.foldl (fun s o => s.startOp o.1 o.2.1 o.2.2) s

/-- Set the state of some lanes. -/
def State.setLanes (s : State) (ls : List LaneRef) (st : LaneSt) : State :=
  ls.foldl (fun s r => s.updOp r.cl r.slot r.op (·.setLane r.lane st)) s

/-- Lanes that could not raise a request walk again (R50). -/
def State.wakeStalled (s : State) : State :=
  let ls := s.lanesWhere fun cl g _ l => l.st == .stalled && s.canRaise (partOf cl) g.ctx
  (s.setLanes ls .fresh).startOps (opsOf ls)

/-- A context ends (R52, R458, R462, R488): its consignments, those whose seal still waits among them (log 137, DESIGN CHOICE), are aborted and its views closed (R169), its requests cease to
be live (R56), its pinned lines are discarded (R460), it leaves the clusters, and its entries complete ABORTED. -/
def State.endContext (s : State) (x : Nat) : State :=
  let f := fnOf x
  let p := s.partOfCtx x
  let s := (s.openSlots x).foldl (fun s c => s.abortSlot p x c) s
  let s := s.updFunc f fun u => { u with live := u.live.filter (·.ctx != x) }
  let s := s.clusters.foldl (fun s k =>
    (k.2.l1.filter fun e => e.2.ctx == x && e.2.pinned).foldl (fun s e => s.loseLine k.1 e.1 x) s) s
  let s := ((s.evict x true).dropChans x).updCtx x fun c =>
    { c with st := 4, saved := [], responses := [], leaving := none, groups := [], swapped := 0, chanRest := [] }
  let s := (List.range 16).foldl (fun s q => s.abortQueue f q x) s
  (({ s with launches := s.launches.filter fun n => n.2.ctx != x }).showMeter f).wakeStalled

/-! ## The save area (R464) -/

/-- The save area's address (R464, R487). -/
def State.saveAt (s : State) (x : Nat) : Nat := bitsOf (s.desc x 5) 16 36 * 2 ^ 16

/-- A save or restore access failed (R464). -/
def State.saveFailed (s : State) (x : Nat) : State :=
  (s.endContext x).updFunc (fnOf x) fun u => { u with saveFault := true }

/-- A response to a request of a saved context is recorded, in the area and with the context (R56, R465); the response is taken once its
eight bytes are written. -/
def State.recordResponse (s : State) (r : PageReq) (code : Nat) : State × Bool :=
  let rs := (s.ctx r.ctx).responses
  match s.gpaWrite r.ctx (s.saveAt r.ctx + 256 + 8 * rs.length) (toBytes 8 (code * 2 ^ 32 + r.seq % 2 ^ 32)) with
  | (s, .waits) => (s, false)
  | (s, .fault) => (s.saveFailed r.ctx, true)
  | (s, .val _) => (s.updCtx r.ctx fun x => { x with responses := rs ++ [(r, code)] }, true)

end Sys2Proof.Machine
end

