-- ==== Sys2Proof/Machine/Residency.lean ====
section
/-! DEFINITION. Blocks on clusters: what is free (08:R191, 18:R413), where a block goes (18:R411, R412), its placement (08:R180,
18:R414), the release of an ended gang and of an ended block (18:R417, R418). -/

namespace Sys2Proof.Machine

/-! ## What is free -/

/-- Gangs that occupy slots, draining ones included (R417). -/
def Cluster.slotted (k : Cluster) : List (Nat × Gang) := k.gangs.filter fun g => g.1 < 64

/-- Free gang slots and register entries of the four lane rows. -/
def Cluster.freeRows (k : Cluster) : List (Nat × Nat) :=
  (List.range 4).map fun r =>
    let gs := k.slotted.filter fun g => g.1 / 16 == r
    (16 - gs.length, 1024 - (gs.map fun g => g.2.allot).sum)

/-- Ranges in use, as starts and ends: scratchpad allocations, and scratchpad banks that are draining (R67). -/
def Cluster.scratchUsed (k : Cluster) : List (Nat × Nat) :=
  (k.blocks.filterMap fun b => if b.2.ssize = 0 then none else some (b.2.sbase, b.2.sbase + b.2.ssize)) ++
    ((List.range k.scratchBanks.length).filterMap fun i =>
      if k.drains.contains (k.scratchBanks.getD i 0) then some (i * 65536, (i + 1) * 65536) else none)

/-- Accumulator row ranges in use. -/
def Cluster.accUsed (k : Cluster) : List (Nat × Nat) :=
  k.blocks.filterMap fun b => if b.2.accRows = 0 then none else some (b.2.accBase, b.2.accBase + b.2.accRows)

/-- The lowest start at which `n` units fit among ranges in use, below a limit. -/
def lowestFit (used : List (Nat × Nat)) (limit n : Nat) : Option Nat :=
  ((0 :: used.map (·.2)).filter fun b =>
    decide (b + n ≤ limit) && used.all fun u => decide (b + n ≤ u.1 ∨ u.2 ≤ b)).foldl
    (fun m b => match m with | none => some b | some c => some (Nat.min b c)) none

/-- The largest free range below a limit. -/
def largestFree (used : List (Nat × Nat)) (limit : Nat) : Nat :=
  ((0 :: used.map (·.2)).map fun b =>
    if used.any fun u => decide (u.1 ≤ b ∧ b < u.2) then 0
    else (used.filter fun u => decide (b ≤ u.1)).foldl (fun m u => Nat.min m u.1) limit - b).foldl Nat.max 0

/-- Bytes of the scratchpad in banks that are not draining. -/
def Cluster.scratchFree (k : Cluster) : Nat :=
  k.scratchBanks.length * 65536 - (k.scratchUsed.map fun u => u.2 - u.1).sum

/-! ## Fitting (R191, R413) -/

/-- The allotments of a block's gangs in index order: role number and role. -/
def Launch.gangRoles (n : Launch) : List (Nat × Role) :=
  ((List.range n.roles.length).map fun r =>
    match n.roles[r]? with | some ro => List.replicate ro.gangs (r, ro) | none => []).flatten

/-- The row of a gang: the most free slots, then the most free register entries, then the lowest number. -/
def bestRow (rows : List (Nat × Nat)) : Nat :=
  (List.range 4).foldl (fun b r =>
    let x := rows.getD b (0, 0)
    let y := rows.getD r (0, 0)
    if x.1 < y.1 ∨ (x.1 = y.1 ∧ x.2 < y.2) then r else b) 0

/-- The rows of a block's gangs in index order; `none` when one does not fit its row. -/
def rowsFor : List Nat → List (Nat × Nat) → Option (List Nat)
  | [], _ => some []
  | a :: as, rows =>
    let r := bestRow rows
    let x := rows.getD r (0, 0)
    if x.1 = 0 ∨ x.2 < a then none
    else (rowsFor as (rows.set r (x.1 - 1, x.2 - a))).map (r :: ·)

/-- Where a block would stand on a cluster. -/
structure Fit where
  rows : List Nat
  sbase : Nat
  acc : Nat
  deriving DecidableEq, Repr

/-- FIFO claims hold on a cluster (R189). -/
def Cluster.fifosFit (k : Cluster) (x mask : Nat) : Bool :=
  (bitList 32 mask).all fun b => k.mode b == 2 && match (k.fifos.getD b ⟨none, 0, 0⟩).owner with
    | none => true
    | some o => o == x

/-- A block of a launch fits a cluster (R191). -/
def Cluster.fits (k : Cluster) (n : Launch) : Option Fit :=
  if !k.fifosFit n.ctx n.fifomask then none
  else
    match rowsFor (n.gangRoles.map (·.2.allot)) k.freeRows,
        lowestFit k.scratchUsed (k.scratchBanks.length * 65536) n.scratch, lowestFit k.accUsed 1024 n.accRows with
    | some rows, some sbase, some acc => some { rows, sbase, acc }
    | _, _, _ => none

/-- The cluster's key of R412, field by field. -/
def Cluster.placeKey (k : Cluster) : List Nat :=
  [(k.freeRows.map (·.1)).sum, (k.freeRows.map (·.2)).sum, k.scratchFree / 1024, largestFree k.accUsed 1024]

/-- A key is greater than another, compared field by field. -/
def keyGt : List Nat → List Nat → Bool
  | a :: as, b :: bs => decide (b < a) || (a == b && keyGt as bs)
  | _, _ => false

/-- Partitions a function may use (R407). -/
def State.permitted (s : State) (f : Nat) : List Nat := bitList 40 (s.func f).parts

/-- The best cluster among some partitions. -/
def State.bestOf (s : State) (n : Launch) (ps : List Nat) : Option (Nat × Fit) :=
  (ps.flatMap fun p => (List.range 4).map (4 * p + ·)).foldl (fun b c =>
    match (s.cluster c).fits n, b with
    | none, b => b
    | some f, none => some (c, f)
    | some f, some d => if keyGt (s.cluster c).placeKey (s.cluster d.1).placeKey then some (c, f) else some d) none

/-- The cluster of a launch's next block (R411, R412): on partitions its function holds, else on free ones. -/
def State.chooseCluster (s : State) (n : Launch) : Option (Nat × Fit) :=
  let f := fnOf n.ctx
  match s.bestOf n ((s.permitted f).filter fun p => s.holder p == some f) with
  | some r => some r
  | none => s.bestOf n ((s.permitted f).filter fun p => (s.holder p).isNone)

/-! ## Placement -/

/-- A cluster has an issuing gang (R414): one with a live thread that no wake holds back. -/
def State.issuing (s : State) (cl : Nat) : Bool :=
  (s.cluster cl).slotted.any fun g => !g.2.halt && !g.2.tstop && !g.2.pstop && !g.2.estop && !(s.ctx g.2.ctx).stopped &&
    g.2.liveLanes.any fun l => !(g.2.thread l).wake

/-- A cluster's wake is pending (R419). -/
def State.wakeCluster (s : State) (cl : Nat) : State :=
  let s := s.updCluster cl fun k => { k with wakePend := true }
  { s with wakes := if s.wakes.contains cl || s.batch.contains cl then s.wakes else s.wakes ++ [cl] }

/-- The roots are sampled at the first placement of a residency (R22, R23). -/
def State.becomeResident (s : State) (x : Nat) : State :=
  if (s.ctx x).st = 2 then s
  else (s.sampleRoots x).updCtx x fun c => { c with st := 2, resNs := s.timeNs }

/-- Slots for the gangs of a block: the lowest free slot of each gang's row. -/
def slotsFor : List Nat → List Nat → List Nat
  | [], _ => []
  | r :: rs, used =>
    let sl := (((List.range 16).map (16 * r + ·)).find? fun i => !used.contains i).getD 0
    sl :: slotsFor rs (sl :: used)

/-- FIFO claims at a context's first block on the cluster (R189). -/
def Cluster.claim (k : Cluster) (x mask : Nat) : Cluster :=
  (bitList 32 mask).foldl (fun k b =>
    let r := k.fifos.getD b ⟨none, 0, 0⟩
    { k with fifos := k.fifos.set b { r with owner := some x } }) k

/-- Place the next block of launch `i` on a cluster (R180, R184, R185, R413, R414). -/
def State.placeBlock (s : State) (i : Nat) (n : Launch) (cl : Nat) (ft : Fit) : State :=
  let x := n.ctx
  let lin := n.placed
  let s := s.becomeResident x
  let wake := !s.issuing cl
  let k := s.cluster cl
  let key := i * 2 ^ 32 + lin
  let slots := slotsFor ft.rows (k.slotted.map (·.1))
  let gs := n.gangRoles
  let b : Block := { ctx := x, launch := i, lin, bx := lin % n.gridX, by' := lin / n.gridX % n.gridY, bz := lin / n.gridX / n.gridY
                     sbase := ft.sbase, ssize := n.scratch, accBase := ft.acc, accRows := n.accRows, cbase := n.cbase
                     csize := n.csize, gangs := slots.map some, groups := n.member.getD lin [], coop := n.coop
                     gridBlocks := n.gridX * n.gridY * n.gridZ, fifomask := n.fifomask }
  let mk := fun (j : Nat) =>
    let ro := gs.getD j (0, ⟨0, false, false, false, 0, 0⟩)
    let g := Gang.start x key j ro.1 ro.2 n.depth ((lin * 64 + j) * 32)
    let g := { g with picked := s.cycles }
    if wake then { g with threads := g.threads.map fun t => { t with wake := true } } else g
  let first := k.blocks.all fun b => b.2.ctx != x
  let s := if n.acq then s.acquireDrop cl else s
  let s := s.updCluster cl fun k =>
    let k := if first then { k with tids := k.tids.filter fun t => t.1 / 64 != x } else k
    let k := k.claim x n.fifomask
    { k with
      blocks := k.blocks.set key b
      gangs := (List.range slots.length).foldl (fun m j => m.set (slots.getD j 0) (mk j)) k.gangs
      kcache := if n.clusters.contains cl then k.kcache else k.kcache.filter fun e => e.1 != x
      icache := if n.clusters.contains cl then k.icache else k.icache.filter (·.ctx != x) }
  let s := if wake then s.wakeCluster cl else s
  let done := n.placed + 1 = n.gridX * n.gridY * n.gridZ
  let n' := { n with placed := n.placed + 1, clusters := if n.clusters.contains cl then n.clusters else n.clusters ++ [cl] }
  let s : State := { s with launches := s.launches.set i n' }
  let s := s.updCtx x fun c => { c with eligNs := s.timeNs, lastQ := n.queue }
  let s := if done then s.updQueue (fnOf x) n.queue fun u => { u with entry := none, launch := none } else s
  s.trace (partOf cl) 4 (64 * partOf cl + 15) (slots.headD 0) x lin 0 0 0

/-- Place blocks of launch `i` one after another while they fit (R409). -/
def State.placeMany (i : Nat) : Nat → State → State
  | 0, s => s
  | m + 1, s =>
    match s.launches.find? i with
    | none => s
    | some n =>
      if n.gridX * n.gridY * n.gridZ ≤ n.placed then s
      else
        match s.chooseCluster n with
        | none => s
        | some (cl, ft) => State.placeMany i m (s.placeBlock i n cl ft)

/-! ## Release -/

/-- Every write to the gang's registers has settled (R417). -/
def Gang.settledAll (g : Gang) : Bool := g.threads.all fun t => t.unsettled.isEmpty && t.unsettledP.isEmpty

/-- Nothing of a gang is left to be done: no operation, no open slot or view. -/
def Gang.finished (g : Gang) : Bool :=
  g.ops.isEmpty && g.slots.all (·.st == 0) && g.views.all (!·.isOpen) && g.flushed

/-- A gang moves to another key of the table; whatever names it follows. -/
def State.moveGang (s : State) (cl old new : Nat) (g : Gang) : State :=
  let ren := fun n => if n = old then new else n
  let who := fun (w : LaneRef) => if w.cl = cl then { w with slot := ren w.slot } else w
  let s := s.updCluster cl fun k =>
    { k with
      gangs := (k.gangs.del old).set new g
      mxq := k.mxq.map fun c => { c with slot := ren c.slot }
      chanq := k.chanq.map fun q => q.map fun c => { c with slot := ren c.slot }
      chainq := k.chainq.map fun c => { c with slot := ren c.slot }
      busy := k.busy.map fun b => { b with slot := ren b.slot }
      rowWait := k.rowWait.map fun w => { w with slot := ren w.slot }
      arow := k.arow.map fun a => { a with slot := ren a.slot } }
  { s with
    slices := s.slices.map fun k => (k.1,
      { k.2 with waits := k.2.waits.map fun w => { w with who := who w.who }
                 mrs := k.2.mrs.map fun m => (m.1, { m.2 with joined := m.2.joined.map who }) })
    remotes := s.remotes.map fun r => (r.1, if r.2.cl = cl then { r.2 with slot := ren r.2.slot } else r.2)
    funcs := s.funcs.map fun u => (u.1, { u.2 with tlbiPend := u.2.tlbiPend.map fun t => (t.1, t.2.map who) }) }

/-- A gang leaves the table: what it left in the A row buffer is no gang's (R360). -/
def Cluster.dropGang (k : Cluster) (slot : Nat) : Cluster :=
  { k with gangs := k.gangs.del slot, arow := k.arow.map fun a => if a.slot = slot then { a with slot := 2 ^ 20 } else a }

/-- The slot and registers of an ended gang are released once its writes have settled (R417); a gang with operations
outstanding, or host-window stores that no flushing read followed (R404), is kept beside the slots until they end. -/
def State.releaseGang (s : State) (cl slot : Nat) : State :=
  match (s.cluster cl).gangs.find? slot with
  | none => s
  | some g =>
    if g.liveLanes ≠ [] ∨ !g.settledAll ∨ (64 ≤ slot ∧ g.finished = false) then s
    else if 64 ≤ slot then (s.forget cl slot).updCluster cl (·.dropGang slot)
    else
      let s := s.updCluster cl fun k => { k with blocks := k.blocks.adjust g.blk fun b => { b with gangs := b.gangs.set g.index none } }
      if g.finished then (s.forget cl slot).updCluster cl (·.dropGang slot)
      else
        let new := (((List.range 1024).map fun i => slot + 128 * (i + 1)).find? fun i => !(s.cluster cl).gangs.has i).getD 0
        s.moveGang cl slot new g

/-- REGISTER_RELEASE (R417). -/
def execRegisterRelease (cl slot : Nat) (s : State) : Out := .next (s.releaseGang cl slot)

/-- Breakpoints a function wrote in a partition that it no longer holds lose EN and HIT (R490). -/
def State.clearBreaks (s : State) (p f : Nat) : State :=
  if s.holder p = some f ∨ f = 128 then s
  else
    { s with clusters := s.clusters.map fun k => (k.1,
        if partOf k.1 = p then
          { k.2 with lbp := k.2.lbp.map fun b =>
              (b.1, if b.2.2.2 = f then (b.2.1, b.2.2.1 &&& BitVec.ofNat 64 (2 ^ 64 - 4), f) else b.2) }
        else k.2) }

/-- A context without a block and with nothing saved is idle (R489). -/
def State.settleCtx (s : State) (x : Nat) : State :=
  let c := s.ctx x
  if c.st = 2 ∧ c.leaving = none ∧ c.saved = [] ∧ s.clusters.all fun k => k.2.blocks.all fun b => b.2.ctx != x then
    s.updCtx x fun c => { c with st := 1 }
  else s

/-- The engine commands of a block's gangs. -/
def Cluster.cmdsOf (k : Cluster) (key : Nat) : List Cmd :=
  (k.mxq ++ k.chanq.flatten ++ k.chainq).filter fun c => c.blk == key

/-- A block ends (R181, R418): its gangs have released their registers and its commands have completed; its scratchpad,
rows, queues and, with the context's last block on the cluster, its FIFOs (R73) and its TID table (R351) are released; what it left in the
macros and the A row buffer stays (log 154). -/
def State.endBlock (s : State) (cl key : Nat) : State :=
  let k := s.cluster cl
  match k.blocks.find? key with
  | none => s
  | some b =>
    if b.gangs.any (·.isSome) || !(k.cmdsOf key).isEmpty || k.rowWait.any (fun w =>
        match k.gangs.find? w.slot with | some g => g.blk == key | none => false) then s
    else
      let x := b.ctx
      let s := s.updCluster cl fun k =>
        let k : Cluster :=
          { k with
            blocks := k.blocks.del key
            rowqs := k.rowqs.map fun r => if r.1 = some key then (none, []) else r }
        let past := (k.gangs.filter fun g => decide (64 ≤ g.1) && g.2.blk == key && g.2.finished).map (·.1)
        let k := past.foldl Cluster.dropGang k
        if k.blocks.any fun b => b.2.ctx == x then k
        else
          let k : Cluster := (k.fifosOf x).foldl Cluster.freeFifo k
          { k with tids := k.tids.filter fun t => t.1 / 64 != x }
      let s : State := { s with launches := s.launches.adjust b.launch fun n => { n with ended := n.ended + 1 } }
      let s := s.trace (partOf cl) 5 (64 * partOf cl + 15) 0 x b.lin 0 0 0
      (s.settleCtx x).clearBreaks (partOf cl) (fnOf x)

/-- BLOCK_END (R181). -/
def execBlockEnd (cl blk : Nat) (s : State) : Out := .next (s.endBlock cl blk)

end Sys2Proof.Machine
end

