-- ==== Sys2Proof/Machine/Banks.lean ====
section
/-! DEFINITION. Changes of the SRAM's bank modes (03:R62-R67) and soft errors (03:R80, 04:R93). -/

namespace Sys2Proof.Machine

/-! ## Bank modes -/

/-- The 2-bit field of bank `b`. -/
def modeAt (m b : Nat) : Nat := bitsOf m (2 * b) 2

/-- The place in the scratchpad order of bank `b`, or of the first scratchpad bank above it (R65). -/
def scratchPlace (m b : Nat) : Nat := (List.range b).countP fun i => modeAt m i == 0

/-- What the judgement of one change has found: the modes in force after it, the refused banks and their reasons. -/
structure BankJudged where
  modes : Nat
  refmask : Nat
  covered : Bool
  busy : Bool
  deriving DecidableEq, Repr

/-- Bank `b` judged against the order that the banks judged before it leave (R65, R66). -/
def Cluster.judgeBank (k : Cluster) (req : Nat) (j : BankJudged) (b : Nat) : BankJudged :=
  let old := modeAt j.modes b
  let new := modeAt req b
  if old = new then j
  else
    let edge := scratchPlace j.modes b * 65536
    let covered := (old == 0 || new == 0) && k.blocks.any fun x => decide (0 < x.2.ssize ∧ edge < x.2.sbase + x.2.ssize)
    let busy := old == 2 && (k.fifos.getD b ⟨none, 0, 0⟩).owner.isSome
    if covered ∨ busy then
      { j with refmask := j.refmask ||| 2 ^ b, covered := j.covered || covered, busy := j.busy || busy }
    else { j with modes := setBits j.modes (2 * b) 2 new }

/-- Bank `b` takes mode `m` (R64): it is zeroed, its FIFO register too. A block that has been placed in a scratchpad bank above one that
still drains towards scratchpad mode then lies 64 KiB further from the space's start (R65 counts the scratchpad banks in
ascending order); whether it can be placed there meanwhile the spec does not say (log 148, DESIGN CHOICE). -/
def Cluster.setBank (k : Cluster) (b m : Nat) : Cluster :=
  { k with
    bankCur := BitVec.ofNat 64 (setBits k.bankCur.toNat (2 * b) 2 m)
    sram := k.sram.filter fun w => w.1 / 16384 != b
    sramPoison := k.sramPoison.filter fun w => w.1 / 16384 != b
    fifos := k.fifos.del b
    drains := k.drains.filter (· != b) }

/-- CODE once no bank drains (R63). -/
def Cluster.settleBanks (k : Cluster) : Cluster :=
  if k.drains = [] then { k with bmCode := if k.refmask = 0 then 0 else 2 } else k

/-- A write of BANKMODE_REQ (R63): ignored while CODE is 1. At CODE 3 it is judged as any other, and only the banks that it asks for go on
draining (log 82, DEDUCED). -/
def Cluster.requestBanks (k : Cluster) (v : DWord) : Cluster :=
  if k.bmCode = 1 then { k with bmCode := 3 }
  else
    let j := (List.range 32).foldl (k.judgeBank v.toNat) ⟨k.bankCur.toNat, 0, false, false⟩
    let changed := (List.range 32).filter fun b => modeAt j.modes b != k.mode b
    let drains := changed.filter fun b => k.mode b == 1
    let k' : Cluster := { k with bankReq := BitVec.ofNat 64 j.modes, refmask := j.refmask, scratchCovered := j.covered
                                 fifoBusy := j.busy, bmCode := 1 }
    let k' := (changed.filter (!drains.contains ·)).foldl (fun k b => k.setBank b (modeAt j.modes b)) k'
    { k' with drains }.settleBanks

/-- BANKMODE_REQ (R62, R63): a virtual function reaches the cluster while it holds its partition (R490). -/
def execBankmodeReq (f c : Nat) (v : BitVec 64) (s : State) : Out :=
  .next (if s.shut f = true ∨ (f ≠ 128 ∧ s.holder (partOf c) ≠ some f) then s else s.updCluster c (·.requestBanks v))

/-- The context a drain's line writes are charged to (R69): of the contexts resident on the cluster's partition the line's own, and
otherwise the first (log 89, DESIGN CHOICE). -/
def State.drainPayer (s : State) (c l : Nat) : Option Nat :=
  let xs := ((s.clusters.filter fun k => partOf k.1 == partOf c).map fun k => k.2.blocks.map fun b => b.2.ctx).flatten
  (xs.find? fun x => ((s.l1Find c l).map (·.ctx)) == some x).or xs.head?

/-- A line of the cluster is dirty. -/
def State.l1Dirty (s : State) (c l : Nat) : Bool := match s.l1Find c l with | some L => L.dirty != 0 | none => false

/-- Write back and invalidate the lines of way `b`, one after another (R64). A line whose write-back fails stays (R461). A line that
was written back is an L2 line write of the context resident on the partition, and otherwise shared uncore energy (R69). -/
def State.drainLines (c : Nat) : List Nat → State → State
  | [], s => s
  | l :: ls, s =>
    let t := ((s.writeBack c l false).1).unbilled s
    State.drainLines c ls (match s.l1Dirty c l && !t.l1Dirty c l, s.drainPayer c l with
      | true, some x => t.charge (partOf c) x 11 1
      | _, _ => t)

/-- BANK_DRAIN (R64): once no line of the bank is left it takes its new mode. -/
def execBankDrain (c b : Nat) (s : State) : Out :=
  .next <|
    if !(s.cluster c).drains.contains b then s
    else
      let mine := fun (k : Cluster) => (k.l1.filter fun e => e.2.way == b).map (·.1)
      let s := State.drainLines c (mine (s.cluster c)) s
      if mine (s.cluster c) ≠ [] then s
      else s.updCluster c fun k => (k.setBank b (modeAt k.bankReq.toNat b)).settleBanks

/-! ## Soft errors -/

/-- A double-bit error (R80, R93). -/
def State.doubleError (s : State) : ErrorPlace → State
  | .scratchWord c bank w => s.updCluster c fun k => { k with sramPoison := k.sramPoison.set (bank * 16384 + w % 16384) true }
  | .fifoWord c bank w => s.updCluster c fun k => { k with sramPoison := k.sramPoison.set (bank * 16384 + w % 16384) true }
  | .accWord c row col => s.updCluster c fun k => { k with accPoison := k.accPoison.set (row * 128 + col % 128) true }
  | .l1Line c line =>
    match s.l1Find c line with
    | none => s
    | some L =>
      if L.dirty = 0 then s.updL1 c (·.del line)
      else ((s.updL1 c fun m => m.set line { L with poison := 3 }).writeBack c line false).1
  | .constLine c line => s.updCluster c fun k => { k with kcache := k.kcache.filter fun e => e.2.1 != line }
  | .instrLine c line => s.updCluster c fun k => { k with icache := k.icache.filter (·.line != line) }
  | .sliceHalf k line half =>
    match (s.l2.getD (setKey (line * 128)) []).find? fun l => l.line == line with
    | none => s
    | some L =>
      if homeSlice (line * 128 % 2 ^ 39) ≠ k then s
      else if L.dirty then s.poisonHalf (line * 2 + half % 2)
      -- a clean line is dropped and fetched again by its next access, from HBM4, whose marks decide; one that records a last releaser is
      -- fetched again at once, so that the record stays (log 176, DEDUCED)
      else if L.rel.isSome then s else s.dropLine L.far (line * 128)
  | .hbmHalf line half => s.poisonHalf (line * 2 + half % 2)

/-- SOFT_ERROR (R80, R93): a single-bit error is corrected where it is found. -/
def execSoftError (place : ErrorPlace) (dbl : Bool) (s : State) : Out := .next (if dbl then s.doubleError place else s)

end Sys2Proof.Machine
end

