-- ==== Sys2Proof/Machine/Flags.lean ====
section
/-! DEFINITION. Flag computations: the flags an instruction raises into FPFLAGS and JFLAGS, and the trap on enabled ones
(09:R217, R218, R223, R231). -/

namespace Sys2Proof.Machine

/-- FPMODE of the issuing gang as a number. -/
def Ctxt.mode (c : Ctxt) : Nat := c.g.fpmode.toNat

/-- Trap enables of FPMODE bits 23:19 as a mask of IV, DZ, OF, UF, IX (R217). -/
def fpEnables (mode : Nat) : Nat := bitsOf mode 19 5

/-- The flags of all active lanes together. -/
def orLanes (c : Ctxt) (fl : Nat → Nat) : Nat := c.act.foldl (fun a l => a ||| fl l) 0

/-- The end of a floating-point effect (R218, R223): the flags are ORed into FPFLAGS; an enabled flag stops the gang
with an arithmetic-exception trap after the instruction. -/
def endFlags (c : Ctxt) (s : State) (fl : Nat → Nat) : Eff :=
  let all := orLanes c fl
  let s := s.updIss c.q fun g => { g with fpflags := g.fpflags ||| all }
  let en := fpEnables c.mode
  if all &&& en = 0 then .go s []
  else .after s { cls := clsArith, arg := all, lanemask := maskOf (c.act.filter fun l => fl l &&& en != 0) }

/-- Enabled flags among JFLAGS bits: each coefficient's five flags under the same enables (R231). -/
def jEnabled (mode fl : Nat) : Nat :=
  (List.range 8).foldl (fun a i => a ||| (bitsOf fl (5 * i) 5 &&& fpEnables mode) * 2 ^ (5 * i)) 0

/-- The end of a jet effect: flags into JFLAGS, and the trap on enabled ones (R223, R302). -/
def endJFlags (c : Ctxt) (s : State) (fl : Nat → Nat) : Eff :=
  let all := orLanes c fl
  let s := s.updIss c.q fun g => { g with jflags := g.jflags ||| all }
  if jEnabled c.mode all = 0 then .go s []
  else .after s { cls := clsArith, jfl := all, lanemask := maskOf (c.act.filter fun l => jEnabled c.mode (fl l) != 0) }

end Sys2Proof.Machine
end

