-- ==== Sys2Proof/Machine/Sfu.lean ====
section
/-! DEFINITION. The special functions (12:R296-R298, 13:R309): correctly rounded ones by exact arithmetic; the others by
a fixed-point reference and a free pick among the values their error bound admits (log 7, DESIGN CHOICE). -/

namespace Sys2Proof.Machine

/-- Fraction bits of the fixed-point reference. -/
def fxP : Nat := 640
/-- 1.0 in fixed point. -/
def fxOne : Nat := 2 ^ fxP
/-- π in fixed point. -/
def fxPi : Nat := 0x3243f6a8885a308d313198a2e03707344a4093822299f31d0082efa98ec4e6c89452821e638d01377be5466cf34e90c6cc0ac29b7c97c50dd3f84d5b5b54709179216d5d98979fb1bd1310ba698dfb5ac
/-- ln 2 in fixed point. -/
def fxLn2 : Nat := 0xb17217f7d1cf79abc9e3b39803f2f6af40f343267298b62d8a0d175b8baafa2be7b876206debac98559552fb4afa1b10ed2eae35c138214427573b291169b8253e96ca16224ae8c51acbda11317c387e

/-- Sum of y^n / n! from the n-th term on. -/
def expGo (y : Nat) : Nat → Nat → Nat → Nat
  | 0, _, t => t
  | k + 1, n, t => t + expGo y k (n + 1) (t * y / fxOne / n)

/-- e^y for a fixed-point y below 1. -/
def fxExp (y : Nat) : Nat := expGo y 140 1 fxOne

/-- Alternating Taylor sum for sine (n = 1) and cosine (n = 0) of a fixed-point r below 2: term, then minus the rest. -/
def trigGo (r2 : Nat) : Nat → Nat → Int → Int
  | 0, _, t => t
  | k + 1, n, t => t + trigGo r2 k (n + 2) (-(t * r2 / fxOne / ((n + 1) * (n + 2) : Nat)))

/-- sin r. -/
def fxSin (r : Nat) : Int := trigGo (r * r / fxOne) 80 1 r
/-- cos r. -/
def fxCos (r : Nat) : Int := trigGo (r * r / fxOne) 80 0 fxOne

/-- Sum of z^(2n+1) / (2n+1). -/
def atanhGo (z2 : Nat) : Nat → Nat → Nat → Nat
  | 0, _, _ => 0
  | k + 1, n, t => t / n + atanhGo z2 k (n + 2) (t * z2 / fxOne)

/-- ln m for a fixed-point m from 1 to 2. -/
def fxLn (m : Nat) : Nat :=
  let z := (m - fxOne) * fxOne / (m + fxOne)
  2 * atanhGo (z * z / fxOne) 220 1 z

/-- Alternating sum for erf: Σ (−1)^n x^(2n+1) / (n! (2n+1)). -/
def erfGo (x2 : Nat) : Nat → Nat → Int → Int
  | 0, _, _ => 0
  | k + 1, n, t => t / (2 * n + 1 : Nat) + erfGo x2 k (n + 1) (-(t * x2 / fxOne / (n + 1 : Nat)))

/-- m × 2^e in fixed point. -/
def fxOf (m : Nat) (e : Int) : Nat := if 0 ≤ e + fxP then m * 2 ^ (e + fxP).toNat else m / 2 ^ (-(e + fxP)).toNat

/-- 2^t for a signed fixed-point t: a fixed-point factor from 1 to 2 and a power of two. -/
def fxPow2 (t : Int) : Nat × Int :=
  let k := t / (fxOne : Int)
  let r := (t % (fxOne : Int)).toNat
  (fxExp (r * fxLn2 / fxOne), k)

/-- A positive real as n × 2^e, close to the exact value. -/
abbrev Approx := Nat × Int

/-- e^x for a signed fixed-point x. -/
def realExp (x : Int) : Approx :=
  let (n, k) := fxPow2 (x * fxOne / fxLn2)
  (n, k - fxP)

/-- |log2 a| with its sign, for a = m × 2^e. -/
def realLog2 (m : Nat) (e : Int) : Bool × Approx :=
  let k : Int := (Nat.log2 m : Nat)
  let l := fxLn (m * fxOne / 2 ^ k.toNat)
  let v : Int := (e + k) * fxOne + l * fxOne / fxLn2
  (decide (v < 0), (v.natAbs, -(fxP : Int)))

/-- |ln a| with its sign. -/
def realLn (m : Nat) (e : Int) : Bool × Approx :=
  let k : Int := (Nat.log2 m : Nat)
  let v : Int := (e + k) * fxLn2 + fxLn (m * fxOne / 2 ^ k.toNat)
  (decide (v < 0), (v.natAbs, -(fxP : Int)))

/-- sin or cos of m × 2^e with exact argument reduction. -/
def realTrig (cosine : Bool) (m : Nat) (e : Int) : Bool × Approx :=
  let x := fxOf m e
  let q := x * 2 / fxPi
  let r := (x * 2 - q * fxPi) / 2
  let q := (if cosine then q + 1 else q) % 4
  let v : Int := if q % 2 = 0 then fxSin r else fxCos r
  (2 ≤ q, (v.natAbs, -(fxP : Int)))

/-- n1 ÷ n2 scaled to a fixed point. -/
def fxDiv (n1 n2 : Nat) : Nat := n1 * fxOne / n2

/-- tanh |x| for x = m × 2^e. -/
def realTanh (m : Nat) (e : Int) : Approx :=
  let x := fxOf m e
  if 100 * fxOne < x then (fxOne - 2 ^ 400, -(fxP : Int))
  else
    let (n, k) := realExp (2 * x : Nat)
    let t := n * 2 ^ (k + fxP).toNat
    (fxDiv (t - fxOne) (t + fxOne), -(fxP : Int))

/-- 1 ÷ (1 + e^−x). -/
def realSigm (neg : Bool) (m : Nat) (e : Int) : Approx :=
  let x := fxOf m e
  if 200 * fxOne < x then
    if neg then (1, -(280 : Int)) else (fxOne - 2 ^ 300, -(fxP : Int))
  else
    let (n, k) := realExp (x : Int)
    let t := n * 2 ^ (k + fxP).toNat
    if neg then (fxDiv fxOne (fxOne + t), -(fxP : Int)) else (fxDiv t (fxOne + t), -(fxP : Int))

/-- erf |x|. -/
def realErf (m : Nat) (e : Int) : Approx :=
  let x := fxOf m e
  if 8 * fxOne < x then (fxOne - 2 ^ 500, -(fxP : Int))
  else
    let v := erfGo (x * x / fxOne) 420 0 x
    (2 * v.natAbs * fxOne / isqrt (fxPi * fxOne), -(fxP : Int))

/-- 1 ÷ √(m × 2^e). -/
def realRsqrt (m : Nat) (e : Int) : Approx :=
  let odd := e % 2 != 0
  let m := if odd then 2 * m else m
  let e := if odd then e - 1 else e
  (isqrt (2 ^ (2 * fxP) / m), -(e / 2) - fxP)

/-- The result of an inexact function (R297): any code within `k` ulp of the exact value, chosen by the free pick
`pick`; overflow in mode `rm`, flushing and underflow as R219 and R221. -/
def Fmt.within (f : Fmt) (mode rm k pick : Nat) (neg : Bool) (a : Approx) : FR :=
  let r := f.roundTo mode rm 0 neg a.1 1 a.2
  if r.fl &&& flOF != 0 then r
  else
    let emin : Int := 1 - f.bias
    let q := max (flog2 a.1 1 + a.2) emin - f.fb
    -- the value and k ulp over the common exponent e
    let e := min a.2 q
    let y := a.1 * 2 ^ (a.2 - e).toNat
    let d := k * 2 ^ (q - e).toNat
    let lo := if y ≤ d then 0 else (f.roundTo 0 2 0 false (y - d) 1 e).v
    let hi := (f.roundTo 0 1 0 false (y + d) 1 e).v
    let n := lo + pick % (hi - lo + 1)
    let sub := n < 2 ^ f.fb
    if foz mode f.cls && sub && n != 0 then ⟨f.signBit neg, flIX + flUF⟩
    else ⟨f.signBit neg + n, if sub then flIX + flUF else flIX⟩

/-- Whether n is a power of two. -/
def isPow2 (n : Nat) : Bool := n != 0 && 2 ^ Nat.log2 n == n

/-- Function codes of the free pick. -/
def fnRsqrt : Nat := 1
def fnExp2 : Nat := 4
def fnLog2 : Nat := 5
def fnSin : Nat := 6
def fnCos : Nat := 7
def fnTanh : Nat := 8
def fnSigm : Nat := 9
def fnErf : Nat := 10
def fnExp : Nat := 11
def fnLn : Nat := 12

/-- The free pick of a function for an input in a format under FPMODE, a fixed function of them (R298). -/
def pickOf (f : Fmt) (mode fn n : Nat) : Nat := Config.sfuPick (fn * 4 + f.cls) (mode * 2 ^ 64 + n)

/-- 2^a and e^a (R297, R309). -/
def Fmt.expFn (f : Fmt) (mode rm : Nat) (natural : Bool) (k n : Nat) : FR :=
  match f.read mode n with
  | .nan s => f.nanRes s
  | .inf neg => if neg then ⟨0, 0⟩ else ⟨f.infCode false, 0⟩
  | .fin neg m e =>
    if m = 0 then f.roundTo mode 0 0 false 1 1 0
    else
      -- beyond 2^15 in magnitude every result overflows or underflows
      let x := if 15 ≤ flog2 m 1 + e then 2 ^ 15 * fxOne else fxOf m e
      let sx := signed neg x
      if natural then f.within mode rm k (pickOf f mode fnExp n) false (realExp sx)
      else if x % fxOne = 0 then f.roundTo mode rm 0 false 1 1 (sx / (fxOne : Int))
      else
        let (v, p) := fxPow2 sx
        f.within mode rm k (pickOf f mode fnExp2 n) false (v, p - fxP)

/-- log2 a and ln a. -/
def Fmt.logFn (f : Fmt) (mode : Nat) (natural : Bool) (k n : Nat) : FR :=
  match f.read mode n with
  | .nan s => f.nanRes s
  | .inf neg => if neg then f.nanRes true else ⟨f.infCode false, 0⟩
  | .fin neg m e =>
    if m = 0 then ⟨f.infCode true, flDZ⟩
    else if neg then f.nanRes true
    else if isPow2 m && (!natural || e + Nat.log2 m == 0) then
      f.roundInt mode 0 0 false (e + Nat.log2 m) 0
    else if natural then
      let (ng, a) := realLn m e
      f.within mode 0 k (pickOf f mode fnLn n) ng a
    else
      let (ng, a) := realLog2 m e
      f.within mode 0 k (pickOf f mode fnLog2 n) ng a

/-- sin and cos (R297). -/
def Fmt.trigFn (f : Fmt) (mode : Nat) (cosine : Bool) (k n : Nat) : FR :=
  match f.read mode n with
  | .nan s => f.nanRes s
  | .inf _ => f.nanRes true
  | .fin neg m e =>
    if m = 0 then (if cosine then f.roundTo mode 0 0 false 1 1 0 else ⟨f.signBit neg, 0⟩)
    else
      let (ng, a) := realTrig cosine m e
      f.within mode 0 k (pickOf f mode (if cosine then fnCos else fnSin) n) (if cosine then ng else ng != neg) a

/-- tanh and erf: odd functions with limits ±1. -/
def Fmt.oddFn (f : Fmt) (mode : Nat) (erf : Bool) (k n : Nat) : FR :=
  match f.read mode n with
  | .nan s => f.nanRes s
  | .inf neg => f.roundTo mode 0 0 neg 1 1 0
  | .fin neg m e =>
    if m = 0 then ⟨f.signBit neg, 0⟩
    else f.within mode 0 k (pickOf f mode (if erf then fnErf else fnTanh) n) neg
      (if erf then realErf m e else realTanh m e)

/-- The logistic sigmoid. -/
def Fmt.sigmFn (f : Fmt) (mode k n : Nat) : FR :=
  match f.read mode n with
  | .nan s => f.nanRes s
  | .inf neg => if neg then ⟨0, 0⟩ else f.roundTo mode 0 0 false 1 1 0
  | .fin neg m e => f.within mode 0 k (pickOf f mode fnSigm n) false (realSigm neg m e)

/-- 1 ÷ √a. -/
def Fmt.rsqrtFn (f : Fmt) (mode n : Nat) : FR :=
  match f.read mode n with
  | .nan s => f.nanRes s
  | .inf neg => if neg then f.nanRes true else ⟨0, 0⟩
  | .fin neg m e =>
    if m = 0 then ⟨f.infCode neg, flDZ⟩
    else if neg then f.nanRes true
    else if isPow2 m && (e + Nat.log2 m) % 2 == 0 then
      f.roundTo mode 0 0 false 1 1 (-((e + Nat.log2 m) / 2))
    else f.within mode 0 1 (pickOf f mode fnRsqrt n) false (realRsqrt m e)

/-- The value 1. -/
def fvOne : FV := .fin false 1 0

/-- 1 ÷ a, correctly rounded. -/
def Fmt.rcpFn (f : Fmt) (mode rm n : Nat) : FR := f.div mode rm 0 fvOne (f.read mode n)

/-- √a, correctly rounded. -/
def Fmt.sqrtFn (f : Fmt) (mode rm n : Nat) : FR := f.sqrt mode rm (f.read mode n)

/-- a ÷ b, correctly rounded. -/
def Fmt.divFn (f : Fmt) (mode rm a b : Nat) : FR := f.div mode rm 0 (f.read mode a) (f.read mode b)

/-- The ulp bound of a function that is not correctly rounded: 1 in f16, else the table's (R297). -/
def ulpBound (ft k : Nat) : Nat := if ft = 2 then 1 else k

end Sys2Proof.Machine
end

