-- ==== Sys2Proof/Machine/Tiered.lean ====
section
/-! DEFINITION. Tiered-exponent blocks: layout, decoding and packing (09:R212-R214, R227). -/

namespace Sys2Proof.Machine

/-- Magnitude bits m of a tiered format: 1 te4, 2 te6, 3 te9 (R212, R294). -/
def teM (tb : Nat) : Nat := if tb = 1 then 2 else if tb = 2 then 4 else 7
/-- Bytes of a block. -/
def teBytes (tb : Nat) : Nat := if tb = 1 then 8 else if tb = 2 then 12 else 18
/-- Matrix passes of a format (R212, R361). -/
def tePasses (tb : Nat) : Nat := if tb = 1 then 2 else if tb = 2 then 4 else 7

/-- Element `j` of a block given as one little-endian number (R213). -/
def teElem (tb : Nat) (blk : Nat) (j : Nat) : FV :=
  let m := teM tb
  let e := blk % 256
  if e = 255 then .nan false
  else
    let u := b2n (bitOf blk (8 + j / 2))
    let fld := bitsOf blk (16 + (1 + m) * j) (1 + m)
    let mag := fld % 2 ^ m
    if mag = 0 then .fin false 0 0
    else .fin (bitOf fld m) mag ((e : Int) - 127 - m + 1 - u)

/-- rnd_j (R214): |x| ÷ 2^k rounded in the direction in which the signed value rounds, as a magnitude. -/
def teRnd (rm draw : Nat) (neg : Bool) (m : Nat) (e k : Int) : Nat :=
  let (q, r, d) := scaled m 1 e k
  if roundsUp rm draw neg q r d then q + 1 else q

/-- A finite element of packing: sign, magnitude, exponent. -/
abbrev TeX := Bool × Nat × Int

/-- Packing (R214) of 16 finite elements under mode `rm`, with the draws of stochastic rounding; the tests that choose
E and the micro-exponents use RNE under SR. The block as one number, and its flags. -/
def teBlock (tb rm : Nat) (xs : List TeX) (draws : List Nat) : Nat × Nat :=
  let m := teM tb
  let tm := if rm = 4 then 0 else rm
  let nz := xs.filter fun x => x.2.1 != 0
  let es := nz.map fun x => flog2 x.2.1 1 + x.2.2
  let e : Int := match es with | [] => -127 | a :: r => r.foldl max a
  let E := e + 127
  let hit := decide (0 ≤ E) && xs.any fun x => teRnd tm 0 x.1 x.2.1 x.2.2 (E - 126 - m) == 2 ^ m
  let E := if hit then E + 1 else E
  let lowered := decide (254 < E)
  let E := clampTe E
  let us := (List.range 8).map fun i =>
    [2 * i, 2 * i + 1].all fun j =>
      let x := xs.getD j (false, 0, 0)
      teRnd tm 0 x.1 x.2.1 x.2.2 (E - 127 - m) ≤ 2 ^ m - 1
  let ms := (List.range 16).map fun j =>
    let x := xs.getD j (false, 0, 0)
    let k := E - 126 - m - b2n (us.getD (j / 2) false)
    let r := teRnd rm (draws.getD j 0) x.1 x.2.1 x.2.2 k
    let big := 2 ^ m - 1 < r
    let mg := if big then 2 ^ m - 1 else r
    let exact := let (q, rem, _) := scaled x.2.1 1 x.2.2 k; rem == 0 && q == mg
    let fl := (if big && lowered then flOF else 0) ||| (if exact then 0 else flIX) |||
      (if mg = 0 ∧ x.2.1 ≠ 0 then flUF else 0)
    ((if x.1 && mg != 0 then 2 ^ m + mg else mg), fl)
  let ub := maskOf ((List.range 8).filter fun i => us.getD i false)
  let flds := (List.range 16).foldl (fun a j => a + (ms.getD j (0, 0)).1 * 2 ^ ((1 + m) * j)) 0
  (E.toNat + 256 * ub + 65536 * flds, ms.foldl (fun a x => a ||| x.2) 0)
where
  /-- E clamped to 0 to 254. -/
  clampTe (E : Int) : Int := if E < 0 then 0 else if 254 < E then 254 else E

/-- Packing of 16 values (R214): a NaN makes a NaN block with IV; an infinity packs as the largest finite binary32
with OF. -/
def tePack (tb rm : Nat) (vs : List FV) (draws : List Nat) : Nat × Nat :=
  if vs.any (·.isNan) then (0xFF, flIV)
  else
    let xs := vs.map fun v => match v with
      | .fin n m e => (n, m, e)
      | .inf n => (n, 2 ^ 24 - 1, (104 : Int))
      | .nan _ => (false, 0, 0)
    let (b, fl) := teBlock tb rm xs draws
    (b, fl ||| if vs.any (fun v => match v with | .inf _ => true | _ => false) then flOF else 0)

/-- The 16 draws of stochastic rounding and the SEED after them (R216, R294). -/
def seedDraws : Nat → Nat → List Nat × Nat
  | 0, s => ([], s)
  | k + 1, s =>
    let s := stepSeed s
    let (l, t) := seedDraws k s
    (s / 2 ^ 16 :: l, t)

end Sys2Proof.Machine
end

