-- ==== Sys2Proof/Machine/FloatInstr.lean ====
section
/-! DEFINITION. The floating-point, conversion, quantisation and special-function instructions: majors 0x10 to 0x12
(12:R277-R298). -/

namespace Sys2Proof.Machine

/-- A lane's result: the register contents, the flags raised and the SEED afterwards. -/
structure LaneRes where
  v : Nat
  fl : Nat
  seed : Nat
  deriving DecidableEq, Repr

/-- The SEED of a lane. -/
def Ctxt.seed (c : Ctxt) (l : Nat) : Nat := (c.g.thread l).seed.toNat

/-- A floating-point effect: `n` registers of VD, SEED and flags in each active lane, at `k` tolls of event `e` a lane. -/
def floatEff (c : Ctxt) (s : State) (n e k : Nat) (res : Nat → LaneRes) : Eff :=
  let s := (chargeLanes s c e k).updIss c.q (·.updLanes c.act fun l t =>
    { t.setRegs c.f.vd.toNat n (res l).v with seed := BitVec.ofNat 32 (res l).seed })
  endFlags c s fun l => (res l).fl

/-- FT as an FF code: the codes 0 to 3 agree (R277). -/
def ftFmt (ft : Nat) : Fmt := fmtOf ft
/-- Registers of an FT operand. -/
def ftRegs (ft : Nat) : Nat := if ft = 1 then 2 else 1
/-- Elements of an FT operand: two for the packed types. -/
def ftElems (ft : Nat) : Nat := if 2 ≤ ft then 2 else 1

/-- Element `j` of a packed operand. -/
def elem (f : Fmt) (n j : Nat) : Nat := bitsOf n (f.width * j) f.width

/-- An operation on each element of packed operands, results repacked and flags ORed (R277). -/
def mapElems (f : Fmt) (k : Nat) (op : Nat → FR) : FR :=
  (List.range k).foldl (fun r j => let x := op j; ⟨r.v + x.v * 2 ^ (f.width * j), r.fl ||| x.fl⟩) ⟨0, 0⟩

/-- A result without a draw leaves SEED as it is. -/
def noDraw (c : Ctxt) (l : Nat) (r : FR) : LaneRes := ⟨r.v, r.fl, c.seed l⟩

/-- The mode of layout A: RM when RS = 1, else FPMODE.RM (R277). -/
def modeA (c : Ctxt) : Nat := if auxBit c.f 3 then auxBits c.f 0 3 else fpRm c.mode

/-- A mode of an instruction that does not narrow: SR acts as RNE (R278). -/
def noSr (rm : Nat) : Nat := if rm = 4 then 0 else rm

/-- The mode of layout B: RC 0 FPMODE.RM, 1 RNE, 2 RUP, 3 RDN (R277). -/
def modeB (c : Ctxt) : Nat :=
  match auxBits c.f 0 2 with
  | 0 => noSr (fpRm c.mode)
  | 1 => 0
  | 2 => 2
  | _ => 3

/-- Toll event of an arithmetic instruction by FT (R279). -/
def ftEvent (ft : Nat) : Nat := if ft = 0 then 2 else if ft = 1 then 5 else 3

/-- A two-source arithmetic instruction of layout A. -/
def float2 (i : Instr) (f : Fields) (s : State) (op : Fmt → Nat → Nat → FV → FV → FR) : Out :=
  issueWith i f s fun c s =>
    let ft := ftA f
    let m := ftFmt ft
    let n := ftRegs ft
    floatEff c s n (ftEvent ft) 1 fun l =>
      noDraw c l (mapElems m (ftElems ft) fun j =>
        op m c.mode (noSr (modeA c)) (m.read c.mode (elem m (c.a n l) j)) (m.read c.mode (elem m (c.b n l) j)))

def execFadd (f : Fields) (s : State) : Out := float2 (.fadd f) f s fun m md rm a b => m.add md rm a b
def execFsub (f : Fields) (s : State) : Out := float2 (.fsub f) f s fun m md rm a b => m.add md rm a b.negate
def execFmul (f : Fields) (s : State) : Out := float2 (.fmul f) f s fun m md rm a b => m.mul md rm a b

/-- A three-source arithmetic instruction of layout B. -/
def float3 (i : Instr) (f : Fields) (s : State) (op : Fmt → Nat → Nat → FV → FV → FV → FR) : Out :=
  issueWith i f s fun c s =>
    let ft := ftB f
    let m := ftFmt ft
    let n := ftRegs ft
    floatEff c s n (ftEvent ft) 1 fun l =>
      noDraw c l (mapElems m (ftElems ft) fun j =>
        op m c.mode (modeB c) (m.read c.mode (elem m (c.a n l) j)) (m.read c.mode (elem m (c.b n l) j))
          (m.read c.mode (elem m (c.c3 n l) j)))

def execFma (f : Fields) (s : State) : Out := float3 (.fma f) f s fun m md rm a b d => m.fma md rm a b d
def execFms (f : Fields) (s : State) : Out := float3 (.fms f) f s fun m md rm a b d => m.fma md rm a b d.negate
def execFnma (f : Fields) (s : State) : Out := float3 (.fnma f) f s fun m md rm a b d => m.fma md rm a.negate b d

/-- fmin and fmax (R281). -/
def pickOp (i : Instr) (f : Fields) (s : State) (greater : Bool) : Out :=
  issueWith i f s fun c s =>
    let ft := ftA f
    let m := ftFmt ft
    let n := ftRegs ft
    floatEff c s n 1 n fun l =>
      noDraw c l (mapElems m (ftElems ft) fun j =>
        m.pick c.mode greater (elem m (c.a n l) j) (elem m (c.b n l) j))

def execFmin (f : Fields) (s : State) : Out := pickOp (.fmin f) f s false
def execFmax (f : Fields) (s : State) : Out := pickOp (.fmax f) f s true

/-- fabs and fneg: only the sign bits (R281). -/
def signOp (i : Instr) (f : Fields) (s : State) (op : Nat → Nat → Nat) : Out :=
  issueWith i f s fun c s =>
    let ft := ftA f
    let m := ftFmt ft
    let n := ftRegs ft
    floatEff c s n 1 n fun l =>
      noDraw c l (mapElems m (ftElems ft) fun j => ⟨op (m.fb + m.eb) (elem m (c.a n l) j), 0⟩)

def execFabs (f : Fields) (s : State) : Out := signOp (.fabs f) f s fun w x => x % 2 ^ w
def execFneg (f : Fields) (s : State) : Out :=
  signOp (.fneg f) f s fun w x => if bitOf x w then x - 2 ^ w else x + 2 ^ w

/-- fclamp (R281): fmin(fmax(a, b), c). -/
def Fmt.clamp (m : Fmt) (mode a b d : Nat) : FR :=
  let x := m.pick mode true a b
  let y := m.pick mode false x.v d
  ⟨y.v, x.fl ||| y.fl⟩

def execFclamp (f : Fields) (s : State) : Out :=
  issueWith (.fclamp f) f s fun c s =>
    let ft := ftB f
    let m := ftFmt ft
    let n := ftRegs ft
    floatEff c s n 1 n fun l =>
      noDraw c l (mapElems m (ftElems ft) fun j =>
        m.clamp c.mode (elem m (c.a n l) j) (elem m (c.b n l) j) (elem m (c.c3 n l) j))

/-! ## Dot products -/

/-- The exact sum of values (R282): any NaN, an invalid product or opposite infinities make a NaN; none stands for an
invalid product. -/
structure SumAcc where
  nan : Bool
  iv : Bool
  pinf : Bool
  ninf : Bool
  v : Int
  e : Int
  /-- Every term so far is a zero of negative sign. -/
  negz : Bool
  deriving DecidableEq, Repr

/-- A term added to an exact sum. -/
def SumAcc.add (a : SumAcc) : Option FV → SumAcc
  | none => { a with nan := true, iv := true }
  | some (.nan sg) => { a with nan := true, iv := a.iv || sg }
  | some (.inf neg) => { a with pinf := a.pinf || !neg, ninf := a.ninf || neg, negz := false }
  | some (.fin neg m e) =>
    let (v, e) := dySum a.v a.e (signed neg m) e
    { a with v, e, negz := a.negz && neg && m == 0 }

/-- The exact sum rounded once. A quiet NaN beside infinities of opposite signs gives the canonical NaN with IV clear, and beside 0 × ∞
with IV set (log 149, DESIGN CHOICE). -/
def SumAcc.round (a : SumAcc) (f : Fmt) (mode rm : Nat) : FR :=
  if a.nan then f.nanRes a.iv
  else if a.pinf && a.ninf then f.nanRes true
  else if a.pinf then ⟨f.infCode false, 0⟩
  else if a.ninf then ⟨f.infCode true, 0⟩
  else f.roundInt mode rm 0 (a.negz || rm == 3) a.v a.e

/-- c + Σ aⱼ × bⱼ rounded once into FP32 (R282). An exact zero sum of unlike signs is −0 only under RDN. -/
def dotVal (fa fb : Fmt) (k mode rm a b d : Nat) : FR :=
  let z : SumAcc := ⟨false, false, false, false, 0, 0, true⟩
  let acc := z.add (some ((fmtOf 0).read mode d))
  let acc := (List.range k).foldl (fun acc j =>
    acc.add (mulExact (fa.read mode (elem fa a j)) (fb.read mode (elem fb b j)))) acc
  let allPos := acc.v == 0 && !acc.negz && (dotPos fa fb k mode a b d)
  if allPos then (acc.round (fmtOf 0) mode 0) else acc.round (fmtOf 0) mode rm
where
  /-- Every term is a zero of positive sign or not a zero: then the zero sum is +0 in every mode when all are +0. -/
  dotPos (fa fb : Fmt) (k mode a b d : Nat) : Bool :=
    let pz : FV → Bool := fun v => match v with | .fin false 0 _ => true | _ => false
    pz ((fmtOf 0).read mode d) && (List.range k).all fun j =>
      match mulExact (fa.read mode (elem fa a j)) (fb.read mode (elem fb b j)) with
      | some v => pz v
      | none => false

def execFdot2 (f : Fields) (s : State) : Out :=
  issueWith (.fdot2 f) f s fun c s =>
    let m := ftFmt (ftB f)
    floatEff c s 1 4 1 fun l => noDraw c l (dotVal m m 2 c.mode (modeB c) (c.a 1 l) (c.b 1 l) (c.c3 1 l))

/-- Element types of fdot4 (R282). -/
def dot4Fmts (ft : Nat) : Fmt × Fmt :=
  match ft with
  | 0 => (fmtOf 4, fmtOf 4)
  | 1 => (fmtOf 5, fmtOf 5)
  | 2 => (fmtOf 4, fmtOf 5)
  | _ => (fmtOf 5, fmtOf 4)

def execFdot4 (f : Fields) (s : State) : Out :=
  issueWith (.fdot4 f) f s fun c s =>
    let m := dot4Fmts (ftB f)
    floatEff c s 1 4 1 fun l => noDraw c l (dotVal m.1 m.2 4 c.mode (modeB c) (c.a 1 l) (c.b 1 l) (c.c3 1 l))

/-! ## Compare, class, mode -/

def execFcmp (f : Fields) (s : State) : Out :=
  issueWith (.fcmp f) f s fun c s =>
    let ft := ftB f
    let m := ftFmt ft
    let n := ftRegs ft
    let r := fun l => m.compare c.mode (auxBits f 4 3) (c.a n l) (c.b n l)
    endFlags c (writePred (chargeLanes s c 1 n) c f.vd.toNat fun l => (r l).1) fun l => (r l).2

def execFclass (f : Fields) (s : State) : Out :=
  issueWith (.fclass f) f s fun c s =>
    let ft := immU f
    let m := ftFmt ft
    let n := ftRegs ft
    intEff c s 1 n fun l =>
      (List.range (ftElems ft)).foldl (fun a j => a + m.classMask (elem m (c.a n l) j) * 2 ^ (16 * j)) 0

/-- FPMODE after a write: reserved bits stay zero and an RM of 5 to 7 acts as 0 (R217, R285). -/
def fpmodeFix (n : Nat) : Nat := n / 32 * 32

def execFmode (f : Fields) (lit : BitVec 32) (s : State) : Out :=
  issueWith (.fmode f lit) f s fun c s =>
    let old := match auxBits f 0 2 with
      | 0 => c.mode
      | 1 => c.mode
      | _ => c.g.fpflags
    let s := writeRegs (chargeLanes s c 1 1) c f.vd.toNat 1 fun _ => old
    let lit := lit.toNat
    let s := if c.act = [] then s else s.updIss c.q fun g =>
      match auxBits f 0 2 with
      | 0 => { g with fpmode := BitVec.ofNat 32 (fpmodeFix (c.mode ||| lit)) }
      | 1 => { g with fpmode := BitVec.ofNat 32 (fpmodeFix (c.mode &&& notBits 32 lit)) }
      | 2 => { g with fpflags := g.fpflags &&& notBits 7 lit }
      | _ => g
    .go s []

/-! ## Conversions -/

/-- One narrowing conversion in a lane (R278, R287): under SR the SEED steps once and the draw is its upper half. -/
def withDraw (rm seed : Nat) (k : Nat → FR) : FR × Nat :=
  if rm = 4 then
    let sd := stepSeed seed
    (k (sd / 2 ^ 16), sd)
  else (k 0, seed)

/-- The destination register with element `de` replaced (R287). -/
def putElem (f : Fmt) (old de v : Nat) : Nat := setBits old (f.width * de) f.width v

def execCvtf (f : Fields) (s : State) : Out :=
  issueWith (.cvtf f) f s fun c s =>
    let dt := fmtOf (auxBits f 7 3)
    let st := fmtOf (auxBits f 4 3)
    let nd := ftRegs (auxBits f 7 3)
    let ns := ftRegs (auxBits f 4 3)
    floatEff c s nd 2 1 fun l =>
      let (r, sd) := withDraw (modeA c) (c.seed l) fun draw =>
        dt.convert c.mode (modeA c) draw (st.read c.mode (elem st (c.a ns l) (bitsOf f.vs1.toNat 3 3)))
      ⟨putElem dt (c.d nd l) (bitsOf f.vs1.toNat 0 3) r.v, r.fl, sd⟩

def execCvtfi (f : Fields) (s : State) : Out :=
  issueWith (.cvtfi f) f s fun c s =>
    let st := fmtOf (auxBits f 7 3)
    let t := auxBits f 4 3
    floatEff c s (tyRegs t) 2 1 fun l =>
      let (v, fl) := toInteger (modeA c) (tyMin t) (tyMax t)
        (st.read c.mode (elem st (c.a (ftRegs (auxBits f 7 3)) l) (bitsOf f.vs1.toNat 3 3)))
      ⟨tyPlace t v, fl, c.seed l⟩

def execCvtif (f : Fields) (s : State) : Out :=
  issueWith (.cvtif f) f s fun c s =>
    let dt := fmtOf (auxBits f 7 3)
    let nd := ftRegs (auxBits f 7 3)
    let t := auxBits f 4 3
    floatEff c s nd 2 1 fun l =>
      let (r, sd) := withDraw (modeA c) (c.seed l) fun draw =>
        dt.roundInt c.mode (modeA c) draw false (tyVal t (c.a (tyRegs t) l)) 0
      ⟨putElem dt (c.d nd l) (bitsOf f.vs1.toNat 0 3) r.v, r.fl, sd⟩

def execFrnd (f : Fields) (s : State) : Out :=
  issueWith (.frnd f) f s fun c s =>
    let ft := ftA f
    let m := ftFmt ft
    let n := ftRegs ft
    floatEff c s n (ftEvent ft) 1 fun l =>
      noDraw c l (mapElems m (ftElems ft) fun j => m.integral c.mode (modeA c) (elem m (c.a n l) j))

def execFpack2 (f : Fields) (s : State) : Out :=
  issueWith (.fpack2 f) f s fun c s =>
    let m := ftFmt (ftA f)
    let rm := modeA c
    floatEff c s 1 2 2 fun l =>
      let (x, sd) := withDraw rm (c.seed l) fun d => m.convert c.mode rm d ((fmtOf 0).read c.mode (c.a 1 l))
      let (y, sd) := withDraw rm sd fun d => m.convert c.mode rm d ((fmtOf 0).read c.mode (c.b 1 l))
      ⟨x.v + 2 ^ 16 * y.v, x.fl ||| y.fl, sd⟩

def execFunpack2 (f : Fields) (s : State) : Out :=
  issueWith (.funpack2 f) f s fun c s =>
    let m := ftFmt (ftA f)
    floatEff c s 2 2 2 fun l =>
      noDraw c l (mapElems (fmtOf 0) 2 fun j => (fmtOf 0).convert c.mode 0 0 (m.read c.mode (elem m (c.a 1 l) j)))

/-- emax of a qscale target (R291). -/
def qEmax (tf : Nat) : Int := if tf = 0 then 2 else if tf = 1 then 8 else 15

def execQscale (f : Fields) (s : State) : Out :=
  issueWith (.qscale f) f s fun c s =>
    floatEff c s 1 2 1 fun l => noDraw c l (qscale c.mode (qEmax (auxBits f 0 2)) (c.a 1 l))

def execQuant (f : Fields) (s : State) : Out :=
  issueWith (.quant f) f s fun c s =>
    let dt := fmtOf (auxBits f 5 3)
    let rm := modeA c
    floatEff c s 1 2 1 fun l =>
      let (r, sd) := withDraw rm (c.seed l) fun d =>
        dt.div c.mode rm d ((fmtOf 0).read c.mode (c.a 1 l)) ((fmtOf 0).read c.mode (c.b 1 l))
      ⟨putElem dt (c.d 1 l) (auxBits f 8 3) r.v, r.fl, sd⟩

/-- dequant (R293): element times E8M0 scale, rounded RNE into FP32. -/
def dequantVal (mode st x sc : Nat) : FR :=
  if sc = 255 then (fmtOf 0).nanRes true
  else
    match (fmtOf st).read mode x with
    | .nan _ => (fmtOf 0).nanRes true
    | .inf neg => ⟨(fmtOf 0).infCode neg, 0⟩
    | .fin neg m e => (fmtOf 0).roundTo mode 0 0 neg m 1 (e + sc - 127)

def execDequant (f : Fields) (s : State) : Out :=
  issueWith (.dequant f) f s fun c s =>
    let st := auxBits f 3 3
    floatEff c s 1 2 1 fun l =>
      noDraw c l (dequantVal c.mode st (elem (fmtOf st) (c.a 1 l) (auxBits f 0 3)) (c.b 1 l % 256))

/-- A block group reaching U or beyond (R294): the named base plus its span; an indexed source is judged by its
window. -/
def blockBad (u : Nat) (r : BitVec 7) (n : Nat) : Bool := u < r.toNat + n

/-- R294: a register of either group at or above U. -/
def teBad (c : Ctxt) (nd ns : Nat) : Bool :=
  blockBad c.g.usable c.f.vd nd ||
  (match c.f.perm0 with | .idx _ _ => false | _ => blockBad c.g.usable c.f.vs0 ns)

def execTepack (f : Fields) (s : State) : Out :=
  issueWith (.tepack f) f s fun c s =>
    let tb := auxBits f 4 2
    if teBad c (teRegs tb) 16 then .trap (trapOf clsIllegalOperand c.act)
    else
      let rm := modeA c
      floatEff c s (teRegs tb) 2 16 fun l =>
        let x := c.a 16 l
        let vs := (List.range 16).map fun j => (fmtOf 0).read c.mode (bitsOf x (32 * j) 32)
        let (ds, sd) := if rm = 4 then seedDraws 16 (c.seed l) else ([], c.seed l)
        let (b, fl) := tePack tb rm vs ds
        ⟨b, fl, sd⟩

def execTeunpack (f : Fields) (s : State) : Out :=
  issueWith (.teunpack f) f s fun c s =>
    let tb := auxBits f 4 2
    if teBad c 16 (teRegs tb) then .trap (trapOf clsIllegalOperand c.act)
    else
      floatEff c s 16 2 16 fun l =>
        let x := c.a (teRegs tb) l
        noDraw c l (mapElems (fmtOf 0) 16 fun j => (fmtOf 0).convert c.mode 0 0 (teElem tb x j))

def execFsr (f : Fields) (s : State) : Out :=
  issueWith (.fsr f) f s fun c s =>
    floatEff c s 1 1 1 fun l => ⟨c.seed l, 0, if auxBit f 0 then c.seed l else c.a 1 l⟩

/-! ## Special functions -/

/-- The special-function unit has served the issuing gang's lane row for some cycles (R296). -/
def sfuServed (s : State) (q : Issue) (n : Nat) : State :=
  if q.scalar then s
  else s.updCluster q.cl fun k => { k with sfuRow := q.slot / 16, sfuTill := Nat.max k.sfuTill s.cycles + n }

/-- The issuing gang's lane row holds its floating-point pipe for some cycles (R304). -/
def fpHeld (s : State) (q : Issue) (n : Nat) : State :=
  if q.scalar then s else s.updCluster q.cl fun k => { k with fpTill := k.fpTill.set (q.slot / 16) (s.cycles + n) }

/-- Cycles that a special function of an FT occupies its unit: two for packed f16 (R296). -/
def sfuCycles (ft : Nat) : Nat := if ft = 2 then 2 else 1

/-- A one-source special function on codes (R296, R297). -/
def sfu1 (i : Instr) (f : Fields) (s : State) (op : Fmt → Nat → Nat → Nat → FR) : Out :=
  issueWith i f s fun c s =>
    let ft := ftA f
    let m := ftFmt ft
    floatEff c (sfuServed s c.q (sfuCycles ft)) 1 6 (ftElems ft) fun l =>
      noDraw c l (mapElems m (ftElems ft) fun j =>
        op m c.mode (noSr (modeA c)) (elem m (c.a 1 l) j))

def execRcp (f : Fields) (s : State) : Out := sfu1 (.rcp f) f s fun m md rm n => m.rcpFn md rm n
def execRsqrt (f : Fields) (s : State) : Out := sfu1 (.rsqrt f) f s fun m md _ n => m.rsqrtFn md n
def execSqrt (f : Fields) (s : State) : Out := sfu1 (.sqrt f) f s fun m md rm n => m.sqrtFn md rm n

def execFdiv (f : Fields) (s : State) : Out :=
  issueWith (.fdiv f) f s fun c s =>
    let ft := ftA f
    let m := ftFmt ft
    floatEff c (sfuServed s c.q (sfuCycles ft)) 1 6 (ftElems ft) fun l =>
      noDraw c l (mapElems m (ftElems ft) fun j =>
        m.divFn c.mode (noSr (modeA c)) (elem m (c.a 1 l) j) (elem m (c.b 1 l) j))

def execExp2 (f : Fields) (s : State) : Out :=
  sfu1 (.exp2 f) f s fun m md rm n => m.expFn md rm false (ulpBound (ftA f) 2) n
def execLog2 (f : Fields) (s : State) : Out :=
  sfu1 (.log2 f) f s fun m md _ n => m.logFn md false (ulpBound (ftA f) 2) n
def execSin (f : Fields) (s : State) : Out :=
  sfu1 (.sin f) f s fun m md _ n => m.trigFn md false (ulpBound (ftA f) 2) n
def execCos (f : Fields) (s : State) : Out :=
  sfu1 (.cos f) f s fun m md _ n => m.trigFn md true (ulpBound (ftA f) 2) n
def execTanh (f : Fields) (s : State) : Out :=
  sfu1 (.tanh f) f s fun m md _ n => m.oddFn md false (ulpBound (ftA f) 2) n
def execSigm (f : Fields) (s : State) : Out :=
  sfu1 (.sigm f) f s fun m md _ n => m.sigmFn md (ulpBound (ftA f) 2) n
def execErf (f : Fields) (s : State) : Out :=
  sfu1 (.erf f) f s fun m md _ n => m.oddFn md true (ulpBound (ftA f) 2) n

end Sys2Proof.Machine
end

