-- ==== Sys2Proof/Machine/Chain.lean ====
section
/-! DEFINITION. The stream chain engine: major 0x35 and its commands (17:R376-R382). -/

namespace Sys2Proof.Machine

/-! ## Instructions -/

/-- chain (R376): one command per issue with an active lane; the descriptor's address comes from the lowest active lane. -/
def execChain (f : Fields) (s : State) : Out :=
  issueWith (.chain f) f s fun c s =>
    let a := c.a 2 c.low
    if c.act = [] then .go s []
    else if a % 128 ≠ 0 then .trap { trapOf clsAlignment c.act with faddr := BitVec.ofNat 64 a }
    else if c.g.full [.ch] then .wait s .full
    else
      let k := s.cluster c.q.cl
      let cmd : Cmd := { slot := c.q.gangSlot, ctx := c.g.ctx, blk := c.g.blk, op := c.g.nextOp, iaddr := c.q.addr
                         cmdseq := k.chainSeq, instr := .chain f, args := [a], fpmode := c.g.fpmode, begun := false
                         done := 0, entry := [], fault := none, asked := none }
      let s := s.updIss c.q fun g => g.addOp (.chain f) c.q c.act [.ch] [] [] [] k.chainSeq false
      .go (s.updCluster c.q.cl fun k => { k with chainq := k.chainq ++ [cmd], chainSeq := (k.chainSeq + 1) % 2 ^ 24 }) []

/-- chain.stat (R381). -/
def execChainStat (f : Fields) (s : State) : Out :=
  issueWith (.chainStat f) f s fun c s =>
    let n := if immU f = 0 then c.g.chainsDone
      else match (s.cluster c.q.cl).chainq with
        | h :: _ => if h.ctx = c.g.ctx ∧ h.begun then h.done else 0
        | [] => 0
    .go (writeRegs s c f.vd.toNat 1 fun _ => n) []

/-! ## The descriptor (R377, R378) -/

/-- A stream: address, whether it is a scratchpad offset, and its format code. -/
structure Stream where
  addr : Nat
  sp : Bool
  fmt : Nat
  deriving DecidableEq, Repr

/-- An operation word. -/
structure ChainOp where
  k : Nat
  src : Nat
  opc : Nat
  deriving DecidableEq, Repr

/-- The operation word's fields. -/
def chainOpOf (w : Nat) : ChainOp := { k := bitsOf w 32 32, src := bitsOf w 8 2, opc := bitsOf w 0 5 }

/-- COUNT, the streams and the operations of a descriptor's words. -/
def chainCount (ws : List Nat) : Nat := bitsOf (ws.getD 0 0) 32 32
def chainA (ws : List Nat) : Stream := ⟨ws.getD 1 0, bitOf (ws.getD 0 0) 16, bitsOf (ws.getD 0 0) 4 3⟩
def chainB (ws : List Nat) : Stream := ⟨ws.getD 2 0, bitOf (ws.getD 0 0) 17, bitsOf (ws.getD 0 0) 8 3⟩
def chainD (ws : List Nat) : Stream := ⟨ws.getD 3 0, bitOf (ws.getD 0 0) 18, bitsOf (ws.getD 0 0) 12 3⟩
def chainOps (ws : List Nat) : List ChainOp :=
  (List.range (bitsOf (ws.getD 0 0) 0 4)).map fun j => chainOpOf (ws.getD (4 + j) 0)

/-- Bytes of an element of a stream. -/
def Stream.size (x : Stream) : Nat := (fmtOf x.fmt).width / 8

/-- Whether an operation's code and source are those of the table (R378). -/
def ChainOp.ok (o : ChainOp) : Bool :=
  if o.opc ≤ 5 then o.src == 1 || o.src == 2
  else if o.opc ≤ 14 then o.src == 0 && o.k == 0
  else o.opc == 15 && o.src == 1

/-- Whether some operation reads stream B. -/
def usesB (ws : List Nat) : Bool := (chainOps ws).any (·.src == 1)

/-- A destination range may touch a source range only from the same address with the same element size (R380). -/
def clash (n : Nat) (d x : Stream) : Bool :=
  d.sp == x.sp && decide (d.addr < x.addr + n * x.size ∧ x.addr < d.addr + n * d.size) &&
    !(d.addr == x.addr && d.size == x.size)

/-- The conditions that make a descriptor an illegal operand (R380). -/
def badChain (ws : List Nat) : Bool :=
  let w0 := ws.getD 0 0
  let a := chainA ws
  let b := chainB ws
  let d := chainD ws
  let n := chainCount ws
  let fmtBad := fun (c : Nat) => c == 1 || 5 < c
  let hiBad := fun (x : Stream) => x.sp && 2 ^ 32 ≤ x.addr
  bitsOf w0 19 13 != 0 || bitOf w0 15 || bitOf w0 11 || bitOf w0 7 || 8 < bitsOf w0 0 4 ||
    fmtBad a.fmt || fmtBad b.fmt || fmtBad d.fmt || hiBad a || hiBad b || hiBad d ||
    (!usesB ws && b.addr != 0) ||
    (List.range 8).any (fun j => decide (bitsOf w0 0 4 ≤ j) && ws.getD (4 + j) 0 != 0) ||
    (List.range 4).any (fun j => ws.getD (12 + j) 0 != 0) ||
    (List.range (bitsOf w0 0 4)).any (fun j => bitsOf (ws.getD (4 + j) 0) 10 22 != 0 || bitsOf (ws.getD (4 + j) 0) 5 3 != 0) ||
    (chainOps ws).any (fun o => !o.ok) ||
    a.addr % a.size != 0 || d.addr % d.size != 0 || (usesB ws && b.addr % b.size != 0) ||
    clash n d a || (usesB ws && clash n d b)

/-- A scratchpad range of a stream reaches beyond an allocation. -/
def Stream.beyond (x : Stream) (n size : Nat) : Bool := x.sp && decide (0 < n ∧ size < x.addr + n * x.size)

/-! ## Elements (R379) -/

/-- A stream's element as FP32: exact widening with the input flush of its class. -/
def chainWiden (mode fmt code : Nat) : FR :=
  (fmtOf 0).convert (setBits mode 5 5 0) 0 0 ((fmtOf fmt).read mode code)

/-- One operation on t, with b from stream B. -/
def ChainOp.apply (o : ChainOp) (mode t b : Nat) : FR :=
  let f := fmtOf 0
  let x := if o.src = 2 then o.k else b
  let rd := fun n : Nat => f.read mode n
  match o.opc with
  | 0 => f.add mode 0 (rd t) (rd x)
  | 1 => f.add mode 0 (rd t) (rd x).negate
  | 2 => f.add mode 0 (rd x) (rd t).negate
  | 3 => f.mul mode 0 (rd t) (rd x)
  | 4 => f.pick mode false t x
  | 5 => f.pick mode true t x
  | 6 => ⟨t % 2 ^ 31, 0⟩
  | 7 => ⟨t ^^^ 2 ^ 31, 0⟩
  | 8 => f.expFn mode 0 false (ulpBound 0 2) t
  | 9 => f.logFn mode false (ulpBound 0 2) t
  | 10 => f.rcpFn mode 0 t
  | 11 => f.sqrtFn mode 0 t
  | 12 => f.oddFn mode false (ulpBound 0 2) t
  | 13 => f.sigmFn mode (ulpBound 0 2) t
  | 14 => f.oddFn mode true (ulpBound 0 2) t
  | _ => f.fma mode 0 (rd t) (rd b) (rd o.k)

/-- The element written, with every flag raised on the way: SR acts as RNE. -/
def chainValue (mode : Nat) (ws : List Nat) (a b : Nat) : FR :=
  let t := chainWiden mode (chainA ws).fmt a
  let bw := if usesB ws then chainWiden mode (chainB ws).fmt b else (⟨0, 0⟩ : FR)
  let r := (chainOps ws).foldl (fun (t : FR) o => let r := o.apply mode t.v bw.v; ⟨r.v, t.fl ||| r.fl⟩)
    (⟨t.v, t.fl ||| bw.fl⟩ : FR)
  let rm := fpRm mode
  let z := (fmtOf (chainD ws).fmt).convert mode (if rm = 4 then 0 else rm) 0 ((fmtOf 0).decodeRaw 0 r.v)
  ⟨z.v, r.fl ||| z.fl⟩

/-- The block of a command: its scratchpad base and size. -/
def State.cmdBlock (s : State) (cl : Nat) (c : Cmd) : Nat × Nat :=
  match (s.cluster cl).blocks.find? c.blk with
  | some b => (b.sbase, b.ssize)
  | none => (0, 0)

/-- The scratchpad row tolls of an engine's access to a span (R72). -/
def State.chargeSpan (s : State) (cl x o n : Nat) : State :=
  let k := s.cluster cl
  s.charge (partOf cl) x 9 (bankCycles ((List.range (ceilDiv (o % 4 + n) 4)).map fun i => k.scratchWord (o / 4 * 4 + 4 * i)))

/-- A read of one element of a stream. -/
def readStream (s : State) (cl : Nat) (c : Cmd) (x : Stream) (i : Nat) : State × (Nat ⊕ EngStop) :=
  let a := x.addr + i * x.size
  if x.sp then
    let o := (s.cmdBlock cl c).1 + a
    let s := s.chargeSpan cl c.ctx o x.size
    if (s.cluster cl).scratchPoison o x.size then (s, .inr (engTrap 3 3 a))
    else (s, .inl (fromBytes ((s.cluster cl).scratchRead o x.size)))
  else
    match engRead s (c.engOf s cl 3) (a % 2 ^ 64) x.size with
    | (s, .inr e) => (s, .inr e)
    | (s, .inl bs) => (s, .inl (fromBytes bs))

/-- A write of one element. -/
def writeStream (s : State) (cl : Nat) (c : Cmd) (x : Stream) (i v : Nat) : State × Option EngStop :=
  let a := x.addr + i * x.size
  if x.sp then
    let o := (s.cmdBlock cl c).1 + a
    ((s.chargeSpan cl c.ctx o x.size).updCluster cl fun k => k.scratchWrite o (toBytes x.size v), none)
  else engWrite s (c.engOf s cl 3) (a % 2 ^ 64) (toBytes x.size v)

/-- The operation tolls of one element (R382). -/
def State.chargeChain (s : State) (cl : Nat) (c : Cmd) : State :=
  let ops := chainOps c.entry
  let sf := ops.countP fun o => decide (8 ≤ o.opc ∧ o.opc ≤ 14)
  (s.charge (partOf cl) c.ctx 2 (ops.length - sf)).charge (partOf cl) c.ctx 6 sf

/-- The head of the chain queue changed or removed. -/
def State.setChainHead (s : State) (cl : Nat) (c : Option Cmd) : State :=
  s.updCluster cl fun k => { k with chainq := c.toList ++ k.chainq.tail }

/-- A chain command has run to its end: its flags, which `args` collects after the address, and the gang's count (R376,
R381). -/
def State.endChain (s : State) (cl : Nat) (c : Cmd) : State :=
  let s := s.cmdFlags cl c (c.args.getD 1 0)
  let s := s.updGang cl c.slot fun g => { g with chainsDone := (g.chainsDone + 1) % 2 ^ 32 }
  (s.endCmd cl c).setChainHead cl none

/-- A chain command that stops in a step begun at `s0`. -/
def State.stopChain (s0 s : State) (cl : Nat) (c : Cmd) (x : EngStop) : State :=
  let (s, h) := s0.stopCmd s cl c x
  s.setChainHead cl h

/-- The head chain command begins: its descriptor is read once and judged (R376, R380); COUNT 0 completes at once. -/
def execChainCommandBegin (cl : Nat) (s : State) : Out :=
  .next <|
    match (s.cluster cl).chainq with
    | [] => s
    | c :: _ =>
      if c.begun || !c.free s || !s.cmdReady cl c then s
      else
        let s0 := s
        let c := { c with asked := none }
        match engRead s (c.engOf s cl 3) (c.args.getD 0 0) 128 with
        | (s, .inr x) => s0.stopChain s cl c x
        | (s, .inl bs) =>
          let ws := (List.range 16).map fun i => fromBytes ((bs.drop (8 * i)).take 8)
          let size := (s.cmdBlock cl c).2
          let n := chainCount ws
          if badChain ws then s0.stopChain s cl c (.trap { cls := clsIllegalOperand, eng := 3 })
          else if (chainA ws).beyond n size || (chainD ws).beyond n size || (usesB ws && (chainB ws).beyond n size) then
            s0.stopChain s cl c (.trap { cls := clsAccess, subtype := 2, eng := 3 })
          else
            let s := s.traceCmd cl 1 c 0
            let c := { c with begun := true, entry := ws }
            if n = 0 then s.endChain cl c else s.setChainHead cl (some c)

/-- One element (R379): its reads, the operations, its write; the last one completes the command. -/
def execChainElement (cl : Nat) (s : State) : Out :=
  .next <|
    match (s.cluster cl).chainq with
    | [] => s
    | c :: _ =>
      if !c.begun || !c.free s then s
      else
        let s0 := s
        let c := { c with asked := none }
        let ws := c.entry
        match readStream s cl c (chainA ws) c.done with
        | (s, .inr x) => s0.stopChain s cl c x
        | (s, .inl a) =>
          match if usesB ws then readStream s cl c (chainB ws) c.done else (s, .inl 0) with
          | (s, .inr x) => s0.stopChain s cl c x
          | (s, .inl b) =>
            let r := chainValue c.fpmode.toNat ws a b
            match writeStream s cl c (chainD ws) c.done r.v with
            | (s, some x) => s0.stopChain s cl c x
            | (s, none) =>
              let c := { c with done := c.done + 1, args := [c.args.getD 0 0, c.args.getD 1 0 ||| r.fl] }
              let s := s.chargeChain cl c
              if chainCount ws ≤ c.done then s.endChain cl c else s.setChainHead cl (some c)

end Sys2Proof.Machine
end

