-- ==== Sys2Proof/Machine/Points.lean ====
section
/-! DEFINITION. What each partition may run at: targets, the package limit and ceilings (19:R440-R444). -/

namespace Sys2Proof.Machine

/-- The state with a partition changed. -/
def State.updPart (s : State) (p : Nat) (f : Part → Part) : State := { s with parts := s.parts.set p (f (s.part p)) }

/-- The package's partitions (R201). -/
def allParts : List Nat := List.range 40

/-- The contexts resident on a partition. -/
def State.residents (s : State) (p : Nat) : List Nat :=
  (((List.range 4).map fun i => (s.cluster (4 * p + i)).blocks.map fun b => b.2.ctx).flatten).eraseDups

/-- A context's grant (R441). -/
def State.grantOfCtx (s : State) (x : Nat) : Nat :=
  let u := s.func (x / 4096)
  ((s.ctx x).grant).getD (Nat.min u.opdef u.opmax)

/-- The target of a partition (R442). -/
def State.target (s : State) (p : Nat) : Nat :=
  match s.residents p with
  | [] => 2
  | xs => (xs.map s.grantOfCtx).foldl Nat.max 0

/-- The package limit in W (R444). -/
def State.powerLimit (s : State) : Nat :=
  let l := if s.alarm = 0 then 3200 else 2700
  let l := if allParts.any fun p => decide (13 ≤ s.target p) then l else Nat.min l 2700
  if bitOf s.power.capCtl.toNat 63 then Nat.min l (s.power.cap.getD l) else l

/-- A point that may be run: a boost point only under the boost limit and without an alarm (R440, R442; log 156). -/
def State.boostBar (s : State) : Nat := if s.alarm = 0 ∧ s.powerLimit = 3200 then 15 else 12

/-- The ceiling of a partition (R442): the alarm register and the package limit, the power manager, and the actions in course. -/
def State.ceiling (s : State) (p : Nat) : Nat :=
  let pt := s.part p
  ((pt.acts.map fun a => a.2.2.1).foldl Nat.min pt.ceil).min s.boostBar

/-- Some ceiling stands below its partition's target. -/
def State.anyBelow (s : State) : Bool := allParts.any fun p => decide (s.ceiling p < s.target p)

/-- A ceiling that stands below its partition's target is kept in mind for the 100 µs period (R444). -/
def State.noteBelow (s : State) : State :=
  if s.power.below || !s.anyBelow then s else { s with power := { s.power with below := true } }

end Sys2Proof.Machine
end

