-- ==== Sys2Proof/Machine/Tensor.lean ====
section
/-! DEFINITION. Tensor-identifier records and the elements of a tensor in memory (16:R351-R353, R356, R357). -/

namespace Sys2Proof.Machine

/-- The fields of a tensor entry (R352). -/
structure Tensor where
  fmt : Nat
  sg : Nat
  fin : Nat
  fout : Nat
  xval : Nat
  stride : Nat
  cols : Nat
  rows : Nat
  sbase : Nat
  base : Nat
  deriving DecidableEq, Repr

/-- The entry of four words. -/
def tensorOf (ws : List Nat) : Tensor :=
  let w := fun i => ws.getD i 0
  { fmt := bitsOf (w 3) 0 4, sg := bitsOf (w 3) 8 2, fin := bitsOf (w 3) 22 2, fout := bitsOf (w 3) 20 2
    xval := bitsOf (w 3) 24 8, stride := bitsOf (w 2) 32 32, cols := bitsOf (w 2) 16 16, rows := bitsOf (w 2) 0 16
    sbase := w 1, base := w 0 }

/-- Bits of an element of the formats 1 to 6. -/
def fmtBits (fmt : Nat) : Nat := if fmt = 1 then 32 else if fmt ≤ 3 then 16 else if fmt ≤ 5 then 8 else 4

/-- The formats 7 to 9 are tiered; TB is FMT − 6 (R212). -/
def isTiered (fmt : Nat) : Bool := 7 ≤ fmt

/-- Bytes of a row of `n` columns (R352). -/
def Tensor.rowBytes (t : Tensor) (n : Nat) : Nat :=
  if isTiered t.fmt then n / 16 * teBytes (t.fmt - 6) else ceilDiv (n * fmtBits t.fmt) 8

/-- A malformed record (R352). -/
def malformedTensor (ws : List Nat) : Bool :=
  let t := tensorOf ws
  let w3 := ws.getD 3 0
  t.fmt != 0 &&
    (bitsOf w3 32 32 != 0 || bitsOf w3 10 10 != 0 || bitsOf w3 4 4 != 0 || t.fin == 3 || t.fout == 3 || 2 ≤ t.sg ||
      10 ≤ t.fmt || t.rows == 0 || t.cols == 0 || !canonical t.base || !canonical t.sbase || t.base % 16 != 0 ||
      t.stride % 16 != 0 || t.stride < t.rowBytes t.cols || (isTiered t.fmt && t.cols % 16 != 0) ||
      (t.sg == 1 && !((4 ≤ t.fmt && t.fmt ≤ 6) && t.cols % 32 == 0)) || (t.xval != 0 && t.fmt != 6))

/-- A context's entry of the cluster's table: key context × 64 + t (R351); all zero until it is set. -/
def Cluster.tensor (k : Cluster) (x t : Nat) : List Nat := k.tids.getD (x * 64 + t) [0, 0, 0, 0]

/-- The byte offset of column `c` in a row (R353). -/
def Tensor.colOff (t : Tensor) (c : Nat) : Nat :=
  if isTiered t.fmt then c / 16 * teBytes (t.fmt - 6) else c * fmtBits t.fmt / 8

/-- The global address of element (r, c). -/
def Tensor.elemAddr (t : Tensor) (r c : Nat) : Nat := t.base + r * t.stride + t.colOff c

/-- How many of the `n` columns from `c0` on lie in the tensor, for row `r`. -/
def Tensor.inside (t : Tensor) (r c0 n : Nat) : Nat := if r < t.rows then Nat.min n (t.cols - c0) else 0

/-- The FPMODE under which elements of the tensor are read: input flush by FIN, FP4's extra value from XVAL (R353). -/
def Tensor.inMode (t : Tensor) (mode : Nat) : Nat :=
  let m := setBits mode 24 8 t.xval
  if t.fin = 1 then setBits m 10 5 0 else if t.fin = 2 then setBits m 10 5 31 else m

/-- The FPMODE of FP32 results: the FP32 result flush by FOUT (R352). -/
def outMode (fout mode : Nat) : Nat := if fout = 1 then setBits mode 6 1 0 else if fout = 2 then setBits mode 6 1 1 else mode

/-- The lane format of FMT 1 to 6. -/
def tensorFmt (fmt : Nat) : Fmt := fmtOf (if fmt = 1 then 0 else fmt)

/-- The tensor's last byte of these columns holds one FP4 element inside it and one outside (R353). -/
def Tensor.halfTail (t : Tensor) (r c0 n : Nat) : Bool := t.fmt == 6 && t.inside r c0 n % 2 == 1

/-- Bytes whose last keeps its low half of `bs` and takes its high half from another. -/
def lastNibble (bs : List Byte) (high : Byte) : List Byte :=
  bs.dropLast ++ (bs.getLast?.toList.map fun b => b &&& 0x0F ||| high &&& 0xF0)

/-- The bytes of `n` columns of row `r` from an even or block-aligned column on, zero outside the tensor (R353). -/
def readRow (s : State) (e : Eng) (t : Tensor) (r c0 n : Nat) : State × (List Byte ⊕ EngStop) :=
  let m := t.inside r c0 n
  match engRead s e (t.elemAddr r c0) (t.rowBytes m) with
  | (s, .inr x) => (s, .inr x)
  | (s, .inl bs) =>
    let bs := if t.halfTail r c0 n then lastNibble bs 0 else bs
    (s, .inl (bs ++ List.replicate (t.rowBytes n - t.rowBytes m) 0))

/-- Element `j` of a row's bytes, for FMT 1 to 6. -/
def elemCode (fmt : Nat) (bs : List Byte) (j : Nat) : Nat :=
  let b := fmtBits fmt
  bitsOf (fromBytes ((bs.drop (j * b / 8)).take 4)) (j * b % 8) b

/-- The four scales of 128 elements from `c0` on (R353): 0x7F outside the tensor. -/
def readScales (s : State) (e : Eng) (t : Tensor) (r c0 : Nat) : State × (List Nat ⊕ EngStop) :=
  let m := ceilDiv (t.inside r c0 128) 32
  match engRead s e (t.sbase + r * ceilDiv t.cols 32 + c0 / 32) m with
  | (s, .inr x) => (s, .inr x)
  | (s, .inl bs) => (s, .inl (bs.map (·.toNat) ++ List.replicate (4 - m) 0x7F))

/-- The tiered format that a tensor's elements take in the matrix unit (R227): 1 te4, 2 te6, 3 te9. -/
def tierOf (fmt : Nat) : Nat := if isTiered fmt then fmt - 6 else if fmt = 6 then 2 else 3

/-- Eight tiered blocks of 128 elements of a row (R227, R356, R357); the conversion sets no flag. -/
def rowBlocks (t : Tensor) (mode : Nat) (bs : List Byte) : List Nat :=
  (List.range 8).map fun b =>
    if isTiered t.fmt then
      let k := teBytes (t.fmt - 6)
      fromBytes ((bs.drop (b * k)).take k)
    else
      (tePack (tierOf t.fmt) 0 ((List.range 16).map fun j =>
        (tensorFmt t.fmt).read (t.inMode mode) (elemCode t.fmt bs (16 * b + j))) []).1

/-- One row of 128 elements as blocks and scales. -/
def readBlocks (s : State) (e : Eng) (t : Tensor) (mode r c0 : Nat) : State × ((List Nat × List Nat) ⊕ EngStop) :=
  match readRow s e t r c0 128 with
  | (s, .inr x) => (s, .inr x)
  | (s, .inl bs) =>
    if t.sg = 0 then (s, .inl (rowBlocks t mode bs, []))
    else
      match readScales s e t r c0 with
      | (s, .inr x) => (s, .inr x)
      | (s, .inl sc) => (s, .inl (rowBlocks t mode bs, sc))

/-- Several rows, given by row and first column, in order. -/
def readTile (e : Eng) (t : Tensor) (mode : Nat) : List (Nat × Nat) → State → State × (List (List Nat × List Nat) ⊕ EngStop)
  | [], s => (s, .inl [])
  | (r, c0) :: rs, s =>
    match readBlocks s e t mode r c0 with
    | (s, .inr x) => (s, .inr x)
    | (s, .inl b) =>
      match readTile e t mode rs s with
      | (s, .inr x) => (s, .inr x)
      | (s, .inl bs) => (s, .inl (b :: bs))

end Sys2Proof.Machine
end

