-- ==== Sys2Proof/Machine/Copy.lean ====
section
/-! DEFINITION. The copy channels: major 0x34 and their commands (17:R367-R375, 03:R75, R76, 05:R114). -/

namespace Sys2Proof.Machine

/-! ## Channels -/

/-- A context's register of a channel (R76), in `Cluster.chans` under context × 8 + channel. -/
def Cluster.chan (k : Cluster) (x ch : Nat) : ChanReg := k.chans.getD (x * 8 + ch) ⟨0, 0, 0, 0⟩

/-- The cluster with a channel register changed. -/
def Cluster.updChan (k : Cluster) (x ch : Nat) (f : ChanReg → ChanReg) : Cluster :=
  { k with chans := k.chans.set (x * 8 + ch) (f (k.chan x ch)) }

/-- What a copy command moves, in terms of what it sampled at issue. Arguments by command: `cp.tile` tensor, SOFF, BOFF,
rows, columns, pitch, row0, col0; `cp.lin` global address (or source offset), offset, BOFF, length; `cp.mcast` global
address, offset, BOFF, length, receiver mask, group. -/
def Cmd.arg (c : Cmd) (i : Nat) : Nat := c.args.getD i 0

/-- The channel of an instruction. -/
def chanOf (f : Fields) : Nat := f.vd.toNat % 8

/-- A command enters a channel's queue (R368). -/
def enterCp (i : Instr) (c : Ctxt) (s : State) (args : List Nat) : Eff :=
  if c.g.full [.cp] then .wait s .full
  else
    let ch := chanOf c.f
    let seq := ((s.cluster c.q.cl).chan c.g.ctx ch).next
    let cmd : Cmd := { slot := c.q.gangSlot, ctx := c.g.ctx, blk := c.g.blk, op := c.g.nextOp, iaddr := c.q.addr
                       cmdseq := seq, instr := i, args, fpmode := c.g.fpmode, begun := false, done := 0, entry := []
                       fault := none, asked := none }
    let s := s.updIss c.q fun g => g.addOp i c.q c.act [.cp] [] [] [] seq false
    .go (s.updCluster c.q.cl fun k =>
      { k.updChan c.g.ctx ch fun r => { r with next := (seq + 1) % 2 ^ 24 } with
        chanq := k.chanq.modify ch (· ++ [cmd]) }) []

/-- Register `j` of a group of registers in the lowest active lane: 32 bits each. -/
def reg32 (v j : Nat) : Nat := bitsOf v (32 * j) 32

/-! ## Instructions -/

/-- Fields of cp.tile (R369): tensor, direction (true: to global memory), swizzle, barrier. -/
def tileTid (f : Fields) : Nat := auxBits f 5 6
def tileOut (f : Fields) : Bool := auxBit f 4
def tileSw (f : Fields) : Nat := auxBits f 1 3
def tileBar (f : Fields) : Bool := auxBit f 0

/-- An alignment trap at a scratchpad or global address. -/
def alignTrap (c : Ctxt) (a : Nat) : Eff := .trap { trapOf clsAlignment c.act with faddr := BitVec.ofNat 64 a }
/-- A range trap at a scratchpad offset. -/
def rangeTrap (c : Ctxt) (a : Nat) : Eff := .trap { trapOf clsAccess c.act with subtype := 2, faddr := BitVec.ofNat 64 a }

/-- cp.tile (R370): the checks in the order of its description (R246). -/
def execCpTile (f : Fields) (s : State) : Out :=
  issueWith (.cpTile f) f s fun c s =>
    let q := c.b 4 c.low
    let o := c.a 2 c.low
    let soff := reg32 q 0
    let boff := reg32 q 1
    let rows := bitsOf (reg32 q 2) 0 16
    let cols := bitsOf (reg32 q 2) 16 16
    let pitch := reg32 q 3
    if c.act = [] then .go s []
    else if soff % 16 ≠ 0 ∨ pitch % 16 ≠ 0 then alignTrap c soff
    else if rows = 0 ∨ cols = 0 then .trap (trapOf clsIllegalOperand c.act)
    else if tileBar f && boff % 16 != 0 then alignTrap c boff
    else enterCp (.cpTile f) c s [tileTid f, soff, boff, rows, cols, pitch, reg32 o 0, reg32 o 1]

/-- Fields of cp.lin (R369): direction 0 .gs, 1 .sg, 2 .ss; swizzle; barrier. -/
def linDir (f : Fields) : Nat := auxBits f 7 2
def linSw (f : Fields) : Nat := auxBits f 4 3
def linBar (f : Fields) : Bool := auxBit f 3

/-- cp.lin (R371): operand, alignment and range conditions in that order, which is its description's (R246; log 131, DEDUCED). -/
def execCpLin (f : Fields) (s : State) : Out :=
  issueWith (.cpLin f) f s fun c s =>
    let q := c.a 4 c.low
    let len := c.b 1 c.low
    let ss := linDir f == 2
    let g := if ss then reg32 q 0 else q % 2 ^ 64
    let soff := reg32 q 2
    let boff := reg32 q 3
    let size := s.scratchSize c
    if c.act = [] then .go s []
    else if len = 0 ∨ len % 4 ≠ 0 then .trap (trapOf clsIllegalOperand c.act)
    else if g % 4 ≠ 0 then alignTrap c g
    else if soff % 4 ≠ 0 then alignTrap c soff
    else if linBar f && boff % 16 != 0 then alignTrap c boff
    else if size < soff + len then rangeTrap c soff
    else if ss && size < g + len then rangeTrap c g
    else if linBar f && size < boff + 16 then rangeTrap c boff
    else enterCp (.cpLin f) c s [g, soff, boff, len]

/-- The blocks of a launch that are members of a group, by ascending linear index (R372). -/
def Launch.members (n : Launch) (g : Nat) : List Nat := (List.range n.member.length).filter fun i => (n.member.getD i []).contains g

/-- The launch of a block. -/
def State.launchOf (s : State) (blk : Nat) : Option Launch := s.launches.find? (blk / 2 ^ 32)

/-- cp.mcast (R372). A receiver whose range does not hold the bytes is no condition of its issue (R114). -/
def execCpMcast (f : Fields) (s : State) : Out :=
  issueWith (.cpMcast f) f s fun c s =>
    let q := c.a 4 c.low
    let p := c.b 2 c.low
    let len := reg32 p 0
    let boff := reg32 p 1
    let g := q % 2 ^ 64
    let soff := reg32 q 2
    let mask := reg32 q 3
    let grp := auxBits f 3 8
    let count := ((s.launchOf c.g.blk).map fun n => (n.members grp).length).getD 0
    let member := ((s.blockOf c.q c.g).map (·.groups.contains grp)).getD false
    if c.act = [] then .go s []
    else if !member || mask == 0 || decide (2 ^ count ≤ mask) || len == 0 || len % 4 != 0 then
      .trap (trapOf clsIllegalOperand c.act)
    else if g % 4 ≠ 0 then alignTrap c g
    else if soff % 4 ≠ 0 then alignTrap c soff
    else if boff % 16 ≠ 0 then alignTrap c boff
    else enterCp (.cpMcast f) c s [g, soff, boff, len, mask, grp]

/-- cp.wptr (R373). -/
def execCpWptr (f : Fields) (s : State) : Out :=
  issueWith (.cpWptr f) f s fun c s =>
    .go (writeRegs s c f.vd.toNat 1 fun _ => ((s.cluster c.q.cl).chan c.g.ctx (immU f)).wptr) []

/-! ## The steps of a command -/

/-- Bytes of a scratchpad row of a tile (R370). -/
def Cmd.rb (c : Cmd) : Nat := (tensorOf (c.entry.take 4)).rowBytes (c.arg 4)

/-- The byte count B of a command (R370-R372), for a tile under the tensor entry it sampled. -/
def Cmd.total (c : Cmd) : Nat :=
  match c.instr with
  | .cpTile _ => c.arg 3 * c.rb
  | _ => c.arg 3

/-- The swizzle of a command. -/
def Cmd.sw (c : Cmd) : Nat :=
  match c.instr with
  | .cpTile f => tileSw f
  | .cpLin f => linSw f
  | .cpMcast f => auxBits f 0 3
  | _ => 0

/-- Whether delivered bytes are counted in a barrier object. -/
def Cmd.bar (c : Cmd) : Bool :=
  match c.instr with
  | .cpTile f => tileBar f
  | .cpLin f => linBar f
  | .cpMcast _ => true
  | _ => false

/-- Write bytes at a block offset under a swizzle (R71), word by word: a word written whole loses its poison mark (R80). -/
def Cluster.swWrite (k : Cluster) (base sw o : Nat) (bs : List Byte) : Cluster :=
  (List.range (ceilDiv bs.length 4)).foldl (fun k i =>
    k.scratchWrite (base + swizzle sw (o + 4 * i)) ((bs.drop (4 * i)).take 4)) k

/-- Read bytes at a block offset under a swizzle. -/
def Cluster.swRead (k : Cluster) (base sw o n : Nat) : List Byte :=
  (List.range n).map fun i => k.scratchByte (base + swizzle sw (o + i))

/-- The words a swizzled span touches. -/
def Cluster.swWords (k : Cluster) (base sw o n : Nat) : List Nat :=
  (List.range (ceilDiv n 4)).map fun i => k.scratchWord (base + swizzle sw (o + 4 * i))

/-- The row tolls of a swizzled span on cluster `cl`, charged to the command's context where its channel is. -/
def State.chargeSw (s : State) (home cl x base sw o n : Nat) : State :=
  s.charge (partOf home) x 9 (bankCycles ((s.cluster cl).swWords base sw o n))

/-- The row tolls of a receiver of a multicast (R114): one for each row written. -/
def State.chargeReceiver (s : State) (home cl x base sw o n : Nat) : State :=
  s.charge (partOf home) x 9 (((s.cluster cl).swWords base sw o n).map (· / 32)).eraseDups.length

/-- A poisoned word among those read. -/
def Cluster.swPoison (k : Cluster) (base sw o n : Nat) : Bool :=
  (k.swWords base sw o n).any fun w => k.sramPoison.getD w false

/-- The copy toll of the bytes from `a` to `b` (R375): one unit per 128 bytes or part. -/
def State.chargeCopy (s : State) (cl x a b : Nat) : State := s.charge (partOf cl) x 16 (ceilDiv b 128 - ceilDiv a 128)

/-- The head of a channel's queue changed or removed. -/
def State.setCpHead (s : State) (cl ch : Nat) (c : Option Cmd) : State :=
  s.updCluster cl fun k => { k with chanq := k.chanq.modify ch fun q => c.toList ++ q.tail }

/-- The channel's STATE. -/
def State.chanState (s : State) (cl ch : Nat) (c : Cmd) (st : Nat) : State :=
  s.updCluster cl fun k => k.updChan c.ctx ch fun r => { r with st, cmdseq := c.cmdseq }

/-- A copy command stops in a step begun at `s0` (R76, R367): on a fault the channel's STATE is 2; while it only waits it stays. -/
def State.stopCp (s0 s : State) (cl ch : Nat) (c : Cmd) (x : EngStop) : State :=
  let (s', h) := s0.stopCmd s cl c x
  let y := (s0.engAgain s x).2
  (match h with
    | none => s'.chanState cl ch c 0
    | some _ => if y.faulted then s'.chanState cl ch c 2 else s').setCpHead cl ch h

/-- A step of `n` bytes has been delivered (R75): WPTR advances, and the last step completes the command. -/
def State.delivered (s : State) (cl ch : Nat) (c : Cmd) (n : Nat) : State :=
  let c := { c with done := c.done + n }
  let s := s.updCluster cl fun k => k.updChan c.ctx ch fun r => { r with wptr := (r.wptr + n) % 2 ^ 32 }
  if c.total ≤ c.done then ((s.chanState cl ch c 0).endCmd cl c).setCpHead cl ch none
  else (s.chanState cl ch c 1).setCpHead cl ch (some c)

/-- The barrier object of the issuing block counts a step (R78). -/
def State.countStep (s : State) (cl : Nat) (c : Cmd) (n : Nat) : State :=
  if c.bar then (s.barBytes cl c.blk ((s.cmdBlock cl c).1 + c.arg 2) n).charge (partOf cl) c.ctx 9 1 else s

/-- A tile's conditions when its command begins (R370): an operand trap, or an access fault of the ranges. -/
def Cluster.tileBad (k : Cluster) (c : Cmd) (bar : Bool) (size : Nat) : Option EngStop :=
  let t := tensorOf (k.tensor c.ctx (c.arg 0))
  let rb := t.rowBytes (c.arg 4)
  let col0 := c.arg 7
  let odd := if isTiered t.fmt then rb % 4 ≠ 0 else c.arg 4 * fmtBits t.fmt % 32 ≠ 0
  if t.fmt = 0 ∨ 9 < t.fmt ∨ (t.fmt = 6 ∧ col0 % 2 ≠ 0) ∨ (isTiered t.fmt = true ∧ (col0 % 16 ≠ 0 ∨ c.arg 4 % 16 ≠ 0)) ∨
      odd ∨ c.arg 5 < rb then some (.trap { cls := clsIllegalOperand, eng := 2 })
  else if size < c.arg 1 + (c.arg 3 - 1) * c.arg 5 + rb ∨ (bar = true ∧ size < c.arg 2 + 16) then
    some (engTrap 2 2 (c.arg 1))
  else none

/-- The ranks of a mask's receivers as linear block indices (R372). -/
def State.receivers (s : State) (c : Cmd) : List Nat :=
  match s.launchOf c.blk with
  | some n => (bitList 32 (c.arg 4)).filterMap fun r => (n.members (c.arg 5))[r]?
  | none => []

/-- The cluster on which a block is resident. -/
def State.whereIs (s : State) (blk : Nat) : Option Nat := (s.clusters.search fun k => k.2.blocks.has blk).map (·.1)

/-- The head command of a channel begins (R367, R368): a tile is judged against its tensor entry, which it samples; a
multicast resolves its receivers; an overlapping `.ss` copy reads its source first (R371), poison included (log 153). -/
def execCopyCommandBegin (cl ch : Nat) (s : State) : Out :=
  .next <|
    match (s.cluster cl).chanq.getD ch [] with
    | [] => s
    | c :: _ =>
      if c.begun || !s.cmdReady cl c then s
      else
        let k := s.cluster cl
        let (base, size) := s.cmdBlock cl c
        let start := fun (e : List Nat) =>
          ((s.chanState cl ch c 1).traceCmd cl 1 c 0).setCpHead cl ch (some { c with begun := true, entry := e })
        match c.instr with
        | .cpTile f =>
          match k.tileBad c (tileBar f) size with
          | some x => s.stopCp s cl ch c x
          | none => start (k.tensor c.ctx (c.arg 0))
        | .cpLin f =>
          let src := c.arg 0 / 128 * 128
          let dst := c.arg 1 / 128 * 128
          if linDir f = 2 ∧ src < dst + 128 + c.arg 3 ∧ dst < src + 128 + c.arg 3 then
            if k.swPoison base (linSw f) (c.arg 0) (c.arg 3) then s.stopCp s cl ch c (engTrap 2 3 (c.arg 0))
            else start ((k.swRead base (linSw f) (c.arg 0) (c.arg 3)).map (·.toNat))
          else start []
        | _ => start (s.receivers c)

/-- Bytes of the next step of a linear copy: up to the next 128-byte boundary of the ascending address `a`. -/
def stepLen (a left : Nat) : Nat := Nat.min left (128 - a % 128)

/-- A step of `cp.lin`. -/
def State.linStep (s : State) (cl ch : Nat) (c : Cmd) (f : Fields) : State :=
  let s0 := s
  let (base, _) := s.cmdBlock cl c
  let sw := linSw f
  let g := c.arg 0 + c.done
  let o := c.arg 1 + c.done
  let left := c.arg 3 - c.done
  let k := s.cluster cl
  let put := fun (s : State) (bs : List Byte) =>
    let n := bs.length
    let s := (s.chargeSw cl cl c.ctx base sw o n).chargeCopy cl c.ctx c.done (c.done + n)
    let s := s.updCluster cl fun k => k.swWrite base sw o bs
    (s.countStep cl c n).delivered cl ch c n
  match linDir f with
  | 0 =>
    let n := stepLen g left
    match engRead s (c.engOf s cl 2) (g % 2 ^ 64) n with
    | (s, .inr x) => s0.stopCp s cl ch c x
    | (s, .inl bs) => put s bs
  | 1 =>
    let n := stepLen g left
    let s := s.chargeSw cl cl c.ctx base sw o n
    if k.swPoison base sw o n then s0.stopCp s cl ch c (engTrap 2 3 o)
    else
      match engWrite s (c.engOf s cl 2) (g % 2 ^ 64) (k.swRead base sw o n) with
      | (s, some x) => s0.stopCp s cl ch c x
      | (s, none) => ((s.chargeCopy cl c.ctx c.done (c.done + n)).countStep cl c n).delivered cl ch c n
  | _ =>
    let n := stepLen o left
    let s := s.chargeSw cl cl c.ctx base sw g n
    if c.entry = [] ∧ k.swPoison base sw g n = true then s0.stopCp s cl ch c (engTrap 2 3 g)
    else
      put s (if c.entry = [] then k.swRead base sw g n
        else ((c.entry.drop c.done).take n).map (BitVec.ofNat 8))

/-- A step of `cp.tile`: within one scratchpad row, bytes outside the tensor zero or not written (R370); the half byte of FP4 outside
it is read to be kept (log 152). -/
def State.tileStep (s : State) (cl ch : Nat) (c : Cmd) (f : Fields) : State :=
  let s0 := s
  let (base, _) := s.cmdBlock cl c
  let sw := tileSw f
  let t := tensorOf c.entry
  let rb := c.rb
  let i := c.done / rb
  let j := c.done % rb
  let o := c.arg 1 + i * c.arg 5 + j
  let n := Nat.min 128 (rb - j)
  let row := c.arg 6 + i
  let inside := t.rowBytes (t.inside row (c.arg 7) (c.arg 4))
  let m := Nat.min n (inside - j)
  let g := t.elemAddr row (c.arg 7) + j
  let half := t.halfTail row (c.arg 7) (c.arg 4) && decide (0 < m ∧ j + m = inside)
  let k := s.cluster cl
  if tileOut f then
    let s := s.chargeSw cl cl c.ctx base sw o n
    if k.swPoison base sw o n then s0.stopCp s cl ch c (engTrap 2 3 o)
    else
      let last := (g + m - 1) % 2 ^ 64
      match if half then engRead s (c.engOf s cl 2) last 1 else (s, .inl []) with
      | (s, .inr x) => s0.stopCp s cl ch c x
      | (s, .inl old) =>
        let bs := k.swRead base sw o m
        match engWrite s (c.engOf s cl 2) (g % 2 ^ 64) (if half then lastNibble bs (old.headD 0) else bs) with
        | (s, some x) => s0.stopCp s cl ch c x
        | (s, none) => ((s.chargeCopy cl c.ctx c.done (c.done + n)).countStep cl c n).delivered cl ch c n
  else
    match engRead s (c.engOf s cl 2) (g % 2 ^ 64) m with
    | (s, .inr x) => s0.stopCp s cl ch c x
    | (s, .inl bs) =>
      let bs := (if half then lastNibble bs 0 else bs) ++ List.replicate (n - m) 0
      let s := (s.chargeSw cl cl c.ctx base sw o n).chargeCopy cl c.ctx c.done (c.done + n)
      let s := s.updCluster cl fun k => k.swWrite base sw o bs
      (s.countStep cl c n).delivered cl ch c n

/-- One receiver of a multicast step takes its bytes and counts them (R114); `none` when its block has ended. -/
def State.receive (s : State) (home : Nat) (c : Cmd) (bs : List Byte) (lin : Nat) : Option State :=
  let blk := c.blk / 2 ^ 32 * 2 ^ 32 + lin
  match s.whereIs blk with
  | none => none
  | some cl =>
    match (s.cluster cl).blocks.find? blk with
    | none => none
    | some b =>
      let n := bs.length
      let o := c.arg 1 + c.done
      if b.ssize < o + n ∨ b.ssize < c.arg 2 + 16 then none
      else
        -- the barrier record is a row more (R375)
        let s := ((s.chargeReceiver home cl c.ctx b.sbase c.sw o n).charge (partOf home) c.ctx 9 1).chargeCopy home c.ctx c.done (c.done + n)
        let s := s.updCluster cl fun k => k.swWrite b.sbase c.sw o bs
        some (s.barBytes cl blk (b.sbase + c.arg 2) n)

/-- The rank of a receiver among its group's members (R372). -/
def State.rankOf (s : State) (c : Cmd) (lin : Nat) : Nat :=
  match s.launchOf c.blk with
  | some n => (n.members (c.arg 5)).idxOf lin
  | none => 0

/-- A step of `cp.mcast`: the source is read once; a receiver that fails stops receiving, and the launch site takes an access
fault at its offset that names it (LANEMASK holds the bit that the mask gave it, log 16, DESIGN CHOICE). -/
def State.mcastStep (s : State) (cl ch : Nat) (c : Cmd) : State :=
  let s0 := s
  let g := c.arg 0 + c.done
  let n := stepLen g (c.arg 3 - c.done)
  match engRead s (c.engOf s cl 2) (g % 2 ^ 64) n with
  | (s, .inr x) => s0.stopCp s cl ch c x
  | (s, .inl bs) =>
    let (s, live) := c.entry.foldl (fun (acc : State × List Nat) r =>
      match acc.1.receive cl c bs r with
      | some s => (s, acc.2 ++ [r])
      | none => (acc.1.cmdTrapAt cl c { cls := clsAccess, subtype := 2, eng := 2, faddr := BitVec.ofNat 64 (c.arg 1 + c.done) }
          [acc.1.rankOf c r], acc.2)) (s, [])
    s.delivered cl ch { c with entry := live } n

/-- A channel delivers one step of 4 to 128 bytes (R75). -/
def execCopyStep (cl ch : Nat) (s : State) : Out :=
  .next <|
    match (s.cluster cl).chanq.getD ch [] with
    | [] => s
    | c :: _ =>
      if !c.begun || !c.free s then s
      else
        let c := { c with asked := none }
        match c.instr with
        | .cpTile f => s.tileStep cl ch c f
        | .cpLin f => s.linStep cl ch c f
        | _ => s.mcastStep cl ch c

/-! ## Cancelling (R374) -/

/-- The bytes a cancelled command did not count go to its barrier object, or to each receiver's. A tile that has not begun
counts under the tensor entry in force. -/
def State.credit (s : State) (cl : Nat) (c : Cmd) : State :=
  if !c.bar then s
  else
    let e := if c.begun then c.entry else (s.cluster cl).tensor c.ctx (c.arg 0)
    match c.instr with
    | .cpMcast _ =>
      let rs := if c.begun then c.entry else s.receivers c
      rs.foldl (fun s r =>
        let blk := c.blk / 2 ^ 32 * 2 ^ 32 + r
        match s.whereIs blk with
        | some k => s.barBytes k blk ((((s.cluster k).blocks.find? blk).map (·.sbase)).getD 0 + c.arg 2) (c.total - c.done)
        | none => s) s
    | .cpTile _ => s.barBytes cl c.blk ((s.cmdBlock cl c).1 + c.arg 2) ({ c with entry := e }.total - c.done)
    | _ => s.barBytes cl c.blk ((s.cmdBlock cl c).1 + c.arg 2) (c.total - c.done)

/-- An access of an engine's step is under way to another package, or its answer not yet taken up: the step is not finished. -/
def State.inStep (s : State) (cl x unit : Nat) : Bool :=
  let mine := fun (k : FarAsk) => k.cl == cl && k.x == x && k.unit == unit && k.eng == 2
  (s.remotes.any fun r => match r.2.unit with | some k => mine k | none => false) || s.farGot.any fun g => mine g.ask

/-- cp.cancel (R374): once the delivering command has finished its step, every command of the context on the channel completes at once;
STATE becomes 3. -/
def execCpCancel (f : Fields) (s : State) : Out :=
  issueWith (.cpCancel f) f s fun c s =>
    let ch := immU f
    if c.act = [] then .go s []
    else if s.inStep c.q.cl c.g.ctx (4 + ch) then .wait s (.retry (s.cycles + 1))
    else
      let mine := ((s.cluster c.q.cl).chanq.getD ch []).filter (·.ctx == c.g.ctx)
      let s := s.updCluster c.q.cl fun k => { k with chanq := k.chanq.modify ch fun q => q.filter (·.ctx != c.g.ctx) }
      let s := mine.foldl (fun s d => (if auxBit f 0 then s.credit c.q.cl d else s).endCmd c.q.cl d) s
      .go (s.updCluster c.q.cl fun k => k.updChan c.g.ctx ch fun r => { r with st := 3 }) []

end Sys2Proof.Machine
end

