-- ==== Sys2Proof/Machine/Arrivals.lean ====
section
/-! DEFINITION. What other packages ask of this package's memory (05:R106, R107, R170), performed at once or once what holds it is over,
and the slices' own messages (05:R109). -/

namespace Sys2Proof.Machine

/-- The context number under which the package works for nobody: of the physical function, with no meter of its own (R434). -/
def nobody : Nat := 128 * 4096

/-- A request asks for more than a read. -/
def farWrites : RemoteOp → Bool
  | .read _ | .view _ _ _ => false
  | _ => true

/-- Some export entry admits a request (R106). -/
def State.admits (s : State) (r : RemoteReq) : Bool :=
  inHbm r.pa && s.exports.any fun e =>
    let w0 := e.1.toNat
    bitOf w0 0 && w0 / 2 ^ 52 == r.dom && decide (bitsOf w0 18 34 ≤ bitsOf r.pa 18 34 ∧ bitsOf r.pa 18 34 ≤ bitsOf e.2.toNat 18 34) &&
      (!farWrites r.op || bitOf w0 1)

/-- Bytes that a remote write leaves at their home, those of its mask; the fabric home owns the line from now on (R107). -/
def State.farStore (s : State) (pa : Nat) (bs : List Byte) (mask : Nat) : State :=
  let lo := pa % 128
  let s := { s with exportSt := s.exportSt.set (pa / 128) 2 }
  s.storeMasked (pa / 128) (mask % 2 ^ bs.length * 2 ^ lo % 2 ^ 128) (List.replicate lo 0 ++ bs)

/-- How far a request of another package has come: answered, held for the answer to a seal-record read (R170), or waiting for a line. -/
inductive Performed where
  | done
  | held
  | busy
  deriving DecidableEq, Repr

/-- An answer that carries an access fault's subtype (log 13, DESIGN CHOICE). -/
def State.denyFar (s : State) (r : RemoteReq) (sub : Nat) : State × Performed :=
  (s.reply .answer r.src r.tag r.pa 1 [] [BitVec.ofNat 8 sub], .done)

/-- The bytes of a read response (R103): of the whole line, or of the 32-byte sectors that hold the bytes read. -/
def answerSpan (pa n : Nat) : Span :=
  if n = 128 then ⟨pa / 128 * 128, 128⟩ else ⟨pa / 32 * 32, ceilDiv (pa % 32 + n) 32 * 32⟩

/-- A read of another package (R106, R170): the line's bytes; a tagged line is read for this request alone (R171), and a whole one is
followed by a byte that says so (log 13, DESIGN CHOICE). A poisoned half answers with the fault. A view's read leaves no copy, and one of a
page with CG = 0 returns the line in place (R171, R173). -/
def State.farRead (s : State) (r : RemoteReq) (n : Nat) (snap : Option Nat) (cg : Bool) : State × Performed :=
  let line := r.pa / 128
  let a := answerSpan r.pa n
  let (s, v, tagged) := if cg then (match snap with | some m => s.merge (BitVec.ofNat 64 m) | none => s).resolve 0 nobody (line * 128) [] snap
    else (s, .inPlace, true)
  let send := fun (s : State) (bs : List Byte) =>
    let s := s.l2Access 0 nobody a false
    (s.reply .answer r.src r.tag r.pa (ceilDiv (16 + bs.length) 59) [] (if tagged && bs.length == 128 then bs ++ [1] else bs), Performed.done)
  let whole := fun (s : State) (bs : List Byte) (bad : Nat) =>
    if spanBad (halfMask bad) (r.pa % 128) n then s.denyFar r 3 else send s ((bs.drop (a.pa % 128)).take a.n)
  match v with
  | .ask _ => (s, .held)
  | .busy => (s, .busy)
  | .lost => s.denyFar r 4
  | .expired => send s []
  | .prior bs bad => whole s bs bad
  | .inPlace =>
    let s := if tagged ∨ snap.isSome ∨ s.exportSt.getD line 0 ≠ 0 then s else { s with exportSt := s.exportSt.set line 1 }
    whole s (readBytes s.mem (line * 128) 128) (s.badHalves line)

/-- A write or atomic of another package (R107, R167), of the bytes of a mask: old bytes are answered to an atomic, nothing to a write. -/
def State.farChange (s : State) (r : RemoteReq) (n mask : Nat) (new : Nat → Nat) (answer : Bool) : State × Performed :=
  match s.writeGate 0 nobody (r.pa / 128 * 128) with
  | (s, .ask _) => (s, .held)
  | (s, .busy) => (s, .busy)
  | (s, .lost) => s.denyFar r 4
  | (s, .pending) => s.denyFar r 10
  | (s, .go) =>
    let s := s.l2Access 0 nobody ⟨r.pa, n⟩ true
    if answer && s.poisoned ⟨r.pa, n⟩ then s.denyFar r 3
    else
      let old := s.readNum r.pa n
      let s := s.farStore r.pa (toBytes n (new old)) mask
      (s.reply .answer r.src r.tag r.pa 1 [] (if answer then toBytes n old else []), .done)

/-- The runs of bytes that a mask names, each with its offset. -/
def maskRuns (mask : Nat) (data : List Byte) : List (Nat × List Byte) :=
  (List.range data.length).foldr (fun i rs =>
    if !bitOf mask i then rs
    else match rs with
      | (j, bs) :: rest => if j = i + 1 then (i, data.getD i 0 :: bs) :: rest else (i, [data.getD i 0]) :: rs
      | [] => [(i, [data.getD i 0])]) []

/-- The bytes of a consignment store of another package, run by run; the first that is not performed ends it. -/
def State.farCsg (csgid mrec midx pa : Nat) : List (Nat × List Byte) → State → State × CsgHome
  | [], s => (s, .done)
  | q :: qs, s =>
    match s.csgStore 0 nobody 128 csgid mrec midx (pa + q.1) q.2 with
    | (s, .done) => State.farCsg csgid mrec midx pa qs s
    | r => r

/-- An admitted request is performed (R106). Integer atomics are numbered as in R327, floating-point ones from 8 on as in R330, under the reset
FPMODE (log 13, DESIGN CHOICE). A consignment store leaves the line's export state, since its fabric home has dropped its copy before it
forwards the store (R165; log 174, DESIGN CHOICE beside R107). -/
def State.perform (s : State) (r : RemoteReq) : State × Performed :=
  match r.op with
  | .read n => s.farRead r n none true
  | .view n snap cg => s.farRead r n (some snap.toNat) cg
  | .write data mask => s.farChange r data.length mask (fun _ => fromBytes data) false
  | .atomic op wide sg v =>
    let n := if wide then 8 else 4
    s.farChange r n (2 ^ n - 1) (fun old =>
      if 8 ≤ op then (atomfOp (op - 8) 0x00040000 old v.toNat).v else atomOp op (8 * n) sg old v.toNat) true
  | .cas wide new cmp =>
    let n := if wide then 8 else 4
    s.farChange r n (2 ^ n - 1) (fun old => if old = cmp.toNat % 2 ^ (8 * n) then new.toNat else old) true
  | .stcsg csgid mrec midx data mask =>
    match State.farCsg csgid mrec midx r.pa (maskRuns mask data) s with
    | (s, .done) => (s.reply .answer r.src r.tag r.pa 1 [] [], .done)
    | (s, .conflict) => s.denyFar r 8
    | (s, .full) => s.denyFar r 9
    | (s, .lost) => s.denyFar r 4
    | (s, .ask _) => (s, .held)
    | (s, .busy) => (s, .busy)

/-- The oldest held request of a line that can now be performed. -/
def State.nextHeld (s : State) (line : Nat) : Option State :=
  (s.heldReqs.find? fun r => r.pa / 128 == line).bind fun r =>
    if s.asks.any (·.1 == line) then none
    else match s.perform r with
      | (t, .done) => some { t.unbilled s with heldReqs := t.heldReqs.erase r }
      | _ => none

/-- The first line with a held request that can now be performed, and that request performed. -/
def State.performHeld (s : State) : Option State := (s.heldReqs.map fun r => r.pa / 128).eraseDups.findSome? s.nextHeld

/-- The slices' own messages (R109): an invalidation or a recall not yet sent leaves for the line's fabric home, at no context's
charge (R103). -/
def State.sendExports (s : State) : Option State :=
  match s.exportInv.find? (!s.invSent.contains ·), s.recalls.search fun e => !e.2 with
  | some l, _ => some ({ s with invSent := s.invSent ++ [l] }.reply .invalidate s.pkgId l (l * 128) 1 [] [])
  | none, some e => some ({ s with recalls := s.recalls.set e.1 true }.reply .recall s.pkgId e.1 (e.1 * 128) 1 [] [])
  | none, none => none

end Sys2Proof.Machine
end

