-- ==== Sys2Proof/Machine/CrossLane.lean ====
section
/-! DEFINITION. The cross-lane instructions: major 0x2D (15:R345-R349). The members are the active lanes. -/

namespace Sys2Proof.Machine

/-- Cell size of CELL (R346): CELL 0 means 32 lanes. -/
def cellSize (k : Nat) : Nat := if k = 0 then 32 else 2 ^ k

/-- The lane a member reads in `shfl` (R346): modes fetch, slide, deal and send. `b` gives each lane's second operand. -/
def shflSource (mode cell : Nat) (members : List Nat) (b : Nat → Nat) (l : Nat) : Option Nat :=
  let cb := l / cell * cell
  let mine := members.filter fun m => m / cell * cell == cb
  match mode with
  | 0 => some (cb + b l % cell)
  | 1 =>
    let s : Int := l + sgn 6 (b l)
    if (cb : Int) ≤ s ∧ s < (cb + cell : Nat) then some s.toNat else none
  | 2 => mine[b l % 32]?
  | _ => (mine.filter fun m => cb + b m % cell == l).getLast?

/-- In scalar mode the one member reads itself (R459). -/
def execShfl (f : Fields) (s : State) : Out :=
  issueWith (.shfl f) f s fun c s =>
    let cell := cellSize (auxBits f 2 3)
    intEff c s 1 1 fun l =>
      match shflSource (auxBits f 0 2) cell c.act (c.b 1) l with
      | some m => if c.q.scalar then c.a 1 l else (c.g.thread m).reg f.vs0.toNat
      | none => if auxBit f 5 then 0 else c.a 1 l

/-- The members whose predicate, inverted by NEG, is true (R347). -/
def voters (c : Ctxt) : List Nat :=
  c.act.filter fun l => (c.g.thread l).pred c.f.vs0.toNat != auxBit c.f 2

/-- vote (R347): mask and count into a register, atleast and agree into a predicate. -/
def execVote (f : Fields) (s : State) : Out :=
  issueWith (.vote f) f s fun c s =>
    let v := voters c
    let t := v.length
    let n := c.act.length
    let k := auxBits f 4 6
    match auxBits f 0 2 with
    | 0 => intEff c s 1 1 fun _ => maskOf v
    | 1 => intEff c s 1 1 fun _ => t
    | 2 => .go (writePred (chargeLanes s c 1 1) c f.vd.toNat fun _ => if k = 33 then t == n else decide (k ≤ t)) []
    | _ => .go (writePred (chargeLanes s c 1 1) c f.vd.toNat fun _ => t == 0 || t == n) []

/-- TY of `red` and `scan`: AUX bits 4:3; OP in bits 2:0 (R348). -/
def redTy (f : Fields) : Nat := auxBits f 3 2

/-- One combination step (R348). -/
def redOp (ty op mode : Nat) (x y : Nat) : FR :=
  if ty = 2 then
    match op with
    | 0 => f32c.add mode 0 (f32c.read mode x) (f32c.read mode y)
    | 1 => flushed (f32c.pick mode false x y)
    | _ => flushed (f32c.pick mode true x y)
  else
    let v (n : Nat) : Int := if ty = 1 then sgn 32 n else n
    match op with
    | 0 => ⟨(x + y) % 2 ^ 32, 0⟩
    | 1 => ⟨if v y < v x then y else x, 0⟩
    | 2 => ⟨if v x < v y then y else x, 0⟩
    | 3 => ⟨x &&& y, 0⟩
    | 4 => ⟨x ||| y, 0⟩
    | _ => ⟨x ^^^ y, 0⟩
where
  /-- FP32. -/
  f32c : Fmt := fmtOf 0
  /-- Result flushing of a minimum or maximum (R348). -/
  flushed (r : FR) : FR :=
    if foz mode f32c.cls && f32c.subnormal r.v then ⟨f32c.signBit (bitOf r.v 31), r.fl ||| flUF ||| flIX⟩ else r

/-- The identity an exclusive scan gives its first member (R348). -/
def redIdentity (ty op : Nat) : Nat :=
  match ty, op with
  | 2, 0 => 0
  | 2, 1 => 0x7F800000
  | 2, _ => 0xFF800000
  | 1, 1 => 0x7FFFFFFF
  | 1, 2 => 0x80000000
  | _, 1 => 0xFFFFFFFF
  | _, 3 => 0xFFFFFFFF
  | _, _ => 0

/-- Inclusive prefixes in ascending lane order, with the flags of each step; the first is the member's own value with
input and result flushing and a NaN made canonical. -/
def prefixes (ty op mode : Nat) (vals : List Nat) : List FR :=
  match vals with
  | [] => []
  | v :: vs =>
    let first : FR := if ty = 2 then (fmtOf 0).convert mode 0 0 ((fmtOf 0).read mode v) else ⟨v, 0⟩
    vs.foldl (fun acc y => acc ++ [redOp ty op mode (acc.getLast?.getD ⟨0, 0⟩).v y]) [first]

/-- `red` and `scan` (R348). The flags are those of every combination step and of the first value's conversion, and every active lane
takes them, also for `.excl`, whose last step reaches no member (log 150, DESIGN CHOICE). -/
def redScan (i : Instr) (f : Fields) (s : State) (res : List FR → Nat → Nat → Nat) : Out :=
  issueWith i f s fun c s =>
    let ty := redTy f
    let ps := prefixes ty (auxBits f 0 3) c.mode (c.act.map (c.a 1 ·))
    let fl := ps.foldl (fun a r => a ||| r.fl) 0
    let e := if ty = 2 ∧ auxBits f 0 3 = 0 then 2 else 1
    floatEff c s 1 e 1 fun l => ⟨res ps (c.act.idxOf l) l, fl, c.seed l⟩

def execRed (f : Fields) (s : State) : Out :=
  redScan (.red f) f s fun ps _ _ => (ps.getLast?.getD ⟨0, 0⟩).v

def execScan (f : Fields) (s : State) : Out :=
  redScan (.scan f) f s fun ps j _ =>
    if auxBit f 5 then
      if j = 0 then redIdentity (redTy f) (auxBits f 0 3) else (ps.getD (j - 1) ⟨0, 0⟩).v
    else (ps.getD j ⟨0, 0⟩).v

/-- match (R349). -/
def execMatchLanes (f : Fields) (s : State) : Out :=
  issueWith (.matchLanes f) f s fun c s =>
    let n := if auxBit f 0 then 2 else 1
    intEff c s 1 1 fun l => maskOf (c.act.filter fun m => c.a n m == c.a n l)

/-- elect (R349). -/
def execElect (f : Fields) (s : State) : Out :=
  issueWith (.elect f) f s fun c s =>
    .go (writePred (chargeLanes s c 1 1) c f.vd.toNat fun l => l == c.low) []

end Sys2Proof.Machine
end

