-- ==== Sys2Proof/Machine/Jet.lean ====
section
/-! DEFINITION. The Taylor-jet instructions: majors 0x14 and 0x15 (13:R299-R310, 09:R228-R231). -/

namespace Sys2Proof.Machine

/-- Group size of an order (R229). -/
def jetG (k : Nat) : Nat := if k = 0 then 1 else if k = 1 then 2 else if k ≤ 3 then 4 else 8

/-- FP32. -/
abbrev f32 : Fmt := fmtOf 0
/-- +1.0. -/
def codeOne : Nat := 0x3F800000

/-- The result of an FP32 operation on codes whose inputs are already flushed (R301). -/
def jval (n : Nat) : FV := f32.decodeRaw 0 n

/-- w × x × y exactly (R301): none for a zero times an infinity. -/
def wprod (w : Int) (x y : Nat) : Option FV :=
  match mulExact (jval x) (jval y) with
  | none => none
  | some (.fin n m e) => some (.fin (n != decide (w < 0)) (m * w.natAbs) e)
  | some (.inf n) => some (.inf (n != decide (w < 0)))
  | some v => some v

/-- fmaw (R301): round(RNE, t + w × x × y). -/
def fmaw (mode : Nat) (t : Nat) (w : Int) (x y : Nat) : FR :=
  match wprod w x y with
  | none => f32.nanRes true
  | some p => f32.add mode 0 (jval t) p

/-- round(RNE, t ÷ (n × z)) (R301). An infinite numerator over a zero raises DZ, as R309 says of `jrcp` with a₀ = 0 (log 134, DEDUCED). -/
def quow (mode : Nat) (t n z : Nat) : FR :=
  let d := match jval z with
    | .fin s m e => .fin s (m * n) e
    | v => v
  let r := f32.div mode 0 0 (jval t) d
  match jval t, d with
  | .inf _, .fin _ 0 _ => ⟨r.v, r.fl ||| flDZ⟩
  | _, _ => r

/-- A running jet: coefficients so far, a second chain, and JFLAGS raised. -/
structure JAcc where
  cs : List Nat
  ws : List Nat
  fl : Nat
  deriving DecidableEq, Repr

/-- Flags of a rounding at coefficient `n` (R302). -/
def JAcc.at' (j : JAcc) (n : Nat) (r : FR) : JAcc := { j with fl := j.fl ||| (r.fl % 32) * 2 ^ (5 * n) }

/-- A sum of fmaw terms at coefficient `n`: the value and the flags. -/
def fmaSum (mode t : Nat) (terms : List (Int × Nat × Nat)) : FR :=
  terms.foldl (fun r x => let y := fmaw mode r.v x.1 x.2.1 x.2.2; ⟨y.v, r.fl ||| y.fl⟩) ⟨t, 0⟩

/-- A rounding after a sum, with the flags of both. -/
def thenQuo (mode : Nat) (r : FR) (n z : Nat) : FR := let q := quow mode r.v n z; ⟨q.v, r.fl ||| q.fl⟩

/-- Coefficient `i` of a list of codes. -/
def co (l : List Nat) (i : Nat) : Nat := l.getD i 0

/-- The coefficients `1` to `k` added one after another. -/
def series (k : Nat) (j : JAcc) (step : JAcc → Nat → FR) : JAcc :=
  (List.range k).foldl (fun j i => let r := step j (i + 1); { j.at' (i + 1) r with cs := j.cs ++ [r.v] }) j

/-- The indices 1 to n. -/
def upto (n : Nat) : List Nat := (List.range n).map (· + 1)

/-- A jet started from its first coefficient. -/
def startJet (r : FR) : JAcc := JAcc.at' ⟨[r.v], [], 0⟩ 0 r

/-- jrcp and jdiv (R309): the divisor's coefficients and the term the sum starts from. -/
def jetDiv (mode k : Nat) (num : Nat → Nat) (den : List Nat) (c0 : FR) : JAcc :=
  series k (startJet c0) fun j n =>
    thenQuo mode (fmaSum mode (num n) ((upto n).map fun (i : Nat) => (-1, co den i, co j.cs (n - i)))) 1 (co den 0)

/-- jsqrt (R309). -/
def jetSqrt (mode k : Nat) (a : List Nat) (c0 : FR) : JAcc :=
  series k (startJet c0) fun j n =>
    thenQuo mode (fmaSum mode (co a n) ((upto (n - 1)).map fun (i : Nat) => (-1, co j.cs i, co j.cs (n - i)))) 2 (co j.cs 0)

/-- jrsqrt (R309). -/
def jetRsqrt (mode k : Nat) (a : List Nat) (c0 : FR) : JAcc :=
  series k (startJet c0) fun j n =>
    thenQuo mode (fmaSum mode 0 ((upto n).map fun (i : Nat) => (Int.ofNat i - 2 * n, co a i, co j.cs (n - i)))) (2 * n) (co a 0)

/-- jexp (R309). -/
def jetExp (mode k : Nat) (a : List Nat) (c0 : FR) : JAcc :=
  series k (startJet c0) fun j n =>
    thenQuo mode (fmaSum mode 0 ((upto n).map fun (i : Nat) => (Int.ofNat i, co a i, co j.cs (n - i)))) n codeOne

/-- jlog (R309). -/
def jetLog (mode k : Nat) (a : List Nat) (c0 : FR) : JAcc :=
  series k (startJet c0) fun j n =>
    let t := f32.mul mode 0 (.fin false n 0) (jval (co a n))
    let r := fmaSum mode t.v ((upto (n - 1)).map fun (i : Nat) => (-Int.ofNat i, co j.cs i, co a (n - i)))
    thenQuo mode ⟨r.v, t.fl ||| r.fl⟩ n (co a 0)

/-- The coupled chains of jsin and jcos (R309): s in `cs`, q in `ws`. -/
def jetSinCos (mode k : Nat) (a : List Nat) (s0 q0 : FR) : JAcc :=
  (List.range k).foldl (fun j i =>
    let n := i + 1
    let t := thenQuo mode (fmaSum mode 0 ((upto n).map fun (i : Nat) => (Int.ofNat i, co a i, co j.ws (n - i)))) n codeOne
    let u := thenQuo mode (fmaSum mode 0 ((upto n).map fun (i : Nat) => (-Int.ofNat i, co a i, co j.cs (n - i)))) n codeOne
    { (j.at' n t).at' n u with cs := j.cs ++ [t.v], ws := j.ws ++ [u.v] })
    (JAcc.at' (JAcc.at' ⟨[s0.v], [q0.v], 0⟩ 0 s0) 0 q0)

/-- jtanh (R309): w_m belongs to coefficient m + 1. -/
def jetTanh (mode k : Nat) (a : List Nat) (c0 : FR) : JAcc :=
  let j := startJet c0
  let w0 := fmaw mode codeOne (-1) c0.v c0.v
  let j := if k = 0 then j else { j.at' 1 w0 with ws := [w0.v] }
  (List.range k).foldl (fun j i =>
    let n := i + 1
    let c := thenQuo mode (fmaSum mode 0 ((upto n).map fun (i : Nat) => (Int.ofNat i, co a i, co j.ws (n - i)))) n codeOne
    let j := { j.at' n c with cs := j.cs ++ [c.v] }
    if n < k then
      let w := fmaSum mode 0 ((List.range (n + 1)).map fun m => (-1, co j.cs m, co j.cs (n - m)))
      { j.at' (n + 1) w with ws := j.ws ++ [w.v] }
    else j) j

/-- A coefficient-wise rule (R307). -/
def jetMap (k : Nat) (op : Nat → FR) : JAcc :=
  (List.range (k + 1)).foldl (fun j n => let r := op n; { j.at' n r with cs := j.cs ++ [r.v] }) ⟨[], [], 0⟩

/-- jmul (R230). -/
def jetMul (mode k : Nat) (a b : List Nat) : JAcc :=
  jetMap k fun n =>
    let t := f32.mul mode 0 (jval (co a 0)) (jval (co b n))
    let r := fmaSum mode t.v ((upto n).map fun (i : Nat) => (1, co a i, co b (n - i)))
    ⟨r.v, t.fl ||| r.fl⟩

/-- jfma (R307). -/
def jetFma (mode k : Nat) (a b d : List Nat) : JAcc :=
  jetMap k fun n => fmaSum mode (co d n) ((List.range (n + 1)).map fun i => (1, co a i, co b (n - i)))

/-- n! for n to 7. -/
def fact : Nat → Nat
  | 0 => 1
  | n + 1 => (n + 1) * fact n

/-! ## Operands -/

/-- A jet group's traps by its base and size (R299 items 1 and 2). -/
def jetBaseBad (g : Nat) (r : BitVec 7) : Bool := r.toNat % g != 0
def jetSpanBad (u g : Nat) (r : BitVec 7) : Bool := u < r.toNat + g

/-- The jet operands of an instruction. -/
def jetRegs (sh : Shape) (f : Fields) : List (BitVec 7) :=
  (if sh.vd = .jet then [f.vd] else []) ++ (if sh.vs0 = .jet then [f.vs0] else []) ++
  (if sh.vs1 = .jet then [f.vs1] else []) ++ (if sh.third = .jet then [BitVec.ofNat 7 (auxBits f 4 7)] else [])

/-- The registers a plain source names in the threads of the issue (R299 item 3). -/
def plainRegs (c : Ctxt) (o : Opnd) (p : Perm) (r : BitVec 7) : List Nat :=
  if o = oneReg then
    match p with
    | .idx i k => c.q.lanes.map fun l => (c.g.thread l).winReg i.toNat k.toNat 0
    | _ => [r.toNat]
  else []

/-- R299 items 1 to 3: every one is an illegal-operand trap. -/
def jetBad (c : Ctxt) (sh : Shape) : Bool :=
  let g := jetG c.g.jord
  (jetRegs sh c.f).any (jetBaseBad g ·) || (jetRegs sh c.f).any (jetSpanBad c.g.usable g ·) ||
  (sh.vd == .jet &&
    (plainRegs c sh.vs0 c.f.perm0 c.f.vs0 ++ plainRegs c sh.vs1 c.f.perm1 c.f.vs1).any fun n =>
      c.f.vd.toNat ≤ n && n < c.f.vd.toNat + g)

/-- The coefficients 0 to k of a source group in a lane (R299, R300), flushed or raw. -/
def group (c : Ctxt) (p : Perm) (r : BitVec 7) (l : Nat) : List Nat :=
  (List.range (c.g.jord + 1)).map fun i => (c.g.thread (permLane c.q.scalar p l)).reg (r.toNat + i)

/-- A source coefficient after input flushing (R301). -/
def jflush (c : Ctxt) (l : List Nat) : List Nat := l.map (f32.flushIn c.mode ·)

/-- Group a, flushed. -/
def Ctxt.ja (c : Ctxt) (l : Nat) : List Nat := jflush c (group c c.f.perm0 c.f.vs0 l)
/-- Group b, flushed. -/
def Ctxt.jb (c : Ctxt) (l : Nat) : List Nat := jflush c (group c c.f.perm1 c.f.vs1 l)
/-- Group c, at identity, flushed. -/
def Ctxt.jc (c : Ctxt) (l : Nat) : List Nat := jflush c (group c .ident (BitVec.ofNat 7 (auxBits c.f 4 7)) l)

/-- The register contents of a group: coefficients 0 to k, +0.0 above (R229, R301). -/
def groupWord (k : Nat) (cs : List Nat) : Nat :=
  (List.range (k + 1)).foldl (fun a i => a + co cs i * 2 ^ (32 * i)) 0

/-- The destination group written in each active lane. -/
def writeGroup (c : Ctxt) (s : State) (cs : Nat → List Nat) : State :=
  writeRegs s c c.f.vd.toNat (jetG c.g.jord) fun l => groupWord c.g.jord (cs l)

/-- A jet instruction that only moves bits (R303, R305). -/
def jetMove (i : Instr) (f : Fields) (s : State) (extra : Ctxt → Bool) (cs : Ctxt → Nat → List Nat) : Out :=
  issueWith i f s fun c s =>
    if jetBad c (shape i) || extra c then .trap (trapOf clsIllegalOperand c.act)
    else .go (writeGroup c (chargeLanes s c 1 1) (cs c)) []

/-- What a jet instruction with `p` roundings and `sf` special-function evaluations holds (R304): the row's floating-point pipe, or the
special-function unit where it evaluates functions. -/
def jetHold (s : State) (q : Issue) (p sf : Nat) : State :=
  if sf = 0 then fpHeld s q (Nat.max 1 p) else sfuServed s q (Nat.max 1 (p + sf))

/-- A jet instruction that computes: `p` roundings at entry `e`, `sf` special-function evaluations (R303). -/
def jetEff (i : Instr) (f : Fields) (s : State) (e : Nat) (p sf : Nat → Nat) (res : Ctxt → Nat → JAcc) : Out :=
  issueWith i f s fun c s =>
    if jetBad c (shape i) then .trap (trapOf clsIllegalOperand c.act)
    else
      let k := c.g.jord
      let s := chargeLanes (jetHold s c.q (p k) (sf k)) c e (p k)
      let s := if sf k = 0 then s else chargeLanes s c 6 (sf k)
      endJFlags c (writeGroup c s fun l => (res c l).cs) fun l => (res c l).fl

/-! ## Major 0x14 -/

def execJord (f : Fields) (s : State) : Out :=
  issueWith (.jord f) f s fun c s =>
    let s := chargeLanes s c 1 1
    .go (if c.act = [] then s else s.updIss c.q fun g => { g with jord := immU f }) []

def execJseed (f : Fields) (s : State) : Out :=
  jetMove (.jseed f) f s (fun _ => false) fun c l =>
    [c.a 1 l, if auxBit f 0 then codeOne else c.b 1 l]

def execJget (f : Fields) (s : State) : Out :=
  issueWith (.jget f) f s fun c s =>
    if jetBad c (shape (.jget f)) then .trap (trapOf clsIllegalOperand c.act)
    else intEff c s 1 1 fun l => if immU f ≤ c.g.jord then co (group c f.perm0 f.vs0 l) (immU f) else 0

def execJput (f : Fields) (s : State) : Out :=
  jetMove (.jput f) f s (fun c => c.g.jord < immU f) fun c l =>
    (group c .ident f.vd l).set (immU f) (c.a 1 l)

def execJzero (f : Fields) (s : State) : Out := jetMove (.jzero f) f s (fun _ => false) fun _ _ => []

def execJadd (f : Fields) (s : State) : Out :=
  jetEff (.jadd f) f s 2 (· + 1) (fun _ => 0) fun c l =>
    jetMap c.g.jord fun n => f32.add c.mode 0 (jval (co (c.ja l) n)) (jval (co (c.jb l) n))

def execJsub (f : Fields) (s : State) : Out :=
  jetEff (.jsub f) f s 2 (· + 1) (fun _ => 0) fun c l =>
    jetMap c.g.jord fun n => f32.add c.mode 0 (jval (co (c.ja l) n)) (jval (co (c.jb l) n)).negate

/-- Products of a Cauchy product: (k + 1)(k + 2) ÷ 2 (R303). -/
def cauchy (k : Nat) : Nat := (k + 1) * (k + 2) / 2

def execJmul (f : Fields) (s : State) : Out :=
  jetEff (.jmul f) f s 7 cauchy (fun _ => 0) fun c l => jetMul c.mode c.g.jord (c.ja l) (c.jb l)

def execJfma (f : Fields) (s : State) : Out :=
  jetEff (.jfma f) f s 7 cauchy (fun _ => 0) fun c l => jetFma c.mode c.g.jord (c.ja l) (c.jb l) (c.jc l)

def execJscale (f : Fields) (s : State) : Out :=
  jetEff (.jscale f) f s 7 (· + 1) (fun _ => 0) fun c l =>
    jetMap c.g.jord fun n => f32.mul c.mode 0 (jval (co (c.ja l) n)) (f32.read c.mode (c.b 1 l))

def execJshift (f : Fields) (s : State) : Out :=
  jetMove (.jshift f) f s (fun _ => false) fun c l =>
    let a := group c f.perm0 f.vs0 l
    (List.range (c.g.jord + 1)).map fun (n : Nat) =>
      let i := Int.ofNat n + immS f
      if 0 ≤ i ∧ i ≤ c.g.jord then co a i.toNat else 0

def execJdfac (f : Fields) (s : State) : Out :=
  jetEff (.jdfac f) f s 7 (· + 1) (fun _ => 0) fun c l =>
    jetMap c.g.jord fun n =>
      let x := jval (co (c.ja l) n)
      if auxBit f 0 then f32.div c.mode 0 0 x (.fin false (fact n) 0) else f32.mul c.mode 0 x (.fin false (fact n) 0)

def execJflg (f : Fields) (s : State) : Out :=
  issueWith (.jflg f) f s fun c s =>
    let s := writeRegs (chargeLanes s c 1 1) c f.vd.toNat 2 fun _ => c.g.jflags
    .go (if c.act = [] ∨ auxBit f 0 = false then s
      else s.updIss c.q fun g => { g with jflags := g.jflags &&& notBits 40 (c.a 2 c.low) }) []

/-! ## Major 0x15 -/

/-- Roundings of the division-like rules: k(k + 1) ÷ 2 + k (R303). -/
def seriesP (k : Nat) : Nat := k * (k + 1) / 2 + k

/-- A series rule on one group. -/
def jetFn (i : Instr) (f : Fields) (s : State) (p : Nat → Nat) (sf : Nat) (res : Nat → Nat → List Nat → JAcc) : Out :=
  jetEff i f s 7 p (fun _ => sf) fun c l => res c.mode c.g.jord (c.ja l)

def execJdiv (f : Fields) (s : State) : Out :=
  jetEff (.jdiv f) f s 7 seriesP (fun _ => 1) fun c l =>
    let a := c.ja l
    let b := c.jb l
    jetDiv c.mode c.g.jord (co a) b (f32.div c.mode 0 0 (jval (co a 0)) (jval (co b 0)))

def execJrcp (f : Fields) (s : State) : Out :=
  jetFn (.jrcp f) f s seriesP 1 fun md k a => jetDiv md k (fun _ => 0) a (f32.rcpFn md 0 (co a 0))
def execJsqrt (f : Fields) (s : State) : Out :=
  jetFn (.jsqrt f) f s (fun k => k * (k + 1) / 2) 1 fun md k a => jetSqrt md k a (f32.sqrtFn md 0 (co a 0))
def execJrsqrt (f : Fields) (s : State) : Out :=
  jetFn (.jrsqrt f) f s seriesP 1 fun md k a => jetRsqrt md k a (f32.rsqrtFn md (co a 0))
def execJexp (f : Fields) (s : State) : Out :=
  jetFn (.jexp f) f s seriesP 1 fun md k a => jetExp md k a (f32.expFn md 0 true 2 (co a 0))
def execJlog (f : Fields) (s : State) : Out :=
  jetFn (.jlog f) f s seriesP 1 fun md k a => jetLog md k a (f32.logFn md true 2 (co a 0))

/-- Roundings of the coupled chains: k(k + 1) + 2k. -/
def sinCosP (k : Nat) : Nat := k * (k + 1) + 2 * k

/-- Both chains of the sine and cosine of a group. -/
def jetTrig (md k : Nat) (a : List Nat) : JAcc :=
  jetSinCos md k a (f32.trigFn md false 2 (co a 0)) (f32.trigFn md true 2 (co a 0))

def execJsin (f : Fields) (s : State) : Out := jetFn (.jsin f) f s sinCosP 2 jetTrig
def execJcos (f : Fields) (s : State) : Out :=
  jetFn (.jcos f) f s sinCosP 2 fun md k a => let j := jetTrig md k a; { j with cs := j.ws }
def execJtanh (f : Fields) (s : State) : Out :=
  jetFn (.jtanh f) f s (fun k => k * (k + 2)) 1 fun md k a => jetTanh md k a (f32.oddFn md false 2 (co a 0))

end Sys2Proof.Machine
end

