-- ==== Sys2Proof/Machine/Frontend.lean ====
section
/-! DEFINITION. The front end: clause headers (10:R233-R237), eligibility (08:R195), meeting release (08:R198, 15:R340), the
pick of a gang (18:R416, 08:R200) and of its instructions (08:R196, R197), and the fate of a refused word (10:R245). -/

namespace Sys2Proof.Machine

/-! ## Waiting -/

/-- A live request. -/
def State.isLive (s : State) (f q : Nat) : Bool := (s.func f).live.any (·.seq == q)

/-- The wait on a page request is over: the request was answered, or one can be raised at last. -/
def State.reqOver (s : State) (p x : Nat) : Option (Nat × Nat) → Bool
  | some (f, q) => !s.isLive f q
  | none => s.canRaise p x

/-- What a thread waits for has come about (R195). -/
def State.waitOver (s : State) (cl slot : Nat) (g : Gang) (t : Thread) : Bool :=
  let k := s.cluster cl
  match t.wait with
  | none => true
  | some (.counter c n) => decide (g.count (ctrOf c) ≤ n)
  | some (.yield _ till) | some (.sleep till) => decide (till ≤ s.cycles)
  | some (.fifoData b) => (k.fifos.getD b ⟨none, 0, 0⟩).fill != 0 || k.mode b != 2
  | some (.fifoRoom b) => (k.fifos.getD b ⟨none, 0, 0⟩).fill != 512 || k.mode b != 2
  | some (.rowQueue q) => (k.rowqs.getD q (none, [])).2 != []
  | some (.phase off tok) =>
    match k.blocks.find? g.blk with
    | some b => (k.bar (b.sbase + off)).phase != tok
    | none => true
  | some (.group i ph) => ((s.ctx g.ctx).groups.getD i ⟨0, 0, 0⟩).phase != ph
  | some (.grid ph) => match s.launches.find? (g.blk / 2 ^ 32) with | some n => n.phase != ph | none => true
  | some (.ops ids) => g.ops.all fun o => !ids.contains o.id || o.complete || (o.lanes != [] && o.lanes.all (·.st == .done))
  | some (.fenceSc ..) => false
  | some .exported => s.exportInv == []
  | some (.flushing all) => if all then g.flushed else t.hostWrote.isNone
  | some (.rows first n) => !k.rowsBusy slot first n
  | some (.writeback r _) => s.reqOver (partOf cl) g.ctx r
  | some (.record line) => s.answers.any (·.line == line) || s.asks.all (·.1 != line)
  | some (.fetch r _ _) => s.reqOver (partOf cl) g.ctx r
  | some .full => [Ctr.ld, .st, .cp, .mx, .ch, .rm].all fun c => decide (g.count c < 63)
  | some (.retry till) => decide (till ≤ s.cycles)
  | some (.slot cs) => decide ((g.slotAt cs).st ≤ 1)

/-- A gang issues: nothing stops it (R438, R456, R462). -/
def State.running (s : State) (g : Gang) : Bool :=
  !g.halt && !g.tstop && !g.pstop && !g.estop && !(s.ctx g.ctx).stopped

/-- A thread whose PC equals its MR is held (R198). -/
def Thread.held (t : Thread) : Bool := t.pc == t.mr && t.mr != BitVec.allOnes 64

/-- The words of a thread's clause from its PC on. -/
def Thread.words (t : Thread) : List Word :=
  match t.clause with
  | none => []
  | some c => c.words.drop ((t.pc - c.hdr).toNat / 4)

/-- An operand's registers are settled in the lane it is read from (R195, R206). Of a jet source the coefficients 0 to k are waited
for, of a jet destination the whole group (R299). -/
def settledOpnd (g : Gang) (scalar dest : Bool) (l : Nat) (o : Opnd) (p : Perm) (r : BitVec 7) : Bool :=
  let n := match o with
    | .block n => n
    | .jet => if dest then jetG g.jord else g.jord + 1
    | o => match opndRegs g.jord o with | some x => x.1 | none => 0
  let t := g.thread (permLane scalar p l)
  let first := match p with | .idx i k => t.winReg i.toNat k.toNat 0 | _ => r.toNat
  (List.range n).all fun j => !t.unsettled.has (first + j)

/-- Registers that an instruction finds by a value are settled: the window register of `xmov` (R275), and the register that `shfl`
reads in another lane (R206, R346). -/
def settledFound (g : Gang) (scalar : Bool) (l : Nat) (i : Instr) : Bool :=
  match i with
  | .xmov f => !(g.thread l).unsettled.has (xmovReg f (g.thread l))
  | .shfl f =>
    scalar || decide (2 ≤ auxBits f 0 2) ||
      match shflSource (auxBits f 0 2) (cellSize (auxBits f 2 3)) [] (fun m => (g.thread m).reg f.vs1.toNat) l with
      | some m => !(g.thread m).unsettled.has f.vs0.toNat
      | none => true
  | _ => true

/-- Every source and the destination of an instruction are settled for a lane (R195). -/
def settled (g : Gang) (scalar : Bool) (l : Nat) (i : Instr) : Bool :=
  match fieldsOf i with
  | none => true
  | some f =>
    let sh := shape i
    settledOpnd g scalar true l sh.vd .ident f.vd && settledOpnd g scalar false l sh.vs0 f.perm0 f.vs0 &&
      settledOpnd g scalar false l sh.vs1 f.perm1 f.vs1 && settledOpnd g scalar false l sh.third .ident (BitVec.ofNat 7 (auxBits f 4 7)) &&
      settledFound g scalar l i &&
      ((if f.guard.en then [f.guard.pred.toNat] else []) ++ sh.preds).all fun p => !(g.thread l).unsettledP.has p

/-- A thread is eligible (R195). -/
def State.eligible (s : State) (cl slot : Nat) (g : Gang) (l : Nat) : Bool :=
  let t := g.thread l
  t.live && !t.held && !t.wake && t.clause.isSome && s.waitOver cl slot g t &&
    match decode t.words with
    | .ok (i, _) => settled g (slot == handlerSlot) l i
    | .error _ => true

/-- The partition's clocks run: they pause while a transition switches them (R442). -/
def State.clocked (s : State) (cl : Nat) : Bool := (s.part (partOf cl)).phase != 3

/-- The eligible threads of a gang, in lane order; none while the gang is stopped or its clocks pause. -/
def State.eligibles (s : State) (cl slot : Nat) (g : Gang) : List Nat :=
  if s.running g && s.clocked cl then g.liveLanes.filter (s.eligible cl slot g) else []

/-! ## Issue -/

/-- Drop the issue at the head of the selected ones. -/
def State.dropSel (s : State) : State := { s with sels := s.sels.tail }

/-! ## Breakpoints (R467-R470) -/

/-- The comparison of a breakpoint. -/
def lbpCmp (cmp : Nat) (v imm : Nat) : Bool :=
  match cmp with
  | 0 => v == imm
  | 1 => v != imm
  | 2 => v < imm
  | 3 => imm ≤ v
  | 4 => sgn 32 v < sgn 32 imm
  | 5 => sgn 32 imm ≤ sgn 32 v
  | 6 => v &&& imm != 0
  | _ => true

/-- The active lanes that meet a breakpoint's comparison (R468). -/
def lbpHits (g : Gang) (ctl : Nat) (act : List Nat) : List Nat :=
  let cmp := bitsOf ctl 9 3
  let reg := bitsOf ctl 12 8
  act.filter fun l =>
    let t := g.thread l
    cmp == 7 ||
      (if reg < 128 then decide (reg < g.usable) && lbpCmp cmp (t.reg reg) (bitsOf ctl 32 32)
       else decide (reg < 136) && lbpCmp cmp (b2n (t.pred (reg - 128))) (bitsOf ctl 32 32))

/-- A breakpoint is enabled at an address for a context (R468, R490): one written through a function's view judges that
function's contexts alone. -/
def lbpAt (b : DWord × DWord × Nat) (a : DWord) (x : Nat) : Bool :=
  bitOf b.2.1.toNat 0 && b.1.toNat / 4 == a.toNat / 4 && bitsOf b.2.1.toNat 20 12 == x % 4096 &&
    (b.2.2 == 128 || b.2.2 == x / 4096)

/-- The register of a breakpoint is settled in the active lanes. -/
def lbpSettled (g : Gang) (ctl : Nat) (act : List Nat) : Bool :=
  let reg := bitsOf ctl 12 8
  bitsOf ctl 9 3 == 7 || act.all fun l =>
    if reg < 128 then !(g.thread l).unsettled.has reg else !(g.thread l).unsettledP.has (reg - 128)

/-- A comparator matches an issue of a gang (R470). -/
def State.pccAt (s : State) (k : Cluster) (b : DWord × DWord) (g : Gang) (a : DWord) : Bool :=
  let c := b.2.toNat
  let vf := bitsOf c 24 8
  bitOf c 0 && b.1.toNat / 4 == a.toNat / 4 && (if vf = 255 then 128 else vf) == g.ctx / 4096 && (decide (vf < 128) || vf == 255) &&
    (match s.launches.find? (g.blk / 2 ^ 32) with | some n => bitOf c (48 + n.queue) | none => false) &&
    (bitsOf c 32 8 == 0 ||
      (((k.blocks.find? g.blk).map (·.groups)).getD []).any fun i => i &&& bitsOf c 32 8 == bitsOf c 40 8 &&& bitsOf c 32 8)

/-- How a selected issue goes on. -/
inductive Sel where
  /-- It runs an instruction. -/
  | run (i : Instr) (s : State)
  /-- A breakpoint stopped its gang. -/
  | halt (s : State)
  /-- Nothing of it issues. -/
  | drop
  deriving DecidableEq, Repr

/-- The judgement of an issue against the comparators, then the breakpoints (R468): `none` lets it issue. -/
def State.judgeBreak (s : State) (q : Issue) (g : Gang) (act : List Nat) : Option Sel :=
  let k := s.cluster q.cl
  let stop := fun (k : Cluster → Cluster) (arg : Nat) (hits : List Nat) =>
    Sel.halt (trapIssue (s.updCluster q.cl k) q
      { cls := clsBreakpoint, arg, pc := q.addr, iaddr := q.addr, lanemask := maskOf hits, actmask := maskOf act })
  if q.scalar ∨ g.exempt = some q.addr then none
  else
    match k.pcc.search fun b => s.pccAt k b.2 g q.addr with
    | some b => some (stop (fun k => { k with pcc := k.pcc.adjust b.1 fun w => (w.1, w.2 ||| 2) }) (0x90 + b.1) act)
    | none =>
      let here := k.lbp.filter fun b => lbpAt b.2 q.addr g.ctx
      match FMap.search here fun b =>
          let hits := lbpHits g b.2.2.1.toNat act
          !lbpSettled g b.2.2.1.toNat act || (if bitOf b.2.2.1.toNat 8 then !act.isEmpty && hits == act else !hits.isEmpty) with
      | none => none
      | some b =>
        if !lbpSettled g b.2.2.1.toNat act then some .drop
        else some (stop (fun k => { k with lbp := k.lbp.adjust b.1 fun w => (w.1, w.2.1 ||| 2, w.2.2) }) (0x80 + b.1)
          (lbpHits g b.2.2.1.toNat act))

/-- What the selected issue runs: its threads that are still eligible at its address, and the instruction their clause holds
there, once no breakpoint stops it (R468); a refused word runs as the illegal-instruction trap (R245). -/
def State.select (s : State) (q : Issue) : Sel :=
  match s.issGang? q with
  | none => .drop
  | some g =>
    match q.lanes.filter fun l => (g.thread l).pc == q.addr && (s.eligibles q.cl q.gangSlot g).contains l with
    | [] => .drop
    | l :: ls =>
      let ws := (g.thread l).words
      let ls := ls.filter fun m => (g.thread m).words == ws
      let d := match decode ws with | .ok (i, _) => some i | .error _ => none
      let act := match d.bind fieldsOf with
        | some f => (l :: ls).filter fun m => guardTrue f (g.thread m)
        | none => l :: ls
      let q := { q with lanes := l :: ls }
      match s.dropSel.judgeBreak q g act with
      | some r => r
      | none =>
        let s := { s.dropSel with cur := some q }
        let s := if g.exempt = some q.addr then s.updIss q fun g => { g with exempt := none } else s
        match d with
        | some i => .run i s
        | none => .run .illegalInstruction s

/-- The trap of a word that is refused (R245): the gang stops with the PC on it, nothing performed, nothing charged. -/
def execIllegalInstruction (s : State) : Out :=
  match s.cur with
  | none => .fault .noIssue
  | some q =>
    .next (trapIssue { s with cur := none } q
      { cls := clsIllegalInstr, pc := q.addr, iaddr := q.addr, lanemask := maskOf q.lanes, actmask := maskOf q.lanes })

/-! ## The pick (R196, R197, R200, R416) -/

/-- The engine class of a thread's clause. -/
def Thread.ec (t : Thread) : Nat :=
  match t.clause with
  | some c => bitsOf (c.words.headD 0).toNat 24 4
  | none => 0

/-- The least of some addresses. -/
def leastPc : List DWord → Option DWord
  | [] => none
  | a :: r => match leastPc r with | none => some a | some b => some (if a.toNat ≤ b.toNat then a else b)

/-- A thread has been passed over 32 times (R200). -/
def Thread.starved (t : Thread) : Bool := decide (32 ≤ t.passed)

/-- The issues of a picked gang: port A at the lowest PC, or at the lowest PC of a thread passed over 32 times; port B at the
lowest other PC when its class is 0 or differs from port A's. -/
def issuesOf (cl slot : Nat) (g : Gang) (es : List Nat) : List Issue :=
  let pc := fun l => (g.thread l).pc
  let starved := leastPc ((es.filter fun l => (g.thread l).starved).map pc)
  match (match starved with | some a => some a | none => leastPc (es.map pc)) with
  | none => []
  | some a =>
    let la := es.filter fun l => pc l == a
    let mk := fun b addr lanes => ({ cl, slot, portB := b, addr, lanes, scalar := slot == handlerSlot } : Issue)
    let ca := (g.thread (la.headD 0)).ec
    match leastPc ((es.filter fun l => pc l != a).map pc) with
    | none => [mk false a la]
    | some b =>
      let lb := es.filter fun l => pc l == b
      let cb := (g.thread (lb.headD 0)).ec
      if cb = 0 ∨ cb ≠ ca then [mk false a la, mk true b lb] else [mk false a la]

/-- The picked gang's counts: eligible threads that do not issue are passed over once more; a thread that is not eligible starts
again (R200). -/
def Gang.picks (g : Gang) (cycle : Nat) (es : List Nat) (is : List Issue) : Gang :=
  ({ g with picked := cycle } : Gang).updLanes (List.range g.threads.length) fun l t =>
    { t with passed := if es.contains l && !is.any (·.lanes.contains l) then t.passed + 1 else 0 }

/-- A thread's next instruction needs the special-function unit: major 0x12, and the jet functions (R296, R303). -/
def Thread.wantsSfu (t : Thread) : Bool :=
  match t.words with
  | w :: _ => majorOf w == 0x12 || majorOf w == 0x15
  | [] => false

/-- A thread's next instruction needs the row's floating-point pipe: majors 0x10 and 0x11, and the jet instructions with roundings (R303,
R304; log 177, DEDUCED). -/
def Thread.wantsFp (t : Thread) : Bool :=
  match t.words with
  | w :: _ => majorOf w == 0x10 || majorOf w == 0x11 || (majorOf w == 0x14 && [5, 6, 7, 8, 9, 11].contains (minorOf w))
  | [] => false

/-- The gangs of a lane row with their eligible threads. Row 4 is the control core's handler. -/
def State.ready (s : State) (cl row : Nat) : List (Nat × Gang × List Nat) :=
  let gs := if row = 4 then (match (s.cluster cl).handler with
      | some h => if h.verdict.isNone then [(handlerSlot, h.gang)] else []
      | none => [])
    else (s.cluster cl).gangs.filter fun g => g.1 < 64 && g.1 / 16 == row
  gs.filterMap fun g => match s.eligibles cl g.1 g.2 with
    | [] => none
    | es => some (g.1, g.2, es)

/-- The special-function unit can serve a lane row: it is free, and no row that comes before it in rotation, after the row served
last, has an instruction for it ready (R296; log 133, DEDUCED). -/
def State.sfuFree (s : State) (cl row : Nat) : Bool :=
  let k := s.cluster cl
  decide (k.sfuTill ≤ s.cycles) &&
    (List.range ((row + 3 - k.sfuRow) % 4)).all fun i =>
      (s.ready cl ((k.sfuRow + 1 + i) % 4)).all fun c => c.2.2.all fun l => !(c.2.1.thread l).wantsSfu

/-- A unit of a lane row can take the instructions that want it: `free` says that it is free. While a starved thread of the row wants it,
only starved ones may have it, so that none keeps waiting behind others (R200). -/
def unitOpen (cs : List (Nat × Gang × List Nat)) (wants : Thread → Bool) (free : Bool) (t : Thread) : Bool :=
  !wants t || (free && (t.starved || !cs.any fun c => c.2.2.any fun l => wants (c.2.1.thread l) && (c.2.1.thread l).starved))

/-- The gangs of a lane row that have an eligible thread, with those of them that the row's units can take in this cycle (R296,
R304). A trial's delay is judged by the pick (R480). -/
def State.candidates (s : State) (cl row : Nat) : List (Nat × Gang × List Nat) :=
  let cs := s.ready cl row
  let any := fun (w : Thread → Bool) => cs.any fun c => c.2.2.any fun l => w (c.2.1.thread l)
  if row = 4 ∨ (!any Thread.wantsSfu && !any Thread.wantsFp) = true then cs
  else
    let sfu := !any Thread.wantsSfu || s.sfuFree cl row
    let fp := decide ((s.cluster cl).fpTill.getD row 0 ≤ s.cycles)
    cs.filterMap fun c =>
      match c.2.2.filter fun l => unitOpen cs Thread.wantsSfu sfu (c.2.1.thread l) && unitOpen cs Thread.wantsFp fp (c.2.1.thread l) with
      | [] => none
      | es => some (c.1, c.2.1, es)

/-- The overdue gang that has waited longest (R200); ties go to the lower slot. -/
def overdue (cycle : Nat) : List (Nat × Gang × List Nat) → Option (Nat × Gang × List Nat)
  | [] => none
  | c :: cs =>
    match overdue cycle cs with
    | none => if 64 ≤ cycle - c.2.1.picked then some c else none
    | some d => if 64 ≤ cycle - c.2.1.picked ∧ c.2.1.picked ≤ d.2.1.picked then some c else some d

/-- The gang with the smallest RSB, the first at or after the rotating pointer (R416). -/
def leastRsb (ptr : Nat) : List (Nat × Gang × List Nat) → Option (Nat × Gang × List Nat)
  | [] => none
  | c :: cs =>
    match leastRsb ptr cs with
    | none => some c
    | some d =>
      let key := fun (x : Nat × Gang × List Nat) => x.2.1.rsb * 16 + (x.1 % 16 + 16 - ptr) % 16
      some (if key c ≤ key d then c else d)

/-- A gang picked: its issues are selected, and the row's pointer moves behind it. A thread that waits for a unit is passed over like any
other eligible one (R200). -/
def State.pick (s : State) (cl row : Nat) (c : Nat × Gang × List Nat) : State :=
  let is := issuesOf cl c.1 c.2.1 c.2.2
  let s := s.updGang cl c.1 fun g => g.picks s.cycles (s.eligibles cl c.1 c.2.1) is
  let s := if row = 4 then s else s.updCluster cl fun k => { k with ptr := k.ptr.set row ((c.1 + 1) % 16) }
  { s with sels := s.sels ++ is }

/-- The gang that a lane row picks in a cycle (R416). -/
def State.choice (s : State) (cl row : Nat) : Option (Nat × Gang × List Nat) :=
  let cs := (s.candidates cl row).filter fun c => c.2.1.delayed ≤ s.cycles
  match overdue s.cycles cs with
  | some c => some c
  | none => leastRsb ((s.cluster cl).ptr.getD row 0) cs

/-- The pick of one lane row in one cycle (R416). -/
def State.pickRow (s : State) (cl row : Nat) : Option State := (s.choice cl row).map (s.pick cl row)

/-- STARVATION_OVERRIDE (R200): the overdue gang of a row is picked; without one nothing happens. -/
def execStarvationOverride (cl row : Nat) (s : State) : Out :=
  .next <| match overdue s.cycles ((s.candidates cl row).filter fun c => c.2.1.delayed ≤ s.cycles) with
    | some c => s.pick cl row c
    | none => s

/-- PC_OVERRIDE (R200): at the pick of a gang with a thread passed over 32 times that thread's PC issues on port A. The override chooses
the PC; which gang is picked stays as R416 has it. -/
def execPcOverride (cl slot : Nat) (s : State) : Out :=
  let row := if slot = handlerSlot then 4 else slot / 16
  .next <| match s.choice cl row with
    | some c => if c.1 = slot ∧ (c.2.2.any fun l => (c.2.1.thread l).starved) = true then s.pick cl row c else s
    | none => s

/-- YIELD_EXPIRY (R344). -/
def execYieldExpiry (cl slot lane : Nat) (s : State) : Out :=
  .next <| s.updGang cl slot (·.updThread lane fun t => match t.wait with
    | some (.yield _ till) => if till ≤ s.cycles then { t with wait := none } else t
    | _ => t)

/-- SLEEP_EXPIRY (R396). -/
def execSleepExpiry (cl slot lane : Nat) (s : State) : Out :=
  .next <| s.updGang cl slot (·.updThread lane fun t => match t.wait with
    | some (.sleep till) => if till ≤ s.cycles then { t with wait := none } else t
    | _ => t)

/-! ## Meeting release -/

/-- The address of a held group that is complete (R198) and may be released in a cycle (R340). -/
def Gang.meeting (g : Gang) (cycle : Nat) : Option DWord :=
  (g.liveLanes.find? fun l =>
    (g.thread l).held && g.liveLanes.all fun m =>
      (g.thread m).mr != (g.thread l).mr || ((g.thread m).held && decide ((g.thread m).heldTill ≤ cycle))).map
    fun l => (g.thread l).mr

/-- What a released thread does with its top entry (R340). -/
def Thread.release (t : Thread) (u : Nat) (entry : DWord) : Thread :=
  let ones := BitVec.allOnes 64
  match (if t.scnt = 0 then none else some (t.reg (u + t.scnt - 1))) with
  | none => { t with mr := ones }
  | some n =>
    if n / 2 ^ 30 = 1 then { t with scnt := t.scnt - 1, mr := entry + BitVec.ofInt 64 (4 * sgn 30 n) }
    else if n / 2 ^ 30 = 2 then { t with scnt := t.scnt - 1, mr := ones }
    else { t with mr := ones }

/-- The group at a meeting point is released together. A popped MR equal to the point holds a thread there again, until the next
cycle, whose release pops the next entry (R340). -/
def Gang.releaseAt (g : Gang) (m : DWord) (cycle : Nat) : Gang :=
  g.updLanes (g.liveLanes.filter fun l => (g.thread l).mr == m) fun _ t => { t.release g.usable g.entry with heldTill := cycle + 1 }

/-! ## Clause headers (R234, R236) -/

/-- The walk over a clause's words: an illegal clause, or not. `n` instructions have been counted. -/
def clauseBad (ec count : Nat) : Nat → Nat → List Word → Bool
  | 0, _, _ => true
  | fuel + 1, n, ws =>
    match ws with
    | [] => n != count
    | w :: _ =>
      if n = count then true
      else
        let assigned := minorOf w < minorCount (majorOf w)
        if assigned && classOf (majorOf w) (minorOf w) != ec then true
        else if assigned && isTransfer (majorOf w) (minorOf w) && n + 1 != count then true
        else
          let len := lengthOf w
          if ws.length < len then true else clauseBad ec count fuel (n + 1) (ws.drop len)

/-- The header's own fields (R234). -/
def headerBad (h : Word) : Bool :=
  let n := h.toNat
  bitsOf n 28 4 != 0b1011 || 6 < bitsOf n 24 4 || 6 < bitsOf n 10 4 || bitsOf n 0 5 != 0 ||
    bitsOf n 18 6 == 0 || 45 < bitsOf n 18 6 || bitsOf n 14 4 == 0 || (bitsOf n 10 4 == 0 && bitsOf n 5 5 != 0)

/-- A class outside the role's engine set (R188); a handler has none of the three (R459). -/
def roleBad (g : Gang) (scalar : Bool) (ec : Nat) : Bool :=
  (ec == 3 && (scalar || !g.mx)) || (ec == 4 && (scalar || !g.cp)) || (ec == 5 && (scalar || !g.ch))

/-- A thread may try to pass a header: it is live, at a header, not held, its gang runs, and it waits for nothing. -/
def State.atHeader (s : State) (cl slot : Nat) (g : Gang) (l : Nat) : Bool :=
  let t := g.thread l
  s.running g && s.clocked cl && t.live && t.clause.isNone && !t.held && !t.wake && s.waitOver cl slot g t

/-- A trap of a thread at its header. -/
def headerTrap (s : State) (cl slot : Nat) (t : Thread) (l : Nat) (r : TrapRec) : State :=
  trapGang s cl slot { r with iaddr := t.last, lanemask := 2 ^ l, actmask := 2 ^ l }

/-- The fetch of a clause failed at an address (R20): an address-form trap, or a page request on which the thread waits; a
handler takes its trap at once (R459). -/
def headerFault (s : State) (cl slot x : Nat) (t : Thread) (l : Nat) (r : Fetched) : State :=
  match r with
  | .words _ => s
  | .form va => headerTrap s cl slot t l (fetchTrap 1 va [l])
  | .denied n va => headerTrap s cl slot t l (fetchTrap n va [l])
  | .waits => s.updGang cl slot (·.updThread l fun t => { t with wait := some (.retry (s.cycles + 1)) })
  | .fault va f =>
    if slot = handlerSlot then trapHandler s cl
    else
      let (s, req) := s.raise (partOf cl) x va f ⟨1, 0, BitVec.ofNat 64 va⟩
      s.updGang cl slot (·.updThread l fun t => { t with wait := some (.fetch req va t.last) })

/-- A thread at a header: the clause is fetched whole (R237) and judged (R234), the wait condition compared (R236), and the
header passed. -/
def State.passHeader (s : State) (cl slot l : Nat) : State :=
  match s.gang? cl slot with
  | none => s
  | some g =>
    if !s.atHeader cl slot g l then s
    else
      let t := g.thread l
      let illegal := fun (s : State) => headerTrap s cl slot t l { cls := clsIllegalClause, pc := t.pc }
      match fetchWords s cl g.ctx g.ownIds t.pc.toNat 1 with
      | (s, .words [h]) =>
        if headerBad h then illegal s
        else
          let w := bitsOf h.toNat 18 6
          match fetchWords s cl g.ctx g.ownIds t.pc.toNat (w + 1) with
          | (s, .words ws) =>
            let ec := bitsOf h.toNat 24 4
            -- the code has changed between the two reads: the pass begins again with the words held now (R237)
            if ws.head? ≠ some h then s
            else if clauseBad ec (bitsOf h.toNat 14 4) 47 0 ws.tail then illegal s
            else if roleBad g (slot == handlerSlot) ec then headerTrap s cl slot t l { cls := clsRole, pc := t.pc }
            else
              let wc := bitsOf h.toNat 10 4
              let wt := bitsOf h.toNat 5 5
              s.updGang cl slot (·.updThread l fun t =>
                if wc ≠ 0 ∧ wt < g.count (ctrOf wc) then { t with wait := some (.counter wc wt) }
                else { t with clause := some ⟨t.pc, ws⟩, pc := t.target.getD (t.pc + 4), wait := none, target := none })
          | (s, r) => headerFault s cl slot g.ctx t l r
      | (s, r) => headerFault s cl slot g.ctx t l r

/-- HEADER_PASS (R236). -/
def execHeaderPass (cl slot lane : Nat) (s : State) : Out := .next (s.passHeader cl slot lane)

/-! ## What the machine does on its own -/

/-- Every gang with its cluster and slot, a user handler's among them. -/
def State.allGangs (s : State) : List (Nat × Nat × Gang) :=
  (s.clusters.map fun k =>
    (k.2.gangs.filter (·.1 < 64)).map (fun g => (k.1, g.1, g.2)) ++
      (match k.2.handler with | some h => if h.verdict.isNone then [(k.1, handlerSlot, h.gang)] else [] | none => [])).flatten

/-- The first thread that can try its header. -/
def State.nextHeader (s : State) : Option (Nat × Nat × Nat) :=
  s.allGangs.findSome? fun g => (g.2.2.liveLanes.find? fun l => s.atHeader g.1 g.2.1 g.2.2 l).map fun l => (g.1, g.2.1, l)

/-- The first complete held group. -/
def State.nextMeeting (s : State) : Option (Nat × Nat × DWord) :=
  s.allGangs.findSome? fun g => (g.2.2.meeting s.cycles).map fun m => (g.1, g.2.1, m)

/-- A lane row had an eligible thread in a cycle and issued nothing (R474). -/
def State.idleRow (s : State) (cl row : Nat) (cs : List (Nat × Gang × List Nat)) : State :=
  match cs with
  | c :: _ => if row < 4 then s.count (partOf cl) (c.2.1.ctx / 4096) 0x004 1 else s
  | [] => s

/-- One more front-end cycle, and one network cycle with it (R95; log 140, DESIGN CHOICE). -/
def State.nextCycle (s : State) : State :=
  let s := if s.net.isEmpty then s else s.netStep
  { s with turn := 0, cycles := s.cycles + 1, escNew := []
           torus := s.escNew.foldl (fun m e => m.set e.1 (e.2, (m.getD e.1 (0x20, 0)).2)) s.torus }

/-- The lane rows in turn from `turn` on, until one picks; the cycle counter rises with each round. -/
def State.rounds (s : State) : Nat → State
  | 0 => s
  | n + 1 =>
    let cl := s.turn / 5
    let row := s.turn % 5
    let next := fun s : State => if cl * 5 + row + 1 < 800 then { s with turn := cl * 5 + row + 1 } else s.nextCycle
    if s.clusters.has cl then
      match s.pickRow cl row with
      | some s' => next s'
      | none => State.rounds ((next s).idleRow cl row (s.ready cl row)) n
    else State.rounds (if cl + 1 < 160 then { s with turn := 5 * (cl + 1) } else s.nextCycle) n

/-- The first cluster whose handler has ended (R459): its accesses complete first, as a gang's do, unless it ended by a trap or by its
time. -/
def State.nextVerdict (s : State) : Option (Nat × Handler × Nat) :=
  s.clusters.findSome? fun k => match k.2.handler with
    | some h => h.verdict.bind fun v => if v = 2 ∨ h.gang.ops.all (·.complete) = true then some (k.1, h, v) else none
    | none => none

/-- A handler has ended (R458, R459): 0 resumes the stopped gang, if it has not ended, exempt from the breakpoint it stands on (R469); anything else
ends the context, whose fault ring receives the record that started the handler. -/
def State.finishHandler (s : State) (cl : Nat) (h : Handler) (v : Nat) : State :=
  let s := s.updCluster cl fun k => { k with handler := none }
  if v = 0 then
    if h.record.gone then s else
    -- R458: records are acted on one at a time, so a further record keeps the gang stopped
    let k := s.cluster cl
    if (k.taken ++ k.ring ++ k.held).any fun r => r.gang == h.slot && !r.gone && r.ctx == h.gang.ctx then s
    else s.updGang cl h.slot fun g =>
      { g with tstop := false, halt := false, threads := g.threads.map Thread.resumed
               exempt := if h.record.cls = clsBreakpoint ∧ g.liveLanes.any fun l => (g.thread l).pc == h.record.pc then some h.record.pc
                 else none }
  else (s.faultRecord h.gang.ctx h.record).endContext h.gang.ctx

/-- The first partition with a formed trace record. -/
def State.nextTrace (s : State) : Option (Nat × Part × List Nat) :=
  s.parts.findSome? fun p => p.2.trbuf.head?.map fun r => (p.1, p.2, r)

/-- A trace record is written into the session's buffer (R476, R478): through stage 2 of the owning function, or at a physical
address for the hypervisor. A full buffer that does not wrap drops it; a fault stops the tracing. `none` while the write has to
wait. -/
def State.drainTrace (s : State) (p : Nat) (pt : Part) (r : List Nat) : Option State :=
  let set := fun (s : State) (f : SessData → SessData) =>
    { s with parts := s.parts.set p { s.part p with
        trbuf := (s.part p).trbuf.tail
        prof := (s.part p).prof.adjust 4 fun se => { se with data := f se.data } } }
  match pt.prof.find? 4 with
  | none => some (set s id)
  | some se =>
    let d := se.data
    let size := 2 ^ (Nat.min 10 (bitsOf d.trCtl.toNat 0 4) + 6)
    if !d.run then some (set s id)
    else if !bitOf d.trCtl.toNat 16 && decide (size ≤ d.widx) then
      some (set s fun d => { d with dropped := Nat.min (2 ^ 24 - 1) (d.dropped + 1) })
    else
      let f := if se.st = 1 then d.own else 128
      let bs := (r.map (toBytes 8)).flatten
      match writePieces (fun s q bs => s.gpaWrite1 p (f * 4096) q bs) s
          (linePieces (d.trBase.toNat / 4096 * 4096 + 32 * (d.widx % size)) 32) bs s with
      | (s', .val _) => some (set (s'.unbilled s) fun d => { d with widx := (d.widx + 1) % 2 ^ 32 })
      | (s', .fault) => some (set (s'.unbilled s) fun d => { d with trFault := true, run := false })
      | (_, .waits) => none

/-- What waits is done, if it can be: a trace record of the first partition that has one is written, or a fault-ring record; an
invalidation or a recall leaves (R109); another package's held request is performed, an ended context's consignment aborted. -/
def State.drain (s : State) : Option State :=
  match s.nextTrace.bind fun t => s.drainTrace t.1 t.2.1 t.2.2 with
  | some s => some s
  | none =>
    match s.drainRecord, s.sendExports with
    | some s, _ => some s
    | none, some s => some s
    | none, none => match s.performHeld with
      | some s => some s
      | none => s.drainAbort

/-- One step of the machine's own: an ended handler's verdict is acted on, a record is written, a meeting group is released, a
thread passes a header, or the lane rows take their turns. -/
def State.advance (s : State) : State :=
  match s.nextVerdict with
  | some (cl, h, v) => s.finishHandler cl h v
  | none =>
    match s.drain with
    | some s => s
    | none =>
      match s.nextMeeting with
      | some (cl, slot, m) => s.updGang cl slot (·.releaseAt m s.cycles)
      | none =>
        match s.nextHeader with
        | some (cl, slot, l) => s.passHeader cl slot l
        | none => s.rounds 800

/-! ## The agenda (log 1, DESIGN CHOICE) -/

/-- An entry of the agenda that is an event, not an instruction. -/
def Instr.isEvent (i : Instr) : Bool := (fieldsOf i).isNone

/-- The event whose turn has come, with the state that has taken it from the agenda: the time unit follows it. -/
def State.due (s : State) : Option (Instr × State) :=
  match s.inputs with
  | [] => none
  | a :: rest => if a.cyc ≤ s.cycles then some (a.ev, { s with inputs := rest, timeNs := Nat.max s.timeNs a.ns }) else none

/-- The clause words, cluster, slot and lanes of an issue placed from outside: a gang of 32 live threads of a context of the
physical function stands at the first instruction of a clause that holds the words (log 2, DESIGN CHOICE). -/
def State.place (s : State) (ws : List Word) : State :=
  let n := ws.length
  let ec := classOf (majorOf (ws.headD 0)) (minorOf (ws.headD 0))
  let hdr := BitVec.ofNat 32 (0xB0000000 + ec * 2 ^ 24 + n * 2 ^ 18 + 2 ^ 14)
  let role : Role := { entry := 0, mx := true, cp := true, ch := true, gangs := 1, allot := 128 }
  let g := Gang.start (128 * 4096) 0 0 0 role 0 0
  let g := { g with exempt := some 4, threads := g.threads.map fun t => { t with pc := 4, clause := some ⟨0, hdr :: ws⟩ } }
  { s with
    cur := none
    regq := []
    parts := if (s.part 0).phase = 3 then s.parts.set 0 { s.part 0 with phase := 0 } else s.parts
    clusters := s.clusters.set 0 { s.cluster 0 with gangs := ((s.cluster 0).gangs.set 0 g) }
    ctxs := s.ctxs.set (128 * 4096) { s.ctx (128 * 4096) with stopped := false, st := 2 }
    sels := [{ cl := 0, slot := 0, portB := false, addr := 4, lanes := List.range 32, scalar := false }] }

end Sys2Proof.Machine
end

