-- ==== Sys2Proof/Machine/Matrix.lean ====
section
/-! DEFINITION. The matrix, tensor-identifier and accumulator instructions: major 0x30 (16:R350-R365, 03:R81-R83), and the
matrix queue's commands. -/

namespace Sys2Proof.Machine

/-! ## Entering the matrix queue -/

/-- Gang-collective issue of a matrix-class instruction (R197, R350): 32 live threads with their guards true. -/
def matrixClass (c : Ctxt) (e : Eff) : Eff := if c.act.length = 32 then e else .trap (trapOf clsConvergence c.act)

/-- The rows of an instruction lie in the gang's window (R19): rows ACCBASE + first on. -/
def Gang.rowsOk (g : Gang) (first n : Nat) : Bool := g.accbase + first + n ≤ g.acclim

/-- A command enters the matrix queue (R350): it counts in oc.mx, and the rows it writes become busy (R82). -/
def enterMx (i : Instr) (c : Ctxt) (s : State) (args : List Nat) (first n : Nat) (dests : List Nat) : Eff :=
  if c.g.full [.mx] then .wait s .full
  else
    let k := s.cluster c.q.cl
    let cmd : Cmd := { slot := c.q.gangSlot, ctx := c.g.ctx, blk := c.g.blk, op := c.g.nextOp, iaddr := c.q.addr
                       cmdseq := k.mxSeq, instr := i, args, fpmode := c.g.fpmode, begun := false, done := 0, entry := []
                       fault := none, asked := none }
    let s := s.updIss c.q fun g => g.addOp i c.q c.act [.mx] [] dests [] k.mxSeq false
    .go (s.updCluster c.q.cl fun k =>
      { k with mxq := k.mxq ++ [cmd], mxSeq := (k.mxSeq + 1) % 2 ^ 24
               busy := k.busy ++ (List.range n).map fun j => ⟨first + j, c.q.gangSlot, c.g.nextOp⟩ }) []

/-- A command over accumulator rows `rel` on, `n` of them: the window, the gang's convergence (R246), busy rows, then the queue.
`writes` says that it writes them. -/
def enterRows (i : Instr) (c : Ctxt) (s : State) (args : List Nat) (rel n : Nat) (writes : Bool) : Eff :=
  if !c.g.rowsOk rel n then .trap (trapOf clsAccWindow c.act)
  else matrixClass c <| if (s.cluster c.q.cl).rowsBusy c.q.gangSlot (c.g.accbase + rel) n then .wait s (.rows (c.g.accbase + rel) n)
  else enterMx i c s ((c.g.accbase + rel) :: args) (c.g.accbase + rel) (if writes then n else 0) []

/-! ## Instructions -/

/-- tid.set (R354). -/
def execTidSet (f : Fields) (lit : BitVec 32) (s : State) : Out :=
  issueWith (.tidSet f lit) f s fun c s =>
    let o := (c.a 1 0 + lit.toNat) % 2 ^ 32
    let b := s.blockOf c.q c.g
    if o % 32 ≠ 0 then .trap { trapOf clsAlignment c.act with faddr := BitVec.ofNat 64 o }
    else if (b.map (·.csize)).getD 0 < o + 32 then
      .trap { trapOf clsAccess c.act with subtype := 2, faddr := BitVec.ofNat 64 o }
    else matrixClass c <| enterMx (.tidSet f lit) c s [((b.map (·.cbase.toNat)).getD 0 + o) % 2 ^ 64] 0 0 []

/-- tid.get (R355). -/
def execTidGet (f : Fields) (s : State) : Out :=
  issueWith (.tidGet f) f s fun c s => matrixClass c <| enterMx (.tidGet f) c s [] 0 0 (destRegs f 8)

/-- mx.ldb (R356): origin row0 and col0 of lane 0. -/
def execMxLdb (f : Fields) (s : State) : Out :=
  issueWith (.mxLdb f) f s fun c s => matrixClass c <|
    enterMx (.mxLdb f) c s [c.a 2 0 % 2 ^ 32, c.a 2 0 / 2 ^ 32] 0 0 []

/-- Rows and slices of mx.lda (R357). -/
def ldaRows (f : Fields) : Nat := immU f + 1
/-- The slice count s. -/
def ldaSlices (f : Fields) : Nat := auxBits f 0 3 + 1

/-- mx.lda (R357). -/
def execMxLda (f : Fields) (s : State) : Out :=
  issueWith (.mxLda f) f s fun c s =>
    operandTrap c (32 < ldaRows f * ldaSlices f) <| matrixClass c <| enterMx (.mxLda f) c s [c.a 2 0 % 2 ^ 32, c.a 2 0 / 2 ^ 32] 0 0 []

/-- The literal of mx.mma (R358). -/
structure Mma where
  qn : Nat
  q : Bool
  bs : Bool
  as : Bool
  chain : Bool
  units : List Nat
  acc : Bool
  r : Nat
  d : Nat
  deriving DecidableEq, Repr

/-- The fields of the literal. -/
def mmaOf (lit : BitVec 32) : Mma :=
  let n := lit.toNat
  { qn := bitsOf n 28 2, q := bitOf n 27, bs := bitOf n 26, as := bitOf n 25, chain := bitOf n 24
    units := bitList 8 (bitsOf n 16 8), acc := bitOf n 15, r := bitsOf n 10 5 + 1, d := bitsOf n 0 10 }

/-- Rows written: p × r in N-split, r in K-chain. -/
def Mma.rows (m : Mma) : Nat := if m.chain then m.r else m.units.length * m.r

/-- Entries consumed: r in N-split, r × p in K-chain (R359). -/
def Mma.entries (m : Mma) : Nat := if m.chain then m.r * m.units.length else m.r

/-- mx.mma (R358). -/
def execMxMma (f : Fields) (lit : BitVec 32) (s : State) : Out :=
  issueWith (.mxMma f lit) f s fun c s =>
    let m := mmaOf lit
    let d := m.d + (if auxBit f 0 then c.a 1 0 else 0)
    if m.q && !bitOf c.g.qmask m.qn then .trap (trapOf clsAccWindow c.act)
    else enterRows (.mxMma f lit) c s [] d m.rows true

/-- mx.zero (R362). -/
def execMxZero (f : Fields) (s : State) : Out :=
  issueWith (.mxZero f) f s fun c s => enterRows (.mxZero f) c s [] (c.a 1 0) (immU f + 1) true

/-- acc.ld (R363). -/
def execAccLd (f : Fields) (s : State) : Out :=
  issueWith (.accLd f) f s fun c s =>
    enterRows (.accLd f) c s [c.a 2 0 % 2 ^ 32, c.a 2 0 / 2 ^ 32] (c.c3 1 0) (immU f + 1) true

/-- acc.st (R363): it writes no row. -/
def execAccSt (f : Fields) (s : State) : Out :=
  issueWith (.accSt f) f s fun c s =>
    enterRows (.accSt f) c s [c.a 2 0 % 2 ^ 32, c.a 2 0 / 2 ^ 32] (c.c3 1 0) (immU f + 1) false

/-- acc.win (R364): only the leader, gang 0 of its block, sets windows. -/
def execAccWin (f : Fields) (s : State) : Out :=
  issueWith (.accWin f) f s fun c s =>
    let ill := Eff.trap (trapOf clsIllegalOperand c.act)
    let k := s.cluster c.q.cl
    if c.act = [] then .go s []
    else if c.q.scalar || c.g.index != 0 then ill
    else
      match s.blockOf c.q c.g with
      | none => ill
      | some b =>
        let vb := c.a 1 c.low
        let vl := c.b 1 c.low
        let qm := auxBits f 0 4
        let g := auxBits f 4 6
        let bound := (bitList 4 qm).any fun q => match (k.rowqs.getD q (none, [])).1 with
          | some o => o != c.g.blk && k.blocks.has o
          | none => false
        if b.accRows < vb + vl ∨ b.gangs.length ≤ g ∨ bound then ill
        else
          let slots := if auxBit f 10 then b.gangs.filterMap id else (b.gangs.getD g none).toList
          let s := (chargeLanes s c 1 1).updCluster c.q.cl fun k =>
            { k with rowqs := (bitList 4 qm).foldl (fun r q => r.modify q fun e =>
                if e.1 = some c.g.blk then e else (some c.g.blk, [])) k.rowqs }
          .go (slots.foldl (fun s t => s.updGang c.q.cl t fun g =>
            { g with qmask := qm, accbase := b.accBase + vb, acclim := b.accBase + vb + vl }) s) []

/-- acc.pop (R365): lane l receives columns 4l to 4l + 3. -/
def execAccPop (f : Fields) (s : State) : Out :=
  issueWith (.accPop f) f s fun c s =>
    let q := immU f
    if c.act = [] then .go s []
    else if !bitOf c.g.qmask q then .trap (trapOf clsAccWindow c.act)
    else
      match ((s.cluster c.q.cl).rowqs.getD q (none, [])).2 with
      | [] => .wait s (.rowQueue q)
      | row :: rest =>
        let s := s.updCluster c.q.cl fun k => { k with rowqs := k.rowqs.modify q fun e => (e.1, rest) }
        .go (writeRegs s c f.vd.toNat 4 fun l =>
          (List.range 4).foldl (fun n j => n + (row.getD (4 * l + j) 0).toNat * 2 ^ (32 * j)) 0) []

/-! ## Beginning a command (R136, R360) -/

/-- Stream desynchronisation (R360): a condition of the A row buffer and the arrays. -/
def Cluster.desync (k : Cluster) (c : Cmd) : Bool :=
  match c.instr with
  | .mxLda f =>
    let n := ldaRows f * ldaSlices f
    let sg := (tensorOf (k.tensor c.ctx (f.vd.toNat % 64))).sg
    decide (32 < k.arow.length + n) || (sg == 1 && decide (32 < k.arow.countP (·.sg) + n))
  | .mxMma _ lit =>
    let m := mmaOf lit
    let es := k.arow.take m.entries
    decide (k.arow.length < m.entries) || es.any (fun e => e.slot != c.slot || e.ctx != c.ctx || e.sg != m.as) ||
      es.any (fun e => some e.fmt != es.head?.map (·.fmt)) ||
      m.units.any fun u => match k.units8[u]? with
        | some v => v.ctx != some c.ctx || v.sg != m.bs
        | none => true
  | _ => false

/-- A tensor entry that a tile from column `col0` on cannot be loaded through (R356, R357). -/
def tileRefused (t : Tensor) (col0 : Nat) : Bool := !(4 ≤ t.fmt && t.fmt ≤ 9) || col0 % (if t.sg = 1 then 32 else 16) != 0

/-- The tensor conditions of a command when it begins: the operand trap they give. -/
def Cluster.badTensor (k : Cluster) (c : Cmd) : Bool :=
  let t := fun (f : Fields) => tensorOf (k.tensor c.ctx (f.vd.toNat % 64))
  let mx := fun (f : Fields) => tileRefused (t f) (c.args.getD 1 0)
  let acc := fun (f : Fields) =>
    let e := t f
    !(1 ≤ e.fmt && e.fmt ≤ 5) || e.sg != 0 || c.args.getD 2 0 % 16 != 0
  match c.instr with
  | .mxLdb f => mx f
  | .mxLda f => mx f
  | .accLd f => acc f
  | .accSt f => acc f
  | _ => false

/-- The compute arrays a command uses. -/
def Cmd.unitsOf (c : Cmd) : List Nat :=
  match c.instr with
  | .mxLdb f => [immU f]
  | .mxMma _ lit => (mmaOf lit).units
  | _ => []

/-- The head of the matrix queue changed or removed. -/
def State.setMxHead (s : State) (cl : Nat) (c : Option Cmd) : State :=
  s.updCluster cl fun k => { k with mxq := c.toList ++ k.mxq.tail }

/-- The head command of the matrix queue begins and is judged (R350, R360): a refused one ends with its trap; a
desynchronised one also empties the A row buffer. A command waits for an array that still holds a row (R83). -/
def execMxCommandBegin (cl : Nat) (s : State) : Out :=
  .next <|
    match (s.cluster cl).mxq with
    | [] => s
    | c :: _ =>
      let k := s.cluster cl
      if c.begun || !s.cmdReady cl c || k.rowWait.any (fun w => c.unitsOf.contains w.unit) then s
      else if k.badTensor c then
        ((s.cmdTrap cl c { cls := clsIllegalOperand, eng := 4 }).endCmd cl c).setMxHead cl none
      else if k.desync c then
        (((s.cmdTrap cl c { cls := clsDesync, eng := 4 }).endCmd cl c).setMxHead cl none).updCluster cl fun k =>
          { k with arow := [] }
      else
        let e := match fieldsOf c.instr with | some f => k.tensor c.ctx (f.vd.toNat % 64) | none => []
        (s.traceCmd cl 1 c 0).setMxHead cl (some { c with begun := true, entry := e })

/-! ## Completing a command -/

/-- An accumulator row's words. -/
def Cluster.accRow (k : Cluster) (row : Nat) : List Word := (List.range 128).map fun j => k.acc.getD (row * 128 + j) 0

/-- The cluster with an accumulator row written whole (R82); its poison marks go (R80). -/
def Cluster.setAccRow (k : Cluster) (row : Nat) (ws : List Word) : Cluster :=
  { k with acc := (List.range 128).foldl (fun m j => m.set (row * 128 + j) (ws.getD j 0)) k.acc
           accPoison := k.accPoison.filter fun e => e.1 / 128 != row }

/-- A row of the span is poisoned. -/
def Cluster.accBad (k : Cluster) (first n : Nat) : Bool :=
  k.accPoison.any fun e => e.2 && first ≤ e.1 / 128 && e.1 / 128 < first + n

/-- The exact sum of a block's 16 products (R226), times the scales of its group; none for a NaN. -/
def blockContrib (ta tb ablk bblk : Nat) (sa sb : Option Nat) : Option (Int × Int) :=
  if ablk % 256 = 255 ∨ bblk % 256 = 255 ∨ sa = some 255 ∨ sb = some 255 then none
  else
    let sh : Int := (match sa with | some n => (n : Int) - 127 | none => 0) + (match sb with | some n => (n : Int) - 127 | none => 0)
    let (v, e) := (List.range 16).foldl (fun (acc : Int × Int) j =>
      match teElem ta ablk j, teElem tb bblk j with
      | .fin n1 m1 e1, .fin n2 m2 e2 => dySum acc.1 acc.2 (signed (n1 != n2) (m1 * m2)) (e1 + e2)
      | _, _ => acc) ((0 : Int), (0 : Int))
    some (v, e + sh)

/-- One accumulation of a contribution (R226): one RNE rounding. -/
def addContrib (mode : Nat) (acc : Nat × Nat) (x : Option (Int × Int)) : Nat × Nat :=
  let f := fmtOf 0
  let r := match x with
    | none => f.nanRes true
    | some (v, e) => f.add mode 0 (f.decodeRaw 0 acc.1) (.fin (decide (v < 0)) v.natAbs e)
  (r.v, acc.2 ||| r.fl)

/-- A pass of one entry over one array for column `n`: eight blocks in ascending order (R359). -/
def passColumn (mode : Nat) (e : AEntry) (u : MxUnit) (n : Nat) (acc : Nat × Nat) : Nat × Nat :=
  (List.range 8).foldl (fun acc b =>
    let sa := if e.sg then some (e.scales.getD (b / 2) 0x7F) else none
    let sb := if u.sg then some ((u.scales.getD n []).getD (b / 2) 0x7F) else none
    addContrib mode acc (blockContrib e.fmt u.fmt (e.blocks.getD b 0) ((u.tile.getD n []).getD b 0) sa sb)) acc

/-- A result row: entries with the arrays they reach in order, over the old row. -/
def mmaRow (mode : Nat) (old : List Word) (ps : List (AEntry × MxUnit)) : List Word × Nat :=
  let cols := (List.range 128).map fun n =>
    ps.foldl (fun acc p => passColumn (outMode p.1.fout mode) p.1 p.2 n acc) ((old.getD n 0).toNat, 0)
  (cols.map fun c => BitVec.ofNat 32 c.1, cols.foldl (fun a c => a ||| c.2) 0)

/-- An array. -/
def Cluster.unit (k : Cluster) (u : Nat) : MxUnit := k.units8.getD u ⟨none, 0, false, 0, 0, 0, [], []⟩

/-- The rows of a multiply in ascending row number: the row, the array that delivers it, the passes that make it. -/
def Mma.plan (m : Mma) (k : Cluster) (first : Nat) (es : List AEntry) : List (Nat × Nat × List (AEntry × MxUnit)) :=
  let e := fun i => es.getD i { ctx := 0, slot := 0, fmt := 3, sg := false, fin := 0, fout := 0, blocks := [], scales := [] }
  let p := m.units.length
  if m.chain then
    (List.range m.r).map fun i =>
      (first + i, m.units.getLastD 0, (List.range p).map fun j => (e (i * p + j), k.unit (m.units.getD j 0)))
  else
    ((List.range p).map fun j => (List.range m.r).map fun i =>
      (first + j * m.r + i, m.units.getD j 0, [(e i, k.unit (m.units.getD j 0))])).flatten

/-- A finished row enters its queue, or waits for room behind the rows that already wait (R83); it stays busy until then. -/
def Cluster.queueRow (k : Cluster) (c : Cmd) (fl q unit row : Nat) (ws : List Word) : Cluster :=
  let full := 16 ≤ (k.rowqs.getD q (none, [])).2.length || k.rowWait.any (·.q == q)
  if full then { k with rowWait := k.rowWait ++ [⟨q, unit, ws, row, c.slot, c.op, fl⟩] }
  else { k with rowqs := k.rowqs.modify q fun e => (e.1, e.2 ++ [ws]) }

/-- The multiply (R359, R361). -/
def State.doMma (s : State) (cl : Nat) (c : Cmd) (lit : BitVec 32) : State :=
  let m := mmaOf lit
  let k := s.cluster cl
  let first := c.args.getD 0 0
  let es := k.arow.take m.entries
  let p := partOf cl
  if m.acc && k.accBad first m.rows then
    (s.cmdTrap cl c { cls := clsAccess, subtype := 3, eng := 4 }).endCmd cl c
  else
    let passes := m.r * m.units.length * tePasses ((es.head?.map (·.fmt)).getD 3)
    let s := (s.charge p c.ctx 14 passes).charge p c.ctx 15 (m.rows + if m.q then m.rows else 0)
    let rows := (m.plan k first es).map fun x =>
      (x, mmaRow c.fpmode.toNat (if m.acc then k.accRow x.1 else []) x.2.2)
    let fl := rows.foldl (fun a x => a ||| x.2.2) 0
    let s := s.updCluster cl fun k =>
      let k := { k with arow := k.arow.drop m.entries }
      let k := rows.foldl (fun (k : Cluster) x => k.setAccRow x.1.1 x.2.1) k
      let k := if m.q then rows.foldl (fun (k : Cluster) x => k.queueRow c fl m.qn x.1.2.1 x.1.1 x.2.1) k else k
      { k with busy := k.busy.filter fun b =>
          !(b.slot == c.slot && b.op == c.op) || k.rowWait.any fun w => w.slot == c.slot && w.op == c.op && w.row == b.row }
    if (s.cluster cl).rowWait.any fun w => w.slot == c.slot && w.op == c.op then s else (s.cmdFlags cl c fl).endCmd cl c

/-- Elements of an accumulator row read from a tensor row (R363). -/
def accFromRow (t : Tensor) (mode : Nat) (bs : List Byte) : List Word × Nat :=
  let f := tensorFmt t.fmt
  let rs := (List.range 128).map fun j =>
    (fmtOf 0).convert (setBits mode 5 5 0) 0 0 (f.read (t.inMode mode) (elemCode t.fmt bs j))
  (rs.map fun r => BitVec.ofNat 32 r.v, rs.foldl (fun a r => a ||| r.fl) 0)

/-- The rows of acc.ld, all read before any is written. -/
def accRows (e : Eng) (t : Tensor) (mode col0 : Nat) : List Nat → State → State × (List (List Word × Nat) ⊕ EngStop)
  | [], s => (s, .inl [])
  | r :: rs, s =>
    match readRow s e t r col0 128 with
    | (s, .inr x) => (s, .inr x)
    | (s, .inl bs) =>
      match accRows e t mode col0 rs s with
      | (s, .inr x) => (s, .inr x)
      | (s, .inl ws) => (s, .inl (accFromRow t mode bs :: ws))

/-- The bytes acc.st writes for one row: the elements inside the tensor, rounded once (R363). -/
def rowOut (t : Tensor) (mode rm n : Nat) (ws : List Word) : List Byte × Nat :=
  let f := tensorFmt t.fmt
  let rs := (List.range n).map fun j => f.convert mode rm 0 ((fmtOf 0).decodeRaw 0 (ws.getD j 0).toNat)
  ((rs.map fun r => toBytes (f.width / 8) r.v).flatten, rs.foldl (fun a r => a ||| r.fl) 0)

/-- The writes of acc.st row by row; what stopped it comes with the row it stopped in and the state that row began with. -/
def storeRows (e : Eng) (t : Tensor) (mode rm row0 col0 : Nat) (k : Cluster) (first : Nat) :
    List Nat → State → State × Option (State × Nat × EngStop)
  | [], s => (s, none)
  | j :: js, s =>
    let s0 := s
    let n := t.inside (row0 + j) col0 128
    match engWrite s e (t.elemAddr (row0 + j) col0) (rowOut t mode rm n (k.accRow (first + j))).1 with
    | (s, some x) => (s, some (s0, j, x))
    | (s, none) => storeRows e t mode rm row0 col0 k first js s

/-- A command that stops in a step begun at `s0` keeps its place at the head, or leaves with its trap. -/
def State.stopMx (s0 s : State) (cl : Nat) (c : Cmd) (x : EngStop) : State :=
  let (s, h) := s0.stopCmd s cl c x
  s.setMxHead cl h

/-- The rounding mode of acc.st (R277, R363): SR acts as RNE. -/
def accStMode (f : Fields) (mode : Nat) : Nat :=
  let rm := if auxBit f 3 then auxBits f 0 3 else fpRm mode
  if rm = 4 then 0 else rm

/-- The head command performed. -/
def State.performMx (s : State) (cl : Nat) (c : Cmd) : State :=
  let s0 := s
  let e := c.engOf s cl 4
  let p := partOf cl
  let t := tensorOf c.entry
  let fin := fun s : State => (s.endCmd cl c).setMxHead cl none
  let md := c.fpmode.toNat
  match c.instr with
  | .tidSet f _ =>
    match constRead s e (c.args.getD 0 0) 32 with
    | (s, .inr x) => s0.stopMx s cl c x
    | (s, .inl bs) =>
      let ws := (List.range 4).map fun i => fromBytes ((bs.drop (8 * i)).take 8)
      if malformedTensor ws then
        ((s.cmdTrap cl c { cls := clsIllegalOperand, eng := 4 }).endCmd cl c).setMxHead cl none
      else fin (s.updCluster cl fun k => { k with tids := k.tids.set (c.ctx * 64 + f.vd.toNat % 64) ws })
  | .tidGet f =>
    let ws := (s.cluster cl).tensor c.ctx (immU f)
    fin (s.updGang cl c.slot fun g => g.updLanes (List.range 32) fun _ th =>
      (th.setRegs f.vd.toNat 8 ((List.range 4).foldl (fun n i => n + ws.getD i 0 * 2 ^ (64 * i)) 0)).settle c.op)
  | .mxLdb f =>
    let r0 := c.args.getD 0 0
    let c0 := c.args.getD 1 0
    match readTile e t md ((List.range 128).map fun n => (r0 + n, c0)) s with
    | (s, .inr x) => s0.stopMx s cl c x
    | (s, .inl rows) =>
      fin (s.updCluster cl fun k => { k with units8 := k.units8.set (immU f) {
        ctx := some c.ctx, fmt := tierOf t.fmt, sg := t.sg == 1, tid := f.vd.toNat % 64, row0 := r0, col0 := c0
        tile := rows.map (·.1), scales := rows.map (·.2) } })
  | .mxLda f =>
    let r0 := c.args.getD 0 0
    let c0 := c.args.getD 1 0
    let places := ((List.range (ldaRows f)).map fun i => (List.range (ldaSlices f)).map fun j => (r0 + i, c0 + 128 * j)).flatten
    match readTile e t md places s with
    | (s, .inr x) => s0.stopMx s cl c x
    | (s, .inl rows) =>
      fin (s.updCluster cl fun k => { k with arow := k.arow ++ rows.map fun r =>
        { ctx := c.ctx, slot := c.slot, fmt := tierOf t.fmt, sg := t.sg == 1, fin := t.fin, fout := t.fout
          blocks := r.1, scales := r.2 } })
  | .mxMma _ lit => (s.setMxHead cl none).doMma cl c lit
  | .mxZero f =>
    let n := immU f + 1
    fin ((s.charge p c.ctx 15 n).updCluster cl fun k =>
      (List.range n).foldl (fun (k : Cluster) j => k.setAccRow (c.args.getD 0 0 + j) []) k)
  | .accLd f =>
    let n := immU f + 1
    match accRows e t md (c.args.getD 2 0) ((List.range n).map (c.args.getD 1 0 + ·)) s with
    | (s, .inr x) => s0.stopMx s cl c x
    | (s, .inl rows) =>
      let s := (s.charge p c.ctx 15 n).updCluster cl fun k =>
        (List.range n).foldl (fun (k : Cluster) j => k.setAccRow (c.args.getD 0 0 + j) (rows.getD j ([], 0)).1) k
      fin (s.cmdFlags cl c (rows.foldl (fun a r => a ||| r.2) 0))
  | .accSt f =>
    let n := immU f + 1
    let k := s.cluster cl
    let first := c.args.getD 0 0
    let r0 := c.args.getD 1 0
    let c0 := c.args.getD 2 0
    let rm := accStMode f md
    if k.accBad first n then ((s.cmdTrap cl c { cls := clsAccess, subtype := 3, eng := 4 }).endCmd cl c).setMxHead cl none
    else
      match storeRows e t md rm r0 c0 k first ((List.range n).drop c.done) s with
      | (s, some (s1, j, x)) => s1.stopMx s cl { c with done := j } x
      | (s, none) =>
        let fl := (List.range n).foldl (fun a j =>
          a ||| (rowOut t md rm (t.inside (r0 + j) c0 128) (k.accRow (first + j))).2) 0
        fin (s.cmdFlags cl c fl)
  | _ => fin s

/-- The head command of the matrix queue performs its effect and completes (R350, R359); one that waits for a response or
an answer does nothing yet. -/
def execMxCommandComplete (cl : Nat) (s : State) : Out :=
  .next <|
    match (s.cluster cl).mxq with
    | [] => s
    | c :: _ => if c.begun && c.free s then s.performMx cl { c with asked := none } else s

/-- A finished row that waited enters its queue: its row is free, and its command completes with its last row and raises its flags
then (R83, R137, R218, R223). -/
def State.enterRow (s : State) (cl : Nat) (w : RowWait) : State :=
  let s := s.updCluster cl fun k =>
    { k with rowqs := k.rowqs.modify w.q fun e => (e.1, e.2 ++ [w.words]), rowWait := k.rowWait.erase w
             busy := k.busy.filter fun b => !(b.slot == w.slot && b.op == w.op && b.row == w.row) }
  if (s.cluster cl).rowWait.any fun v => v.slot == w.slot && v.op == w.op then s
  else ((s.opFlags cl w.slot w.op w.fl).updOp cl w.slot w.op fun o => { o with complete := true }).updGang cl w.slot (·.retire)

/-- QUEUE_ROW_ENTER (R83): the oldest row that waits for queue `q` enters it once there is room. -/
def execQueueRowEnter (cl q : Nat) (s : State) : Out :=
  .next <|
    let k := s.cluster cl
    match k.rowWait.find? (·.q == q) with
    | none => s
    | some w => if 16 ≤ (k.rowqs.getD q (none, [])).2.length then s else s.enterRow cl w

end Sys2Proof.Machine
end

