-- ==== Sys2Proof/Machine/Walks.lean ====
section
/-! DEFINITION. Walks one read at a time and their ends (01:R34-R38, 02:R43-R46), page requests and their responses
(02:R48-R56), and invalidation (02:R57-R59). -/

namespace Sys2Proof.Machine

/-! ## Walk engines -/

/-- The state with the walk of an engine changed. -/
def State.setWalk (s : State) (p e : Nat) (w : Walk) : State :=
  { s with parts := s.parts.set p { s.part p with walks := (s.part p).walks.set e w } }

/-- WALK_READ (R44): a table read of a walk returns and is judged. -/
def execWalkRead (p e : Nat) (s : State) : Out :=
  .next <| match (s.part p).walks.find? e with
    | some w => let (s, w) := s.readEntry p w; s.setWalk p e w
    | none => s

/-- AD_UPDATE (R37): a compare-and-swap of a walk on an A or D bit. -/
def execAdUpdate (p e : Nat) (s : State) : Out :=
  .next <| match (s.part p).walks.find? e with
    | some w => if w.next.isNone then (let (s, w) := s.adStep p w; s.setWalk p e w) else s
    | none => s

/-- A lane that waited for a walk takes its end (R43): the translation when it serves the lane's access, the fault when it
applies to it; otherwise the lane walks again. A fault that raises no request is a trap (R33), a prefetch that faults is
discarded, and a user handler's fault ends it (R459). -/
def State.walkLane (s : State) (p : Nat) (w : Walk) (r : LaneRef) : State :=
  match s.laneAt r with
  | none => s
  | some (g, o, a, l) =>
    let again := fun s : State => s.updOp r.cl r.slot r.op (·.setLane r.lane .fresh)
    match w.result with
    | some (.inl e) =>
      if e.serves a.kind.atype l.va then
        (s.updCluster r.cl fun k => { k with tlb := tlbPut 1024 e k.tlb }).updOp r.cl r.slot r.op (·.bindLane r.lane (e.xlat l.va))
      else again s
    | some (.inr f) =>
      if f.kind = 1 ∧ w.at' ≠ a.kind.atype then again s
      else if a.kind = .pf then s.endLanes r.cl r.slot a o [(r.lane, .ok)]
      else if r.slot = handlerSlot then trapHandler s r.cl
      else
        match f.trap with
        | some n => s.endLanes r.cl r.slot a o [(r.lane, .trap n)]
        | none =>
          let f := if f.atype = atTable then f else { f with atype := a.kind.atype }
          let (s, q) := s.raise p g.ctx l.va f ⟨0, 0, o.iaddr⟩
          s.endLanes r.cl r.slot a o [(r.lane, .req q none)]
    | none => s

/-- A walk has ended: the caches are filled, the lanes that joined it take its end, and the engine takes the next waiting
miss (R39-R43). -/
def State.walkDone (s : State) (p e : Nat) (w : Walk) : State :=
  let s := (match w.result with | some (.inl t) => s.fill p w t | _ => s).endJoins p w
  let pt := s.part p
  let s : State := { s with parts := s.parts.set p { pt with walks := pt.walks.del e } }
  let ls := s.lanesWhere fun cl g _ l =>
    partOf cl == p && l.st == .walking && fnOf g.ctx == fnOf w.ctx && s.asid g.ctx == s.asid w.ctx &&
      l.va / 2 ^ 18 == w.va / 2 ^ 18
  let s := ls.foldl (fun s r => s.walkLane p w r) s
  let pt := s.part p
  let s := match pt.missq with
    | m :: q =>
      if pt.walks.has e then s
      else
        { s with parts := s.parts.set p { pt with
            missq := q, walks := pt.walks.set e (Walk.begin s p m.1 m.2.1 m.2.2.1 m.2.2.2) } }
    | [] => s
  s.startOps (opsOf ls)

/-- WALK_COMPLETE (R34). -/
def execWalkComplete (p e : Nat) (s : State) : Out :=
  .next <| match (s.part p).walks.find? e with
    | some w => if w.result.isSome && w.upd.isEmpty then s.walkDone p e w else s
    | none => s

/-! ## Requests -/

/-- HELD_REQUEST_WRITE (R50): the first held request of a function is written once its ring has room. -/
def execHeldRequestWrite (f : Nat) (s : State) : Out :=
  .next <|
    let u := s.func f
    match u.live.find? (·.held) with
    | none => s
    | some r =>
      if f ≠ 128 ∧ u.prqRoom then
        (((s.updFunc f fun u => { u with live := u.live.map fun q => if q.seq == r.seq then { q with held := false } else q }).prqWrite
          f r)).wakeStalled
      else s

/-! ## Responses -/

/-- The record of a delivered fault (R52): the request's stage, level and number under the fault's own class, source and address. A
write-back's is of the release class (R460, R520). -/
def faultRec (q : PageReq) (eng cmdseq va : Nat) : TrapRec :=
  let r := { deliverRec q with eng, cmdseq, faddr := BitVec.ofNat 64 va }
  if eng = 6 then { r with cls := clsReleaseWb, subtype := 0, faddr := BitVec.ofNat 64 (va / 128 * 128) } else r

/-- A lane waits on a request. -/
def LaneAcc.waitsOn (l : LaneAcc) (f q : Nat) : Bool :=
  match l.st with
  | .faulted f' q' _ => f' == f && q' == q
  | _ => false

/-- The line address of the write-back that a lane waits for. -/
def LaneAcc.wbOf (l : LaneAcc) : Option Nat :=
  match l.st with
  | .faulted _ _ wb => wb
  | _ => none

/-- The lanes that wait on a request. -/
def State.faultLanes (s : State) (f q : Nat) : List LaneRef := s.lanesWhere fun _ _ _ l => l.waitsOn f q

/-- A command that a response to request `q` of function `f` frees: in its queue, without the request. -/
def freeCmd (f q : Nat) (c : Cmd) : Cmd := if c.fault = some (f, q) then { c with fault := none } else c

/-- RETRY (R54): the lanes translate again with what they captured, the commands go on from what they had not done, a
completion's write-back runs again. -/
def State.retryReq (s : State) (f q : Nat) : State :=
  let ls := s.faultLanes f q
  let cmds := s.clusters.map fun k => (k.1,
    { k.2 with
      mxq := k.2.mxq.map (freeCmd f q)
      chainq := k.2.chainq.map (freeCmd f q)
      chanq := k.2.chanq.map (·.map (freeCmd f q))
      chans := (List.range 8).foldl (fun m ch =>
        match (k.2.chanq.getD ch []).find? fun c => c.fault == some (f, q) with
        | some c => m.adjust (c.ctx * 8 + ch) fun r => { r with st := 1 }
        | none => m) k.2.chans })
  let s : State := { s with
    clusters := cmds
    launches := s.launches.map fun n => (n.1, if n.2.fault = some (f, q) then { n.2 with fault := none } else n.2) }
  (s.setLanes ls .fresh).startOps (opsOf ls)

/-- Lanes of an operation with one fault are delivered: one record names them. -/
def State.deliverSite (s : State) (r : PageReq) (cl slot : Nat) (p : Op) (wb : Option Nat) (mine : List Nat) : State :=
  let rec' := match wb with
    | some va => faultRec r 6 0 va
    | none => { faultRec r 0 0 (p.lowVa mine) with lcause := laneCauses mine 5 }
  s.laneTrap cl slot p rec' mine

/-- The lanes of one operation are delivered (R55): they settle with what they had, and one record names those of each fault. -/
def State.deliverOp (s : State) (r : PageReq) (ls : List LaneRef) (o : Nat × Nat × Nat) : State :=
  let mine := (ls.filter fun l => (l.cl, l.slot, l.op) == o).map (·.lane)
  match (s.gang? o.1 o.2.1).bind (·.op? o.2.2) with
  | none => s
  | some p =>
    match accOf p.instr with
    | none => s
    | some a =>
      let hit := p.lanes.filter fun l => mine.contains l.lane
      let s := s.endLanes o.1 o.2.1 a p (mine.map fun l => (l, .ok))
      let s := ((hit.map (·.wbOf)).eraseDups).foldl (fun s wb =>
        s.deliverSite r o.1 o.2.1 p wb ((hit.filter fun l => l.wbOf == wb).map (·.lane))) s
      s.closeOp o.1 o.2.1 o.2.2

/-- A command whose fault is delivered ends with a trap at its launch site (R52, R455). -/
def State.deliverCmd (s : State) (cl : Nat) (r : PageReq) (c : Cmd) : State :=
  (s.cmdTrap cl c (faultRec r c.site.1 (c.cmdseq % 2 ^ 24) c.site.2)).endCmd cl c

/-- The commands of a cluster that wait on a request are delivered and leave their queues. -/
def State.deliverCmds (s : State) (f q : Nat) (r : PageReq) (cl : Nat) : State :=
  let hit := fun (c : Cmd) => c.fault == some (f, q)
  let k := s.cluster cl
  let s := (List.range 8).foldl (fun s ch =>
    match (k.chanq.getD ch []).find? hit with
    | some c => s.chanState cl ch c 0
    | none => s) s
  let s := s.updCluster cl fun k =>
    { k with mxq := k.mxq.filter (!hit ·), chainq := k.chainq.filter (!hit ·), chanq := k.chanq.map (·.filter (!hit ·)) }
  ((k.mxq ++ k.chanq.flatten ++ k.chainq).filter hit).foldl (fun s c => s.deliverCmd cl r c) s

/-- The faults of a gang's threads on a request: each fetch of its PC from its launch site, each write-back of its line from its
instruction. -/
def Gang.threadFaults (g : Gang) (f q : Nat) : List (Wait × DWord) :=
  (g.liveLanes.filterMap fun l => match (g.thread l).wait with
    | some (.fetch (some (f', q')) va ia) => if f' = f ∧ q' = q then some (.fetch (some (f', q')) va ia, ia) else none
    | some (.writeback (some (f', q')) va) => if f' = f ∧ q' = q then some (.writeback (some (f', q')) va, (g.thread l).pc) else none
    | _ => none).eraseDups

/-- The threads of one of these faults. -/
def Gang.atFault (g : Gang) (w : Wait × DWord) : List Nat :=
  g.liveLanes.filter fun l => (g.thread l).wait == some w.1 && match w.1 with
    | .writeback _ _ => (g.thread l).pc == w.2
    | _ => true

/-- The record of such a fault (R20, R460): a fetch's names the PC fetched and its launch site, a write-back's its line and the
instruction. -/
def threadRec (r : PageReq) (w : Wait × DWord) (ls : List Nat) : TrapRec :=
  let at' := fun (t : TrapRec) (pc : DWord) => { t with pc, iaddr := w.2, lanemask := maskOf ls, actmask := maskOf ls }
  match w.1 with
  | .fetch _ va _ => { at' (faultRec r 1 0 va) (BitVec.ofNat 64 va) with lcause := laneCauses ls 5 }
  | .writeback _ va => at' (faultRec r 6 0 va) w.2
  | _ => at' (faultRec r 0 0 0) w.2

/-- The threads of a gang that wait with a fetch or a release write-back on a request (R20, R460): one record for each fault. -/
def State.deliverThreads (s : State) (f q : Nat) (r : PageReq) (cl slot : Nat) (g : Gang) : State :=
  (g.threadFaults f q).foldl (fun s w =>
    let ls := g.atFault w
    trapGang (s.updGang cl slot (·.updLanes ls fun _ t => { t with wait := none })) cl slot (threadRec r w ls)) s

/-- The record of a line given up at a grid's completion (R404). -/
def lostRec (x cl sub stage level : Nat) (va : Nat) : TrapRec :=
  { cls := clsReleaseWb, subtype := sub, stage, level, eng := 6, gone := true, cluster := cl, ctxid := x % 4096
    vf := if fnOf x = 128 then 0 else fnOf x, pfn := fnOf x == 128, faddr := BitVec.ofNat 64 va }

/-- The record of a line given up, in the fault ring, and the launch's count of such lines (R404). -/
def State.giveUpRec (s : State) (i cl x va sub stage level : Nat) : State :=
  let (st, s) := s.take
  let s := s.faultRecord x { lostRec x cl sub stage level va with stamp := st }
  { s with launches := s.launches.adjust i fun n => { n with lost := n.lost + 1 } }

/-- A line given up at a grid's completion (R404): counted, with its record in the fault ring. -/
def State.giveUp (s : State) (i cl line x sub stage level : Nat) : State :=
  let va := ((s.l1Find cl line).map (·.va)).getD 0
  (s.loseLine cl line x).giveUpRec i cl x va sub stage level

/-- The completion write-backs that wait on a request are given up (R404). -/
def State.deliverLaunch (s : State) (f q : Nat) (r : PageReq) (e : Nat × Launch) : State :=
  if e.2.fault ≠ some (f, q) then s
  else
    let s := e.2.clusters.foldl (fun s cl =>
      ((s.cluster cl).l1.filter fun l => l.2.ctx == r.ctx && l.2.dirty != 0 && l.2.va == e.2.faultVa / 128 * 128).foldl
        (fun s l => s.giveUp e.1 cl l.1 r.ctx 0 (r.stage - 1) r.level) s) s
    { s with launches := s.launches.adjust e.1 fun n => { n with fault := none } }

/-- DELIVER (R52, R55). -/
def State.deliverReq (s : State) (f q : Nat) (r : PageReq) : State :=
  let ls := s.faultLanes f q
  let s := (opsOf ls).foldl (fun s o => s.deliverOp r ls o) s
  let s := s.clusters.foldl (fun s k => s.deliverCmds f q r k.1) s
  let s := s.everyGang.foldl (fun s g => s.deliverThreads f q r g.1 g.2.1 g.2.2) s
  s.launches.foldl (fun s e => s.deliverLaunch f q r e) s

/-- An accepted response acts on every fault of its request (R52). -/
def State.actResponse (s : State) (f q code : Nat) (r : PageReq) : State :=
  match code with
  | 0 => s.retryReq f q
  | 1 => s.deliverReq f q r
  | _ => s.endContext r.ctx

/-- The next response in a function's ring, while the ring is in use: its two words (R51, R52). -/
def State.nextResponse (s : State) (f : Nat) : Option (Nat × Nat) :=
  let u := s.func f
  if f = 128 ∨ !bitOf u.rsqCtl.toNat 0 ∨ u.rsqHead % ringSize u.rsqCtl = u.rsqTail % ringSize u.rsqCtl then none
  else
    let a := u.rsqBase.toNat / 4096 * 4096 + 16 * (u.rsqHead % ringSize u.rsqCtl)
    some (s.readNum a 8, s.readNum (a + 8) 8)

/-- The next response is taken from its ring when it carries the code `code`, or is to be refused (R52). A response to a
request of a context that is saved is recorded (R56). -/
def State.response (s : State) (f code : Nat) : State :=
  match s.nextResponse f with
  | none => s
  | some (w0, w1) =>
    let s' := s.updFunc f fun u => { u with rsqHead := (u.rsqHead + 1) % ringSize u.rsqCtl }
    let c := bitsOf w0 32 4
    let q := w0 % 2 ^ 32
    match (s.func f).live.find? (·.seq == q) with
    | some r =>
      if w0 / 2 ^ 36 ≠ 0 ∨ w1 ≠ 0 ∨ 3 ≤ c then s'.updFunc f fun u => { u with badrsp := Nat.min 0xFFFF (u.badrsp + 1), badrspSeen := true }
      else if c ≠ code then s
      else
        let done := fun s : State => s.updFunc f fun u =>
          { u with rsqHead := (u.rsqHead + 1) % ringSize u.rsqCtl, live := u.live.filter (·.seq != q) }
        if (s.ctx r.ctx).st = 3 then
          match s.recordResponse r c with
          | (s, true) => done s
          | (s, false) => s
        else ((done s).actResponse f q c r).wakeStalled
    | none => s'.updFunc f fun u => { u with badrsp := Nat.min 0xFFFF (u.badrsp + 1), badrspSeen := true }

/-- RETRY (R54). -/
def execRetry (f : Nat) (s : State) : Out := .next (s.response f 0)

/-- DELIVER (R55). -/
def execDeliver (f : Nat) (s : State) : Out := .next (s.response f 1)

/-- ABORT (R52). -/
def execAbortRsp (f : Nat) (s : State) : Out := .next (s.response f 2)

/-! ## Invalidation -/

/-- Fields of TLBI_CMD (R57). -/
def tlbiOp (v : DWord) : Nat := bitsOf v.toNat 0 4
def tlbiIrq (v : DWord) : Bool := bitOf v.toNat 8
def tlbiSel (v : DWord) : Nat := bitsOf v.toNat 12 8
def tlbiCtxid (v : DWord) : Nat := bitsOf v.toNat 20 12
def tlbiCount (v : DWord) : Nat := bitsOf v.toNat 32 32

/-- A command that is refused (R58). -/
def tlbiBad (f : Nat) (v : DWord) : Bool :=
  decide (7 ≤ tlbiOp v) || bitsOf v.toNat 9 3 != 0 || bitsOf v.toNat 4 4 != 0 || (f != 128 && tlbiSel v != 0) ||
    (f != 128 && decide (5 ≤ tlbiOp v)) || (decide (128 ≤ tlbiSel v) && tlbiSel v != 255)

/-- The function a command acts on. -/
def tlbiTarget (f : Nat) (v : DWord) : Nat := if f ≠ 128 then f else if tlbiSel v = 255 then 128 else tlbiSel v

/-- Ranges of 256 KiB pages overlap. -/
def pagesMeet (a n b m : Nat) : Bool := decide (a < b + m ∧ b < a + n)

/-- Whether a command drops a combined translation of its function (R58): `first` and `n` are the range's pages. -/
def tlbiHits (op ctxid first n : Nat) (e : TlbEntry) : Bool :=
  let len := if e.big then 2 ^ 13 else 1
  let base := if e.big then e.page / 2 ^ 13 * 2 ^ 13 else e.page
  let virt := pagesMeet (first % 2 ^ 39) n base len
  match op with
  | 1 => (e.glob || e.ctxid == ctxid) && virt
  | 2 => virt
  | 3 => !e.glob && e.ctxid == ctxid
  | 5 => pagesMeet first n (if e.big then e.gpage / 2 ^ 13 * 2 ^ 13 else e.gpage) len || e.tables.any fun t => pagesMeet first n t 1
  | _ => true

/-- Whether a command drops a walk-cache entry of its function: a level-1 entry covers 2^26 pages, a level-2 entry 2^13. -/
def tlbiHitsNode (op ctxid first n : Nat) (e : NodeEntry) : Bool :=
  let len := if e.level = 1 then 2 ^ 26 else 2 ^ 13
  let meet := pagesMeet (if e.stage = 1 then first % 2 ^ 39 else first) n (e.key * len) len
  match op with
  | 1 => e.stage == 1 && e.ctxid == ctxid && meet
  | 2 => e.stage == 1 && meet
  | 3 => e.stage == 1 && e.ctxid == ctxid
  | 5 => e.stage == 2 && meet
  | _ => true

/-- Whether a command drops a stage-2 translation of its function. -/
def tlbiHitsS2 (op first n : Nat) (e : S2Entry) : Bool :=
  match op with
  | 1 | 2 | 3 => false
  | 5 => let len := if e.leaf.level = 2 then 2 ^ 13 else 1
         pagesMeet first n (e.page / len * len) len
  | _ => true

/-- Every walk of a function begins again from its root (R59). -/
def State.rewalk (s : State) (fn : Nat) : State :=
  { s with parts := s.parts.map fun p => (p.1,
      { p.2 with walks := p.2.walks.map fun w =>
          (w.1, if fnOf w.2.ctx = fn then Walk.begin s p.1 w.2.cl w.2.ctx w.2.va w.2.at' else w.2)
                 joins := p.2.joins.filter fun m => m.fault.isNone || fnOf m.ctx != fn }) }

/-- Every matching entry leaves every cache of the package (R58). -/
def State.tlbiDrop (s : State) (fn op ctxid first n : Nat) : State :=
  let keep := fun (e : TlbEntry) => e.fn != fn || !tlbiHits op ctxid first n e
  let keepN := fun (e : NodeEntry) => e.fn != fn || !tlbiHitsNode op ctxid first n e
  { s with
    clusters := s.clusters.map fun k => (k.1, { k.2 with tlb := k.2.tlb.filter keep })
    parts := s.parts.map fun p => (p.1,
      { p.2 with tlb2 := p.2.tlb2.filter keep, s2tlb := p.2.s2tlb.filter fun e => e.fn != fn || !tlbiHitsS2 op first n e
                 nodes1 := p.2.nodes1.filter keepN, nodes2 := p.2.nodes2.filter keepN }) }

/-- The name by which a command waits for a request to another package. -/
def unitLane (tag : Nat) : LaneRef := ⟨0, 2 ^ 21, tag, 0⟩

/-- The accesses a command waits for (R59): those bound through a translation that it drops and not yet performed, of lanes and
of units. -/
def State.tlbiWaits (s : State) (fn op ctxid first n : Nat) : List LaneRef :=
  let hit := fun (v : Option TlbEntry) => match v with
    | some e => e.fn == fn && tlbiHits op ctxid first n e
    | none => false
  (s.lanesWhere fun _ _ _ l => (match l.st with | .ready .. => true | _ => false) && hit l.via) ++
    (s.remotes.filter fun r => r.2.vias.any fun v => hit (some v)).map fun r => unitLane r.1

/-- A write of TLBI_CMD whose operation is `op` (R57, R58). -/
def State.tlbi (s : State) (f op : Nat) (v : DWord) : State :=
  let u := s.func f
  if s.shut f = true ∨ tlbiOp v ≠ op ∨ tlbiBad f v = true then s
  else if 16 ≤ u.tlbiPend.length then s
  else
    let fn := tlbiTarget f v
    let nop := op = 0 ∨ (tlbiCount v = 0 ∧ (op = 1 ∨ op = 2 ∨ op = 5))
    let first := u.tlbiAddr.toNat / 2 ^ 18
    let waits := if nop then [] else s.tlbiWaits fn op (tlbiCtxid v) first (tlbiCount v)
    let s := (if nop then s else s.tlbiDrop fn op (tlbiCtxid v) first (tlbiCount v)).rewalk fn
    s.updFunc f fun u => { u with tlbiIssued := (u.tlbiIssued + 1) % 2 ^ 32, tlbiPend := u.tlbiPend ++ [(v, waits)] }

/-- TLBI_NOP (R58). -/
def execTlbiNop (f : Nat) (cmd : BitVec 64) (s : State) : Out := .next (s.tlbi f 0 cmd)
/-- TLBI_RANGE_CTX (R58). -/
def execTlbiRangeCtx (f : Nat) (cmd : BitVec 64) (s : State) : Out := .next (s.tlbi f 1 cmd)
/-- TLBI_RANGE_ALL (R58). -/
def execTlbiRangeAll (f : Nat) (cmd : BitVec 64) (s : State) : Out := .next (s.tlbi f 2 cmd)
/-- TLBI_CTX (R58). -/
def execTlbiCtx (f : Nat) (cmd : BitVec 64) (s : State) : Out := .next (s.tlbi f 3 cmd)
/-- TLBI_FUNCTION (R58). -/
def execTlbiFunction (f : Nat) (cmd : BitVec 64) (s : State) : Out := .next (s.tlbi f 4 cmd)
/-- TLBI_STAGE2_RANGE (R58). -/
def execTlbiStage2Range (f : Nat) (cmd : BitVec 64) (s : State) : Out := .next (s.tlbi f 5 cmd)
/-- TLBI_FUNCTION_PF (R58). -/
def execTlbiFunctionPf (f : Nat) (cmd : BitVec 64) (s : State) : Out := .next (s.tlbi f 6 cmd)

/-- TLBI_CMD_REFUSED (R58): a malformed command sets REFUSED, one written while 16 are pending sets FULL. -/
def execTlbiCmdRefused (f : Nat) (cmd : BitVec 64) (s : State) : Out :=
  .next <|
    if s.shut f then s
    else if tlbiBad f cmd then s.updFunc f fun u => { u with tlbiRefused := true }
    else if 16 ≤ (s.func f).tlbiPend.length then s.updFunc f fun u => { u with tlbiFull := true }
    else s

/-- An access that a command waits for is not yet performed. -/
def State.stillBound (s : State) (r : LaneRef) : Bool :=
  if r.slot = 2 ^ 21 then s.remotes.has r.op
  else
    match s.laneAt r with
    | some (_, _, _, l) => match l.st with | .ready .. => true | _ => false
    | none => false

/-- TLBI_COMPLETE (R59): the oldest command of a window completes once its accesses are performed. -/
def execTlbiComplete (f : Nat) (s : State) : Out :=
  .next <| match (s.func f).tlbiPend with
    | [] => s
    | (v, ls) :: rest =>
      if ls.any s.stillBound then s
      else
        let s := s.updFunc f fun u => { u with tlbiPend := rest, tlbiDone := (u.tlbiDone + 1) % 2 ^ 32 }
        if !tlbiIrq v then s
        else if f = 128 then s.interrupt 128 17
        else (s.interrupt f 17).interrupt 128 17

end Sys2Proof.Machine
end

