-- ==== Sys2Proof/Machine/Preempt.lean ====
section
/-! DEFINITION. Pre-emption, the save of a context and its resume (20:R462-R466). -/

namespace Sys2Proof.Machine

/-! ## Pre-emption -/

/-- The slots of a context's gangs on a cluster, past gangs included. -/
def Cluster.slotsOf (k : Cluster) (x : Nat) : List Nat := (k.gangs.filter fun g => g.2.ctx == x).map (·.1)

/-- The partitions on which a context has blocks. -/
def State.partsOf (s : State) (x : Nat) : List Nat := ((s.clustersOf x).map partOf).eraseDups

/-- Begin the pre-emption of a resident context for a cause (R462, R463): 0 energy, 1 request, 2 fairness. Every gang of it
stops at its instruction boundary. -/
def State.preempt (s : State) (x cause : Nat) : State :=
  let c := s.ctx x
  if c.st ≠ 2 ∨ c.leaving.isSome then s
  else
    let ps := s.partsOf x
    let s := (s.dropWakes x false).updCtx x fun c => { c with leaving := some cause }
    let s := s.updFunc (fnOf x) fun u => { u with preCause := cause }
    let s : State := { s with clusters := s.clusters.map fun k => (k.1,
      { k.2 with gangs := k.2.gangs.map fun g => (g.1, if g.2.ctx = x then { g.2 with pstop := true } else g.2) }) }
    ps.foldl (fun s p => (s.count p (fnOf x) 0x031 1).trace p 6 (64 * p + 15) 0 x 2 0 0 0) s

/-- Fields of CTX_CMD (R462): a command whose reserved bits are zero. -/
def ctxOf (f ctx : Nat) : Nat := f * 4096 + ctx % 4096

/-- CTX_PREEMPT (R462): a request that names a context that is not resident is ignored. -/
def execCtxPreempt (f ctx : Nat) (s : State) : Out := .next (s.preempt (ctxOf f ctx) 1)

/-- CTX_CMD_END (R462): operation 2 ends the context; one that is not resident is ignored. -/
def execCtxCmdEnd (f ctx : Nat) (s : State) : Out :=
  .next <| if (s.ctx (ctxOf f ctx)).st = 2 then s.endContext (ctxOf f ctx) else s

/-! ## The save -/

/-- A lane that a save leaves pending or done (R463). -/
def LaneAcc.saveable (l : LaneAcc) : Bool :=
  match l.st with
  | .done | .faulted _ _ _ | .stalled => true
  | _ => false

/-- What is issued of a context has ended as R463 gives it: its accesses are complete or pending replay, its matrix commands
complete, no handler of it runs. -/
def State.settledCtx (s : State) (x : Nat) : Bool :=
  s.clusters.all fun k =>
    (k.2.gangs.all fun g => g.2.ctx != x || g.2.ops.all fun o => o.lanes.all (·.saveable)) &&
      (k.2.mxq.all fun c => c.ctx != x) &&
      (match k.2.handler with | some h => h.gang.ctx != x | none => true) &&
      (k.2.chanq.flatten ++ k.2.chainq).all fun c => c.ctx != x || c.asked.isNone

/-- Rows of a context that wait for room enter their queues, and their commands are complete (R463). -/
def State.flushRows (s : State) (x : Nat) : State :=
  s.clusters.foldl (fun s k =>
    let ss := k.2.slotsOf x
    (k.2.rowWait.filter fun w => ss.contains w.slot).foldl (fun s w => s.enterRow k.1 w) s) s

/-- A thread in a save: a `fence.sc` begins again (R463), and what a stop ends is ended (R387, R396). -/
def Thread.saved (t : Thread) : Thread :=
  match t.wait with
  | some (.fenceSc ..) => { t with wait := none }
  | _ => t.resumed

/-- The entries of a block's accumulator rows, counted from its first row. -/
def Block.rowsIn {α : Type} (b : Block) (m : FMap α) : FMap α :=
  (m.filter fun e => decide (b.accBase * 128 ≤ e.1 ∧ e.1 < (b.accBase + b.accRows) * 128)).map fun e => (e.1 - b.accBase * 128, e.2)

/-- The entries of a store outside as many rows as a block has from row `first` on. -/
def Block.rowsOut {α : Type} (b : Block) (first : Nat) (m : FMap α) : FMap α :=
  m.filter fun e => !decide (first * 128 ≤ e.1 ∧ e.1 < (first + b.accRows) * 128)

/-- A block as it is saved (R465). -/
def Cluster.saveBlock (k : Cluster) (key : Nat) (b : Block) : SavedBlock :=
  { key, blk := b
    gangs := (k.gangs.filter fun g => g.2.blk == key).map fun g =>
      (g.1, { g.2 with threads := g.2.threads.map Thread.saved
                       records := g.2.records ++ (k.taken ++ k.ring ++ k.held).filter fun r => r.gang == g.1 && r.ctxid == b.ctx % 4096 && !r.gone })
    scratch := k.scratchRead b.sbase b.ssize
    poisoned := (List.range (b.ssize / 4)).filterMap fun i =>
      if k.sramPoison.getD (k.scratchWord (b.sbase + 4 * i)) false then some (4 * i) else none
    acc := b.rowsIn k.acc
    accPoison := b.rowsIn k.accPoison
    rowqs := (List.range 4).filterMap fun q =>
      let e := k.rowqs.getD q (none, [])
      if e.1 = some key then some (q, e.2) else none }

/-- What is saved of one cluster (R465). -/
def Cluster.save (k : Cluster) (cl x : Nat) : SavedCluster :=
  { cl
    tids := k.tids.filter fun t => t.1 / 64 == x
    units := (List.range 8).filterMap fun i =>
      match k.units8[i]? with | some u => if u.ctx = some x then some (i, { u with tile := [], scales := [] }) else none | none => none
    arow := k.arow.filter fun a => a.ctx == x
    fifos := (k.fifosOf x).map fun b => (b, k.fifos.getD b ⟨none, 0, 0⟩,
      (k.sram.filter fun w => w.1 / 16384 == b).map fun w => (w.1 % 16384, w.2))
    fifoPoison := (k.fifosOf x).flatMap fun b => (k.sramPoison.filter fun w => w.2 && w.1 / 16384 == b).map (·.1)
    chans := (List.range 8).filterMap fun ch => (k.chans.find? (x * 8 + ch)).map fun r => (ch, r)
    blocks := (k.blocks.filter fun b => b.2.ctx == x).map fun b => k.saveBlock b.1 b.2
    copies := ((List.range 8).map fun ch => ((k.chanq.getD ch []).filter fun c => c.ctx == x).map fun c => (ch, c)).flatten
    chains := k.chainq.filter fun c => c.ctx == x }

/-- A size rounded up to a 256-byte boundary (R465). -/
def to256 (n : Nat) : Nat := ceilDiv n 256 * 256

/-- The bytes of one gang's record (R465): its state, its threads, its registers, its replay list. -/
def Gang.saveSize (g : Gang) : Nat :=
  let pending := fun (o : Op) => o.lanes.filter fun l => l.st != .done
  512 + 32 * 128 + 32 * g.allot * 4 +
    ((g.ops.filter fun o => !(pending o).isEmpty).map fun o => 64 + 24 * (pending o).length).sum

/-- The bytes that a save needs (R465). -/
def saveSize (cs : List SavedCluster) (responses : Nat) : Nat :=
  256 + to256 (8 * responses) + 18432 +
    (cs.map fun c =>
      7680 + 65536 * c.fifos.length + 256 * (c.copies.length + c.chains.length) +
        (c.blocks.map fun b =>
          to256 (256 + b.blk.ssize + 512 * b.blk.accRows) + (b.gangs.map fun g => to256 g.2.saveSize).sum).sum).sum

/-- A byte of the area: magic, version, then what the records hold (log 12, DESIGN CHOICE). -/
def saveByte (fresh i : Nat) : Byte :=
  if i < 4 then (toBytes 4 0x52534156).getD i 0 else if i = 4 then 1 else Config.saveImage fresh i

/-- Accesses to pieces of the area in order: the state, the bytes done before the first that faults or has to wait, and its end. -/
def swapPieces (one : State → Nat × Nat → State × Got Unit) : List (Nat × Nat) → State → State × Nat × Got Unit
  | [], s => (s, 0, .val ())
  | q :: qs, s =>
    match one s q with
    | (s, .val _) => let r := swapPieces one qs s; (r.1, r.2.1 + q.2, r.2.2)
    | (s, e) => (s, 0, e)

/-- The bytes of a context's save area from where it stands up to `n`, written or read on a partition (R464); how far that came is kept. -/
def State.swapArea (s : State) (p x n : Nat) (write : Bool) : State × Got Unit :=
  let at' := s.saveAt x
  let done := (s.ctx x).swapped
  let one := fun (s : State) (q : Nat × Nat) =>
    if write then s.gpaWrite1 p x q.1 ((List.range q.2).map fun i => saveByte s.fresh (q.1 - at' + i))
    else
      match s.gpaRead1 p x q with
      | (s, .val _) => (s, .val ())
      | (s, .fault) => (s, .fault)
      | (s, .waits) => (s, .waits)
  let r := swapPieces one (linePieces (at' + done) (n - done)) s
  (r.1.updCtx x fun c => { c with swapped := if r.2.2 = .val () then 0 else done + r.2.1 }, r.2.2)

/-- The responses that a save area has room for: one for each live request, those recorded among them (R56). -/
def State.responseRoom (s : State) (x : Nat) : Nat := (s.func (fnOf x)).live.countP (·.ctx == x) + (s.ctx x).responses.length

/-- A context's channel registers on the clusters that hold no block of it (R76). -/
def State.restChans (s : State) (x : Nat) : List (Nat × Nat × ChanReg) :=
  ((s.clusters.filter fun k => k.2.blocks.all fun b => b.2.ctx != x).map fun k =>
    (List.range 8).filterMap fun ch => (k.2.chans.find? (x * 8 + ch)).map fun r => (k.1, ch, r)).flatten

/-- They are put back where they stood, but for channels that another cluster's registers were restored to. -/
def State.putChans (s : State) (x : Nat) : State :=
  ((s.ctx x).chanRest.foldl (fun s e => s.updCluster e.1 fun k =>
    if k.chans.has (x * 8 + e.2.1) then k else { k with chans := k.chans.set (x * 8 + e.2.1) e.2.2 }) s).updCtx x fun c =>
      { c with chanRest := [] }

/-- The save of a context whose work has settled (R463-R465): the area is written, then its resources are released. -/
def State.saveContext (s : State) (x : Nat) : State :=
  if (s.ctx x).st ≠ 2 ∨ (s.ctx x).leaving = none ∨ !s.settledCtx x then s
  else
    let s := (s.flushRows x).abandon x
    let cs := (s.clusters.filter fun k => k.2.blocks.any fun b => b.2.ctx == x).map fun k => k.2.save k.1 x
    let n := saveSize cs (s.responseRoom x)
    let f := fnOf x
    if s.desc x 6 % 2 ^ 32 < n then s.saveFailed x
    else
      match { s with fresh := s.fresh + 1 }.swapArea (s.partOfCtx x) x n true with
      | (s, .waits) => s
      | (s, .fault) => s.saveFailed x
      | (s, .val _) =>
        let ps := s.partsOf x
        let rest := s.restChans x
        let s := (s.evict x false).updCtx x fun c => { c with st := 3, saved := cs, leaving := none, eligNs := s.timeNs, chanRest := rest }
        let s : State := { s with clusters := s.clusters.map fun k =>
          let mine := fun (r : TrapRec) => cs.any fun c => c.cl == k.1 && !r.gone && r.ctxid == x % 4096 &&
            (if r.pfn then 128 else r.vf) == f
          let k2 := if cs.any (·.cl == k.1) then k.2.dropChans x else { k.2 with chans := k.2.chans.filter fun c => c.1 / 8 != x }
          (k.1, { k2 with ring := k2.ring.filter (!mine ·), held := k2.held.filter (!mine ·), taken := k2.taken.filter (!mine ·) }) }
        ps.foldl (fun s p => s.clearBreaks p f) (s.showMeter f)

/-- CONTEXT_SAVE (R463). -/
def execContextSave (f ctx : Nat) (s : State) : Out := .next (s.saveContext (ctxOf f ctx))

/-! ## The resume -/

/-- A saved block put back on a cluster with its gangs (R466): `none` when it does not fit. New slots come back by old. The charges of the resume may have stopped its context. -/
def Cluster.putBlock (k : Cluster) (cycles : Nat) (stopped : Bool) (b : SavedBlock) : Option (Cluster × List (Nat × Nat)) :=
  let live := b.gangs.filter fun g => g.1 < 64
  match rowsFor (live.map fun g => g.2.allot) k.freeRows,
      lowestFit k.scratchUsed (k.scratchBanks.length * 65536) b.blk.ssize, lowestFit k.accUsed 1024 b.blk.accRows with
  | some rows, some sbase, some acc =>
    if b.rowqs.any fun q => (k.rowqs.getD q.1 (none, [])).1.isSome then none
    else
      let slots := slotsFor rows (k.slotted.map (·.1))
      let past := (b.gangs.filter fun g => 64 ≤ g.1).map fun g =>
        (g.1, (((List.range 1024).map fun i => g.1 % 128 + 128 * (i + 1)).find? fun i => !k.gangs.has i).getD 0)
      let ren := (live.map (·.1)).zip slots ++ past
      let to' := fun (n : Nat) => ((ren.find? fun r => r.1 == n).map (·.2)).getD n
      let shift := fun (n : Nat) => n + acc - b.blk.accBase
      let mk := fun (g : Gang) =>
        let g : Gang := { g with
          pstop := false, estop := stopped, picked := cycles, records := if g.tstop then [] else g.records, threads := g.threads.map fun t => { t with wake := true } }
        if g.acclim = 0 then g else { g with accbase := shift g.accbase, acclim := shift g.acclim }
      let blk : Block := { b.blk with sbase, accBase := acc, gangs := b.blk.gangs.map fun g => g.map to' }
      let k : Cluster := { k with
        blocks := k.blocks.set b.key blk
        gangs := b.gangs.foldl (fun m g => m.set (to' g.1) (mk g.2)) k.gangs
        acc := b.acc.foldl (fun m e => m.set (e.1 + acc * 128) e.2) (b.blk.rowsOut acc k.acc)
        accPoison := b.accPoison.foldl (fun m e => m.set (e.1 + acc * 128) e.2) (b.blk.rowsOut acc k.accPoison)
        rowqs := b.rowqs.foldl (fun m q => m.set q.1 (some b.key, q.2)) k.rowqs }
      let k := k.scratchWrite sbase b.scratch
      some ({ k with sramPoison := b.poisoned.foldl (fun m o => m.set (k.scratchWord (sbase + o)) true) k.sramPoison }, ren)
  | _, _, _ => none

/-- The blocks of one saved cluster put on a cluster together; `none` when they do not fit (log 12, DESIGN CHOICE). -/
def Cluster.putBlocks (cycles : Nat) (stopped : Bool) : List SavedBlock → Cluster → Option (Cluster × List (Nat × Nat))
  | [], k => some (k, [])
  | b :: bs, k =>
    match k.putBlock cycles stopped b with
    | none => none
    | some (k, r) => (Cluster.putBlocks cycles stopped bs k).map fun p => (p.1, r ++ p.2)

/-- A saved cluster restored onto a cluster: tables, FIFOs, the A row buffer, channels, blocks and checkpoints (R466). -/
def Cluster.restore (k : Cluster) (cl x cycles : Nat) (stopped : Bool) (c : SavedCluster) : Option Cluster :=
  if c.fifos.any fun f => k.mode f.1 != 2 || (k.fifos.getD f.1 ⟨none, 0, 0⟩).owner.isSome then none
  else
    match Cluster.putBlocks cycles stopped c.blocks k with
    | none => none
    | some (k, ren) =>
      let to' := fun (n : Nat) => ((ren.find? fun r => r.1 == n).map (·.2)).getD n
      let cmd := fun (m : Cmd) => ({ m with slot := to' m.slot } : Cmd)
      let k : Cluster := { k with
        tids := c.tids.foldl (fun m t => m.set t.1 t.2) k.tids
        fifos := c.fifos.foldl (fun m f => m.set f.1 f.2.1) k.fifos
        sram := c.fifos.foldl (fun m f => f.2.2.foldl (fun m w => m.set (f.1 * 16384 + w.1) w.2) m) k.sram
        sramPoison := c.fifoPoison.foldl (fun m w => m.set w true) k.sramPoison
        arow := k.arow ++ c.arow.map fun a => { a with slot := to' a.slot }
        units8 := c.units.foldl (fun m u => m.set u.1 u.2) k.units8
        chans := c.chans.foldl (fun m r => m.set (x * 8 + r.1) r.2) k.chans
        chanq := c.copies.foldl (fun m r => m.modify r.1 (· ++ [cmd r.2])) k.chanq
        chainq := k.chainq ++ c.chains.map cmd
        kcache := k.kcache.filter fun e => e.1 != x
        icache := k.icache.filter (·.ctx != x) }
      let back := (c.blocks.map fun b => b.gangs.filter fun g => g.2.tstop).flatten
      some (back.foldl (fun k g => g.2.records.foldl (fun k r => k.report { r with gang := to' g.1 % 128, cluster := cl }) k) k)

/-- The best cluster for a saved cluster among some partitions, none of those already taken (R412, R466). -/
def State.bestRestore (s : State) (x : Nat) (c : SavedCluster) (taken ps : List Nat) : Option (Nat × Cluster) :=
  ((ps.flatMap fun p => (List.range 4).map (4 * p + ·)).filter fun cl => !taken.contains cl).foldl (fun b cl =>
    match (s.cluster cl).restore cl x s.cycles (s.ctx x).stopped c, b with
    | none, b => b
    | some k, none => some (cl, k)
    | some k, some d => if keyGt (s.cluster cl).placeKey (s.cluster d.1).placeKey then some (cl, k) else some d) none

/-- Every saved cluster of a context placed on a cluster of its own; `none` when one does not fit. The new clusters come
back. -/
def State.placeSaved (x : Nat) : List SavedCluster → List Nat → State → Option (State × List Nat)
  | [], taken, s => some (s, taken)
  | c :: cs, taken, s =>
    let f := fnOf x
    let r := match s.bestRestore x c taken ((s.permitted f).filter fun p => s.holder p == some f) with
      | some r => some r
      | none => s.bestRestore x c taken ((s.permitted f).filter fun p => (s.holder p).isNone)
    match r with
    | none => none
    | some (cl, k) => State.placeSaved x cs (cl :: taken) { s with clusters := s.clusters.set cl k }

/-- The compute arrays of a context on a cluster are loaded again from memory as it stands (R366, R466), as an `mx.ldb` of the recorded
identifier and origin would load them; what stops an access is given, and an entry that `mx.ldb` refuses (log 83, DEDUCED). -/
def State.reloadUnits (s : State) (x cl : Nat) : State × Option EngStop :=
  (List.range 8).foldl (fun (acc : State × Option EngStop) i =>
    match acc.2, (acc.1.cluster cl).units8[i]? with
    | none, some u =>
      if u.ctx ≠ some x then acc
      else
        let t := tensorOf ((acc.1.cluster cl).tids.getD (x * 64 + u.tid) [])
        if tileRefused t u.col0 then (acc.1, some (.trap { cls := clsIllegalOperand, eng := 4 })) else
        match readTile { cl, x, eng := 4, own := [], unit := 13 } t 0x00040000 ((List.range 128).map fun n => (u.row0 + n, u.col0)) acc.1 with
        | (s, .inr e) => (s, some e)
        | (s, .inl rows) =>
          let v := { u with fmt := tierOf t.fmt, sg := t.sg == 1, tile := rows.map (·.1), scales := rows.map (·.2) }
          (s.updCluster cl fun k => { k with units8 := k.units8.set i v }, none)
    | _, _ => acc) (s, none)

/-- Responses accepted while the context was not resident are acted on (R56). -/
def State.actSaved (s : State) (x : Nat) (rs : List (PageReq × Nat)) : State :=
  rs.foldl (fun s r => if (s.ctx x).st ≠ 2 then s else s.actResponse (fnOf x) r.1.seq r.2 r.1) s

/-- A context placed again on clusters whose area has been read (R466): its compute arrays loaded, its responses acted on; its
clusters wake through the limiter. A load that has to wait leaves the context saved, with what it asked for. -/
def State.takeUp (s0 s : State) (x : Nat) (cls : List Nat) : State :=
  let rs := (s.ctx x).responses
  let s := cls.foldl (fun s cl => s.wakeCluster cl) (s.updCtx x fun c => { c with saved := [], responses := [] })
  let s : State := { s with launches := s.launches.map fun n =>
    (n.1, if n.2.ctx = x then { n.2 with clusters := (n.2.clusters ++ cls).eraseDups } else n.2) }
  match cls.foldl (fun (acc : State × Option EngStop) cl => if acc.2.isNone then acc.1.reloadUnits x cl else acc) (s, none) with
  | (s, some (.again (.walk _ _ _) _)) | (s, some (.trap _)) => s.saveFailed x
  | (s, some e) => (s0.engAgain s e).1
  | (s, none) =>
    let s := (s.forgetUnits fun k => k.x == x && k.unit == 13).putChans x
    let ls := s.lanesWhere fun _ g _ l => g.ctx == x && l.st == .stalled
    let s := s.setLanes ls .fresh
    let s := (s.actSaved x rs).startOps (opsOf ls)
    (s.partsOf x).foldl (fun s p => s.trace p 7 (64 * p + 15) 0 x 0 0 0 0) s

/-- The resume of a saved context (R466): it is placed whole once its area has been read. -/
def State.resumeContext (s : State) (x : Nat) : State :=
  let c := s.ctx x
  if c.st ≠ 3 then s
  else
    let s := s.sampleRoots x
    match State.placeSaved x c.saved [] (s.becomeResident x) with
    | none => s
    | some (_, cls) =>
      match s.swapArea (partOf (cls.headD 0)) x (saveSize c.saved (s.responseRoom x)) false with
      | (s, .waits) => s
      | (s, .fault) => s.saveFailed x
      | (s, .val _) =>
        match State.placeSaved x c.saved [] (s.becomeResident x) with
        | none => s
        | some (s1, cls) => s.takeUp s1 x cls

/-- CONTEXT_RESUME (R466). -/
def execContextResume (f ctx : Nat) (s : State) : Out :=
  .next <| if (s.ctx (ctxOf f ctx)).stopped then s else (s.resumeContext (ctxOf f ctx)).noteBelow

end Sys2Proof.Machine
end

