-- ==== Sys2Proof/Machine/Contexts.lean ====
section
/-! DEFINITION. Creating, destroying and ending contexts, and the descriptor window (22:R486-R489). -/

namespace Sys2Proof.Machine

/-- The bits of descriptor word `w` that software may write (R487); reserved bits read zero and ignore writes (R7, R22). -/
def descMask (w : Nat) : Nat :=
  if w = 0 then 2 ^ 64 - 2 ^ 16 + 1
  else if w = 1 then 0xFF
  else if w = 2 then 2 ^ 62 - 1
  else if w = 3 then 2 ^ 64 - 1
  else if w = 5 then 2 ^ 52 - 2 ^ 16
  else if w = 6 then 2 ^ 32 - 1
  else if w = 7 then 2 ^ 52 - 2 ^ 12 + 15
  else if w = 8 then 2 ^ 32 - 1
  else if 10 ≤ w ∧ w ≤ 26 then 2 ^ 64 - 1
  else 0

/-- The checks of a create (R488): reserved bits zero, each handler zero or a canonical address of four bytes. -/
def State.badDesc (s : State) (x : Nat) : Bool :=
  ((List.range 32).any fun w => w != 4 && w != 9 && (s.stagedWord x w &&& (2 ^ 64 - 1 - descMask w)) != 0) ||
  ((List.range 17).any fun i => let h := s.stagedWord x (10 + i); h != 0 && (!canonical h || h % 4 != 0))

/-- CTX_STAT.RESULT (R488). -/
def State.ctxResult (s : State) (f r : Nat) : State := s.updFunc f fun u => { u with ctxResult := r }

/-- Forget what is staged for a context. -/
def State.unstage (s : State) (x : Nat) : State :=
  s.updFunc (fnOf x) fun u => { u with staged := u.staged.filter fun e => e.1 / 32 != x % 4096 }

/-- A create that passed its checks (R488): the descriptor stands in the table, with E2 zero and FRTAIL at FRHEAD; the context is
Idle with a meter at zero, and its bucket holds it back until a tick fills it (R435, R439). -/
def State.createCtx (s : State) (x : Nat) : State :=
  let ws := (List.range 32).map fun w => if w = 4 ∨ w = 9 then 0 else s.stagedWord x w
  let head := ws.getD 8 0
  let s := ((List.range 32).zip (ws.set 8 (head * 2 ^ 32 + head))).foldl (fun s w => s.setDesc x w.1 w.2) s
  (({ s with ctxs := s.ctxs.set x { Ctx.new with st := 1, stopped := true } }).unstage x).dropChans x

/-- CTX_CREATE (R488). -/
def execCtxCreate (f : Nat) (s : State) : Out :=
  .next <|
    let x := s.selected f
    if s.shut f then s
    else if (s.ctx x).st ≠ 0 then s.ctxResult f 2
    else if !(s.func f).tblOn then s.ctxResult f 3
    else if s.badDesc x then s.ctxResult f 1
    else (s.createCtx x).ctxResult f 0

/-- A queue with EN = 1 is bound to a context (R488). -/
def State.bound (s : State) (x : Nat) : Bool :=
  (List.range 16).any fun q => let u := (s.func (fnOf x)).queue q; u.on && u.ctxOf (fnOf x) == x

/-- CTX_DESTROY (R488): the context becomes Free and its descriptor reads its reset values. -/
def execCtxDestroy (f : Nat) (s : State) : Out :=
  .next <|
    let x := s.selected f
    if s.shut f then s
    else if ((s.ctx x).st ≠ 1 ∧ (s.ctx x).st ≠ 4) ∨ s.bound x = true then s.ctxResult f 2
    else
      let s := (List.range 32).foldl (fun s w => s.setDesc x w (descReset w)) s
      ((({ s with ctxs := s.ctxs.del x }).unstage x).dropChans x).ctxResult f 0

/-- CTX_OP_END (R488). -/
def execCtxOpEnd (f : Nat) (s : State) : Out :=
  .next <|
    let x := s.selected f
    if s.shut f then s
    else if (s.ctx x).st = 0 ∨ (s.ctx x).st = 4 then s.ctxResult f 2
    else (s.endContext x).ctxResult f 0

/-- CTX_OP_REFUSED (R488). -/
def execCtxOpRefused (f : Nat) (v : BitVec 64) (s : State) : Out :=
  .next <|
    if s.shut f ∨ (1 ≤ v.toNat % 16 ∧ v.toNat % 16 ≤ 3) then s else s.ctxResult f 4

/-- A write of word `w` of a descriptor in the table (R487, R488): FRLOST is cleared by a one, a new fault ring starts with FRTAIL
at FRHEAD. -/
def State.writeDesc (s : State) (x w v : Nat) : State :=
  let m := descMask w
  if w = 9 then (if v % 2 = 1 then s.setDesc x 9 0 else s)
  else if w = 7 then
    let head := s.desc x 8 % 2 ^ 32
    (s.setDesc x 7 (v &&& m)).setDesc x 8 (head * 2 ^ 32 + head)
  else if m = 0 then s
  else s.setDesc x w ((s.desc x w &&& (2 ^ 64 - 1 - m)) ||| (v &&& m))

/-- DESCRIPTOR_WRITE (R488): staged while the selected context is Free. -/
def execDescriptorWrite (f word : Nat) (v : BitVec 64) (s : State) : Out :=
  .next <|
    let x := s.selected f
    if s.shut f ∨ 32 ≤ word then s
    else if (s.ctx x).st = 0 then
      if descMask word = 0 then s
      else s.updFunc f fun u =>
        { u with staged := u.staged.set (x % 4096 * 32 + word) (v &&& BitVec.ofNat 64 (descMask word)) }
    else s.writeDesc x word v.toNat

end Sys2Proof.Machine
end

