-- ==== Sys2Proof/Machine/Control.lean ====
section
/-! DEFINITION. The control-flow instructions: major 0x2C (15:R336-R344). -/

namespace Sys2Proof.Machine

/-- A byte-offset literal added to the base word's address modulo 2^64 (R336). -/
def offsetTarget (a : DWord) (lit : BitVec 32) : DWord := a + lit.signExtend 64

/-- H: the header after the clause of the issuing threads (R338). -/
def Ctxt.nextHeader (c : Ctxt) : DWord :=
  match (c.g.thread (c.q.lanes.headD 0)).clause with
  | some k => k.next
  | none => c.q.addr

/-- Stack entry layout (R337): KIND in bits 31:30, OFFSET in words from ENTRY in bits 29:0. -/
def stackEntry (kind : Nat) (entry a : DWord) : Nat :=
  kind * 2 ^ 30 + code 30 (sgn 64 (a - entry).toNat / 4)

/-- An address lies between ENTRY − 2^31 and ENTRY + 2^31 − 4 (R337). -/
def pushOk (entry a : DWord) : Bool :=
  let d := sgn 64 (a - entry).toNat
  decide (-(2 ^ 31 : Int) ≤ d ∧ d ≤ 2 ^ 31 - 4)

/-- The address a stack entry records: ENTRY + 4 × sext(OFFSET). -/
def entryAddr (entry : DWord) (n : Nat) : DWord := entry + BitVec.ofInt 64 (4 * sgn 30 n)

/-- The top stack entry of a thread, in register U + SCNT − 1. -/
def Thread.top (t : Thread) (u : Nat) : Option Nat := if t.scnt = 0 then none else some (t.reg (u + t.scnt - 1))

/-- A push into register U + SCNT. -/
def Thread.push (t : Thread) (u n : Nat) : Thread := { t.setReg (u + t.scnt) n with scnt := t.scnt + 1 }

/-- The traps of a push by the active lanes, in the order of R339: divergence overflow, then an address out of range. -/
def pushTrap (c : Ctxt) (ok : Nat → Bool) : Option TrapRec :=
  match c.act.filter fun l => decide (c.g.depth ≤ (c.g.thread l).scnt) with
  | l :: ls => some (trapOf clsDivergence (l :: ls))
  | [] =>
    match c.act.filter fun l => !ok l with
    | l :: ls => some (trapOf clsIllegalOperand (l :: ls))
    | [] => none

/-- The integer toll of minors 0 to 9 (R336). -/
def chargeCtl (s : State) (c : Ctxt) : State := chargeLanes s c 1 1

/-- Each active lane transfers to its target. -/
def transfers (c : Ctxt) (t : Nat → DWord) : List (Nat × DWord) := c.act.map fun l => (l, t l)

def execBra (f : Fields) (lit : BitVec 32) (s : State) : Out :=
  issueWith (.bra f lit) f s fun c s => .go (chargeCtl s c) (transfers c fun _ => offsetTarget c.q.addr lit)

/-- brp (R338): signed word offsets o1 in literal bits 31:16 and o2 in bits 15:0. -/
def brpTarget (a : DWord) (lit : BitVec 32) (taken : Bool) : DWord :=
  a + BitVec.ofInt 64 (4 * sgn 16 (if taken then lit.toNat / 2 ^ 16 else lit.toNat))

def execBrp (f : Fields) (lit : BitVec 32) (s : State) : Out :=
  issueWith (.brp f lit) f s fun c s =>
    .go (chargeCtl s c) (transfers c fun l =>
      brpTarget c.q.addr lit ((c.g.thread l).pred (f.vd.toNat % 8) != bitOf f.vd.toNat 3))

/-- The conditions of a computed target (R339): misaligned lanes take an alignment fault, others that are not
canonical an address-form fault; the lowest lane decides the class, each lane has its cause. -/
def targetTrap (c : Ctxt) (t : Nat → Nat) : Option TrapRec :=
  let cause := fun l => if !canonical (t l) then 1 else if t l % 4 != 0 then 3 else 0
  match c.act.filter fun l => cause l != 0 with
  | [] => none
  | l :: ls =>
    some { cls := if cause l = 3 then clsAlignment else clsAccess, subtype := if cause l = 3 then 0 else 1
           faddr := BitVec.ofNat 64 (t l), lanemask := maskOf (l :: ls)
           lcause := (l :: ls).foldl (fun a m => a + cause m * 2 ^ (4 * m)) 0 }

def execBrx (f : Fields) (s : State) : Out :=
  issueWith (.brx f) f s fun c s =>
    match targetTrap c (c.a 2) with
    | some r => .trap r
    | none => .go (chargeCtl s c) (transfers c fun l => BitVec.ofNat 64 (c.a 2 l))

/-- The return entry of a call pushed in each active lane. -/
def pushReturn (c : Ctxt) (s : State) : State :=
  s.updIss c.q (·.updLanes c.act fun _ t => t.push c.g.usable (stackEntry 0 c.g.entry c.nextHeader))

def execCall (f : Fields) (lit : BitVec 32) (s : State) : Out :=
  issueWith (.call f lit) f s fun c s =>
    match pushTrap c fun _ => pushOk c.g.entry c.nextHeader with
    | some r => .trap r
    | none => .go (pushReturn c (chargeCtl s c)) (transfers c fun _ => offsetTarget c.q.addr lit)

def execCallx (f : Fields) (s : State) : Out :=
  issueWith (.callx f) f s fun c s =>
    match pushTrap c fun _ => pushOk c.g.entry c.nextHeader with
    | some r => .trap r
    | none =>
      match targetTrap c (c.a 2) with
      | some r => .trap r
      | none => .go (pushReturn c (chargeCtl s c)) (transfers c fun l => BitVec.ofNat 64 (c.a 2 l))

/-- ret (R338, R339): an empty stack or a top entry of KIND 1 or 2 is a return underflow. -/
def execRet (f : Fields) (s : State) : Out :=
  issueWith (.ret f) f s fun c s =>
    let u := c.g.usable
    match c.act.filter fun l => match (c.g.thread l).top u with | some n => n / 2 ^ 30 == 1 || n / 2 ^ 30 == 2 | none => true with
    | l :: ls => .trap (trapOf clsReturnUnderflow (l :: ls))
    | [] =>
      .go ((chargeCtl s c).updIss c.q (·.updLanes c.act fun _ t => { t with scnt := t.scnt - 1 }))
        (transfers c fun l => entryAddr c.g.entry (((c.g.thread l).top u).getD 0))

/-- The headers H₀ to H_k after a clause, each read through instruction fetch (R341); the fault of the first that cannot be
read. -/
def headerWalk (q : Issue) (x : Nat) (own : List Nat) : Nat → DWord → State → List DWord → State × List DWord × Option Fetched
  | 0, h, s, acc => (s, acc ++ [h], none)
  | k + 1, h, s, acc =>
    match fetchWords s q.cl x own h.toNat 1 with
    | (s, .words ws) =>
      headerWalk q x own k (h + BitVec.ofNat 64 (4 * (bitsOf (ws.headD 0).toNat 18 6 + 1))) s (acc ++ [h])
    | (s, r) => (s, acc, some r)

/-- The case index of a lane (R341): 0 for the default, i + 1 for the lowest matching case. -/
def switchCase (f : Fields) (lit : BitVec 32) (a : Nat) : Nat :=
  let n := auxBits f 0 3 + 1
  match (List.range n).find? fun i => a == code 32 (sgn 8 (auxBits f 3 8) + bitsOf lit.toNat (4 * i) 4) with
  | some i => i + 1
  | none => 0

def execSwitch (f : Fields) (lit : BitVec 32) (s : State) : Out :=
  issueWith (.switch f lit) f s fun c s =>
    let top := (c.act.map fun l => switchCase f lit (c.a 1 l)).foldl Nat.max 0
    match headerWalk c.q c.g.ctx c.g.ownIds top c.nextHeader s [] with
    | (s, _, some r) => fetchFault s c r
    | (s, hs, none) =>
      .go (chargeCtl s c) (transfers c fun l => hs.getD (switchCase f lit (c.a 1 l)) c.nextHeader)

/-- exit (R181, R338): the thread dies; only the issue toll. In scalar mode v1 decides the outcome (R459). -/
def execExit (f : Fields) (s : State) : Out :=
  issueWith (.exit f) f s fun c s =>
    if c.q.scalar then
      if c.act = [] then .go s []
      else .go (s.updCluster c.q.cl fun k =>
        { k with handler := k.handler.map fun h => { h with verdict := some (Nat.min 2 ((c.g.thread 0).reg 1)) } }) []
    else .go (s.updIss c.q (·.updLanes c.act fun _ t => { t with live := false })) []

/-- meet (R340): push the current MR, then MR := M. -/
def execMeet (f : Fields) (lit : BitVec 32) (s : State) : Out :=
  issueWith (.meet f lit) f s fun c s =>
    let mr := fun l => (c.g.thread l).mr
    let none64 := BitVec.allOnes 64
    match pushTrap c fun l => mr l == none64 || pushOk c.g.entry (mr l) with
    | some r => .trap r
    | none =>
      .go ((chargeCtl s c).updIss c.q (·.updLanes c.act fun l t =>
        { t.push c.g.usable (if mr l = none64 then 2 * 2 ^ 30 else stackEntry 1 c.g.entry (mr l)) with
          mr := offsetTarget c.q.addr lit })) []

/-- The loop state an active lane takes (R342). With count 0 the level stays empty and the thread leaves the clause for
the header after the end clause; of several such loops of one clause the last decides (log 151, DESIGN CHOICE). -/
def setLoop (t : Thread) (lv : Nat) (cnt : Nat) (e h after : DWord) (own : DWord) : Thread :=
  let l : Option LoopLevel := if cnt = 0 then none else some ⟨BitVec.ofNat 32 cnt, e, h⟩
  let t := if lv = 0 then { t with loop0 := l } else { t with loop1 := l }
  { t with skip := if cnt = 0 then some (own, after) else t.skip }

def execLoop (f : Fields) (lit : BitVec 32) (s : State) : Out :=
  issueWith (.loop f lit) f s fun c s =>
    let e := offsetTarget c.q.addr lit
    let own := fun l => match (c.g.thread l).clause with | some k => k.hdr | none => c.q.addr
    let zero := c.act.any fun l => c.a 1 l == 0
    match if zero then headerWalk c.q c.g.ctx c.g.ownIds 1 e s [] else (s, [e, e], none) with
    | (s, _, some r) => fetchFault s c r
    | (s, hs, none) =>
      .go ((chargeCtl s c).updIss c.q (·.updLanes c.act fun l t =>
        setLoop t f.vd.toNat (c.a 1 l) e c.nextHeader (hs.getD 1 e) (own l))) []

def execNop (f : Fields) (s : State) : Out := issueWith (.nop f) f s fun _ s => .go s []

/-- The cycle count of the issuing cluster. -/
def State.cycle (s : State) (_ : Nat) : Nat := s.cycles

/-- yield (R344): the active threads are ineligible until the gang issues at another PC, or for 32 cycles. -/
def execYield (f : Fields) (s : State) : Out :=
  issueWith (.yield f) f s fun c s =>
    .go (s.updIss c.q (·.updLanes c.act fun _ t => { t with
      wait := some (.yield (t.nextInstr (encode (.yield f)).length) (s.cycle c.q.cl + 32)) })) []

end Sys2Proof.Machine
end

