-- ==== Sys2Proof/Machine/Queues.lean ====
section
/-! DEFINITION. The queue manager and the dispatcher: doorbells and entries (18:R397-R406, 22:R489, R493, R494), launch headers
(08:R186-R192), the choice of a context (18:R407-R410) and the slew limiter (18:R419-R422). -/

namespace Sys2Proof.Machine

/-! ## Queue registers -/

/-- SQ_TAIL (R398): a tail that is no index of the ring is ignored and sets BADTAIL. -/
def execSqTail (f q : Nat) (v : BitVec 64) (s : State) : Out :=
  .next <| if s.shut f then s else s.updQueue f q fun u =>
    if u.sqSize ≤ v.toNat then { u with stat := u.stat ||| 1 } else { u with tail := v.toNat }

/-- CQ_HEAD (R406): the waiting completions that now have room are made. -/
def execCqHead (f q : Nat) (v : BitVec 64) (s : State) : Out :=
  .next <|
    if s.shut f then s
    else
    let s := s.updQueue f q fun u => { u with cqHead := v.toNat }
    State.flushDone f q ((s.func f).queue q).waiting.length s

/-- A write of SQ_CTL (R398, R399, R494): reserved bits stay zero, the sizes keep while EN is 1; EN from 0 to 1 restarts the
counts. -/
def State.writeSqCtl (s : State) (f q : Nat) (v : DWord) : State :=
  s.updQueue f q fun u =>
    let w := v.toNat
    let sizes := if u.on then bitsOf u.ctl.toNat 8 8 else bitsOf w 8 8
    let c := BitVec.ofNat 64 (bitsOf w 52 12 * 2 ^ 52 + bitsOf w 18 2 * 2 ^ 18 + sizes * 2 ^ 8 + bitsOf w 0 2)
    if !u.on && bitOf w 0 then { u with ctl := c, consumed := 0, nextCseq := 1 } else { u with ctl := c }

/-- SQ_CTL_ENABLE (R494). -/
def execSqCtlEnable (f q : Nat) (v : BitVec 64) (s : State) : Out :=
  .next <|
    if s.shut f then s
    else
    let s := s.writeSqCtl f q v
    State.flushDone f q ((s.func f).queue q).waiting.length s

/-! ## Launch headers (R186-R192, R194) -/

/-- Fields of a header's words. -/
def hdrRole (w : List Nat) (r : Nat) : Role :=
  let a := w.getD (9 + 2 * r) 0
  { entry := BitVec.ofNat 64 (w.getD (8 + 2 * r) 0), mx := bitOf a 15, cp := bitOf a 14, ch := bitOf a 13
    gangs := bitsOf a 6 7, allot := 8 * bitsOf a 0 5 }

/-- NROLE plus one. -/
def hdrRoles (w : List Nat) : Nat := bitsOf (w.getD 0 0) 16 2 + 1

/-- A header is malformed (R187). -/
def hdrBad (w : List Nat) : Bool :=
  let g := fun i => w.getD i 0
  let n := hdrRoles w
  let d := bitsOf (g 0) 18 6
  let level := bitsOf (g 0) 0 8
  bitsOf (g 0) 24 8 != 0 || bitsOf (g 0) 9 7 != 0 || bitsOf (g 1) 44 9 != 0 || g 5 != 0 || g 6 != 0 || g 7 != 0 ||
    level == 0 || decide (3 < level) || decide (32 < d) || decide (1024 < bitsOf (g 1) 53 11) || decide (2048 < bitsOf (g 1) 32 12) ||
    bitsOf (g 1) 0 32 == 0 || bitsOf (g 2) 48 16 == 0 || bitsOf (g 2) 32 16 == 0 ||
    !canonical (g 3) || g 3 % 256 != 0 ||
    ((List.range 4).any fun r =>
      let e := g (8 + 2 * r)
      let a := g (9 + 2 * r)
      if n ≤ r then e != 0 || a != 0
      else
        a / 2 ^ 16 != 0 || bitOf a 5 || bitsOf a 6 7 == 0 || decide (64 < bitsOf a 6 7) || bitsOf a 0 5 == 0 ||
          decide (16 < bitsOf a 0 5) || decide (8 * bitsOf a 0 5 ≤ d) || !canonical e || e % 4 != 0) ||
    decide (64 < ((List.range n).map fun r => bitsOf (g (9 + 2 * r)) 6 7).sum)

/-- The launch that a header describes, with its queue entry. -/
def hdrLaunch (x q : Nat) (e : Entry) (w : List Nat) (member : List (List Nat)) : Launch :=
  let g := fun i => w.getD i 0
  { ctx := x, queue := q, seq := e.seq, compAddr := e.compAddr, compInc := e.compInc
    coop := bitOf (g 0) 8 || g 4 != 0, gridX := bitsOf (g 1) 0 32, gridY := bitsOf (g 2) 32 16, gridZ := bitsOf (g 2) 48 16
    accRows := bitsOf (g 1) 53 11, scratch := 1024 * bitsOf (g 1) 32 12, fifomask := bitsOf (g 0) 32 32, depth := bitsOf (g 0) 18 6
    cbase := BitVec.ofNat 64 (g 3), csize := bitsOf (g 2) 0 32, roles := (List.range (hdrRoles w)).map (hdrRole w)
    acq := e.depAddr != 0, member, placed := 0, ended := 0, clusters := [], arrived := 0, phase := 0, since := 0
    waited := false, lost := 0, fault := none }

/-- Blocks of a launch's grid. -/
def Launch.total (n : Launch) : Nat := n.gridX * n.gridY * n.gridZ

/-- A cluster with nothing on it. -/
def Cluster.emptied (k : Cluster) : Cluster :=
  { k with blocks := [], gangs := [], fifos := [], drains := [] }

/-- The blocks of a launch that an empty cluster holds, up to a bound (R191, R194). -/
def Cluster.holds (n : Launch) : Nat → Nat → Cluster → Nat
  | 0, i, _ => i
  | m + 1, i, k =>
    match k.fits n with
    | none => i
    | some ft =>
      let slots := slotsFor ft.rows (k.slotted.map (·.1))
      let gs := n.gangRoles
      let b : Block := { ctx := n.ctx, launch := 0, lin := i, bx := 0, by' := 0, bz := 0, sbase := ft.sbase, ssize := n.scratch
                         accBase := ft.acc, accRows := n.accRows, cbase := 0, csize := 0, gangs := slots.map some, groups := []
                         coop := false, gridBlocks := 0, fifomask := 0 }
      let mk := fun j => let r := gs.getD j (0, ⟨0, false, false, false, 0, 0⟩); Gang.start n.ctx i j r.1 r.2 n.depth 0
      Cluster.holds n m (i + 1)
        { k with blocks := k.blocks.set i b, gangs := (List.range slots.length).foldl (fun m j => m.set (slots.getD j 0) (mk j)) k.gangs }

/-- The clusters a function may use. -/
def State.mayUse (s : State) (f : Nat) : List Cluster :=
  ((s.permitted f).map fun p => (List.range 4).map fun i => (s.cluster (4 * p + i)).emptied).flatten

/-- A launch is too large (R187, R194): one block fits no empty cluster, or a cooperative grid does not fit the partitions. With
no permitted partition one block is judged on a cluster as reset leaves it. -/
def State.tooLarge (s : State) (n : Launch) : Bool :=
  let ks := s.mayUse (fnOf n.ctx)
  let ks1 := if ks = [] then [Cluster.reset] else ks
  (ks1.all fun k => (k.fits n).isNone) ||
    (n.coop && decide ((ks.map fun k => Cluster.holds n (Nat.min n.total 64) 0 k).sum < n.total))

/-- A claimed FIFO bank is in FIFO mode on no cluster of the function's partitions (R187). -/
def State.noFifo (s : State) (n : Launch) : Bool :=
  (bitList 32 n.fifomask).any fun b => (s.mayUse (fnOf n.ctx)).all fun k => k.mode b != 2

/-- The groups of a member-map entry (R192); `none` when it is malformed. -/
def mapEntry (w : Nat) : Option (List Nat) :=
  let fs := (List.range 4).map fun j => bitsOf w (16 * j) 16
  let gs := (fs.filter (bitOf · 15)).map (· % 256)
  if fs.any (fun f => bitsOf f 8 7 != 0) || gs.eraseDups.length != gs.length then none else some gs

/-- The entries of a member map. -/
def mapEntries (bs : List Byte) : Nat → Option (List (List Nat))
  | 0 => some []
  | n + 1 =>
    match mapEntries bs n, mapEntry (fromBytes ((bs.drop (8 * n)).take 8)) with
    | some gs, some g => some (gs ++ [g])
    | _, _ => none

/-- The member map of a header, read whole (R192): a fault is MAP_FAULT. So is an address that R186 does not allow, one that is not canonical
or not 8-byte aligned (log 179, DESIGN CHOICE). -/
def State.readMap (s : State) (x at' total : Nat) : State × Got (List (List Nat)) :=
  if at' = 0 then (s, .val [])
  else if at' % 8 ≠ 0 then (s, .fault)
  else
    match s.qRead x at' (8 * total) with
    | (s, .waits) => (s, .waits)
    | (s, .fault) => (s, .fault)
    | (s, .val bs) => (s, match mapEntries bs total with | some m => .val m | none => .fault)

/-- A header judged (R187): the launch it starts, or the status it is refused with. A header address that is not 128-byte
aligned counts as one that cannot be read. Of several conditions that hold, MALFORMED is reported before FIFO_UNAVAILABLE, that
before TOO_LARGE, that before the map's MAP_FAULT (log 138, DESIGN CHOICE). Where a read has to wait, the whole is judged
again. -/
def State.judgeHeader (s : State) (x q : Nat) (e : Entry) : State × Got (Launch ⊕ Nat) :=
  if e.hdr % 128 ≠ 0 then (s, .val (.inr 4))
  else
    match s.qRead x e.hdr 128 with
    | (s, .waits) => (s, .waits)
    | (s, .fault) => (s, .val (.inr 4))
    | (s', .val bs) =>
      let w := (List.range 16).map fun i => fromBytes ((bs.drop (8 * i)).take 8)
      if hdrBad w then (s', .val (.inr 1))
      else
        let n := hdrLaunch x q e w []
        if s'.noFifo n then (s', .val (.inr 3))
        else if s'.tooLarge n then (s', .val (.inr 2))
        else if !canonical (w.getD 4 0) then (s', .val (.inr 4))
        else
          match s'.readMap x (w.getD 4 0) n.total with
          | (_, .waits) => ((s.readMap x (w.getD 4 0) n.total).1, .waits)
          | (s, .fault) => (s, .val (.inr 4))
          | (s, .val m) => (s, .val (.inl { n with member := m }))

/-- The group table that a member map fills (R192). -/
def groupTable (m : List (List Nat)) : FMap GroupSt :=
  m.flatten.foldl (fun t g => t.upd g ⟨0, 0, 0⟩ fun e => { e with members := e.members + 1 }) []

/-! ## Entries -/

/-- An entry is malformed (R401). -/
def entryBad (w : List Nat) : Bool :=
  let g := fun i => w.getD i 0
  let addr := fun a => a != 0 && (!canonical a || a % 8 != 0)
  bitsOf (g 0) 16 16 != 0 || bitsOf (g 0) 0 8 != 0 || g 6 != 0 || g 7 != 0 || decide (2 ≤ bitsOf (g 0) 8 8) ||
    (bitsOf (g 0) 8 8 == 1 && g 1 != 0) || addr (g 2) || addr (g 4)

/-- The completion of an entry with a status. -/
def Entry.done (e : Entry) (status blocks : Nat) : Done :=
  { seq := e.seq, status, blocks, compAddr := e.compAddr, compInc := e.compInc }

/-- A context has launches that have blocks to place. -/
def State.todo (s : State) (x : Nat) : List (Nat × Launch) :=
  s.launches.filter fun n => n.2.ctx == x && decide (n.2.placed < n.2.total)

/-- A launch starts (R403): it takes its queue's head. -/
def State.startLaunch (s : State) (f q : Nat) (n : Launch) (mapped : Bool) : State :=
  let i := s.nextLaunch
  let s := if s.todo n.ctx = [] then s.updCtx n.ctx fun c => { c with eligNs := s.timeNs } else s
  let s := if mapped then s.updCtx n.ctx fun c => { c with groups := groupTable n.member } else s
  let s : State := { s with launches := s.launches.set i n, nextLaunch := i + 1 }
  s.updQueue f q fun u => { u with entry := none, launch := some i }

/-- An entry leaves its queue's head and completes. -/
def State.endEntry (s : State) (f q : Nat) (e : Entry) (status : Nat) : State :=
  (s.updQueue f q fun u => { u with entry := none }).complete f q (e.done status 0)

/-- The entry at a queue's head, once consumed (R402, R403): not ready, it stays; ready, a signal completes and a launch is
judged and started. -/
def State.tryEntry (s : State) (f q : Nat) (e : Entry) : State :=
  let x := ((s.func f).queue q).ctxOf f
  let ready := fun s : State =>
    if e.typ = 1 then s.endEntry f q e 0
    else
      match s.judgeHeader x q e with
      | (s, .val (.inr st)) => s.endEntry f q e st
      | (s, .waits) | (s, .fault) => s
      | (s, .val (.inl n)) => s.startLaunch f q n (n.member != [])
  if e.depAddr = 0 then ready s
  else
    match s.qRead x e.depAddr 8 with
    | (s, .waits) => s
    | (s, .fault) => s.endEntry f q e 7
    | (s, .val bs) => if fromBytes bs < e.depVal then s else ready s

/-- A step of a queue's head for entries whose type passes a test (R401-R403, R489). -/
def State.headStep (s : State) (f q : Nat) (want : Nat → Bool) : State :=
  let u := (s.func f).queue q
  if !u.on || u.launch.isSome then s
  else
    match u.entry with
    | some e => if want e.typ then s.tryEntry f q e else s
    | none =>
      match s.consume f q with
      | (s', none) => s'
      | (s', some w) =>
        let e := entryOf w
        let st := (s.ctx (u.ctxOf f)).st
        if !want e.typ then s
        else if entryBad w ∨ st = 0 ∨ st = 4 then s'.complete f q (e.done 5 0)
        else (s'.updQueue f q fun u => { u with entry := some e }).tryEntry f q e

/-- LAUNCH (R187). -/
def execLaunch (f q : Nat) (s : State) : Out := .next (s.headStep f q (· != 1))

/-- SIGNAL (R400). -/
def execSignalEntry (f q : Nat) (s : State) : Out := .next (s.headStep f q (· == 1))

/-- DEPENDENCE_READ (R402): the counter of the entry that waits at the head is read again. -/
def execDependenceRead (f q : Nat) (s : State) : Out :=
  .next <| match ((s.func f).queue q).entry with
    | some e => if ((s.func f).queue q).on then s.tryEntry f q e else s
    | none => s

/-! ## Completion of a grid (R404) -/

/-- The dirty lines of a cluster that hold a grid's stores (R404). -/
def State.gridLines (s : State) (i cl x : Nat) : List Nat :=
  (s.dirtyLines cl (· == x)).filter fun l => ((s.l1Find cl l).map fun L => L.grids.contains i).getD false

/-- The write-backs of a grid's completion on one cluster: what stops them, if anything does. -/
def State.flushCluster (s : State) (i cl x : Nat) : State × Bool :=
  (s.gridLines i cl x).foldl (fun (acc : State × Bool) line =>
    if !acc.2 then acc
    else
      match acc.1.writeBack cl line true with
      | (s, .done) => (s, true)
      | (s, .tag) => (s.giveUp i cl line x 10 0 0, true)
      | (s, .far n) => (s.giveUp i cl line x n 0 0, true)
      | (s, .ask _) | (s, .waits) => (s, false)
      | (s, .walk f) =>
        let va := ((s.l1Find cl line).map (·.va)).getD 0
        let (s, r) := s.raise (partOf cl) x va f ⟨6, 0, 0⟩
        ({ s with launches := s.launches.adjust i fun n => { n with fault := r, faultVa := va } }, false)) (s, true)

/-- Every operation of a launch's gangs has completed, and every flushing read their host-window stores need (R128, R404). -/
def State.quietLaunch (s : State) (i : Nat) : Bool :=
  s.clusters.all fun k => k.2.gangs.all fun g =>
    g.2.blk / 2 ^ 32 != i || (g.2.ops.all (·.complete) && g.2.flushed)

/-- The write-backs of a context that failed at another package are given up (R404; log 129, DESIGN CHOICE). -/
def State.giveUpAway (s : State) (i x : Nat) : State :=
  (s.farGot.filter fun g => g.ask.eng == 6 && g.ask.x == x).foldl (fun s g =>
    match g.sub with
    | some n => ({ s with farGot := s.farGot.erase g }.countLost x).giveUpRec i g.ask.cl x g.ask.unit n 0 0
    | none => s) s

/-- A launch whose blocks have all ended completes (R404): its stores are performed at system scope first. -/
def State.finishLaunch (s : State) (f q i : Nat) (n : Launch) : State :=
  let (s, ok) := n.clusters.foldl (fun (acc : State × Bool) cl => if acc.2 then acc.1.flushCluster i cl n.ctx else acc) (s, true)
  if !ok ∨ s.exportInv ≠ [] ∨ s.wbAway n.ctx = true then s
  else
    match s.launches.find? i with
    | none => s
    | some _ =>
      let s := s.giveUpAway i n.ctx
      let n := (s.launches.find? i).getD n
      let s : State := { s with launches := s.launches.del i }
      s.complete f q { seq := n.seq, status := if n.lost = 0 then 0 else 8, blocks := n.placed, compAddr := n.compAddr, compInc := n.compInc }

/-- A launch of a queue whose blocks have ended and whose write-backs wait for no response. -/
def State.canFinish (s : State) (f q : Nat) (n : Nat × Launch) : Bool :=
  fnOf n.2.ctx == f && n.2.queue == q && n.2.placed == n.2.total && n.2.ended == n.2.total && s.quietLaunch n.1 &&
    match n.2.fault with
    | some r => !s.isLive r.1 r.2
    | none => true

/-- ENTRY_COMPLETE (R404): the queue's oldest launch that can. -/
def execEntryComplete (f q : Nat) (s : State) : Out :=
  .next <|
    match s.launches.search (s.canFinish f q) with
    | some n => s.finishLaunch f q n.1 n.2
    | none => State.flushDone f q ((s.func f).queue q).waiting.length s

/-! ## The choice of a context -/

/-- A context's share (R407). -/
def State.shareOf (s : State) (x : Nat) : Nat := Nat.max 1 (s.func (fnOf x)).share * Nat.max 1 (s.desc x 1 % 256)

/-- Saved state with live gangs (R408). -/
def Ctx.savedLive (c : Ctx) : Bool := c.saved.any fun k => k.blocks.any fun b => b.gangs.any fun g => g.1 < 64 && !g.2.liveLanes.isEmpty

/-- A context is eligible (R408). -/
def State.eligibleCtx (s : State) (x : Nat) : Bool :=
  let c := s.ctx x
  !c.stopped && c.leaving.isNone &&
    ((c.st == 3 && c.savedLive) || ((c.st == 1 || c.st == 2 || c.st == 3) && !(s.todo x).isEmpty))

/-- Context `a` comes before `b` (R408): greater key, longer eligible, lower number. -/
def State.ctxBefore (s : State) (a b : Nat) : Bool :=
  let l := (s.ctx a).level * (s.shareOf b : Int)
  let r := (s.ctx b).level * (s.shareOf a : Int)
  if l ≠ r then r < l
  else if (s.ctx a).eligNs ≠ (s.ctx b).eligNs then (s.ctx a).eligNs < (s.ctx b).eligNs
  else a < b

/-- The first of some contexts in that order. -/
def State.firstCtx (s : State) : List Nat → Option Nat
  | [] => none
  | x :: xs => match s.firstCtx xs with | none => some x | some y => some (if s.ctxBefore x y then x else y)

/-- PRIO of a launch's queue. -/
def State.prioOf (s : State) (n : Launch) : Nat := bitsOf ((s.func (fnOf n.ctx)).queue n.queue).ctl.toNat 18 2

/-- A context's launches in the order of R403: highest PRIO, then the queue after the one last served. -/
def State.orderTodo (s : State) (x : Nat) : List (Nat × Launch) :=
  let key := fun (n : Launch) => (3 - s.prioOf n) * 16 + (n.queue + 15 - (s.ctx x).lastQ) % 16
  (s.todo x).mergeSort fun a b => key a.2 ≤ key b.2

/-- One launch of the selected context: its blocks while they fit; a cooperative one starts only whole (R194, R409). `floor` is
the least priority that may still place. -/
def State.serveLaunch (s : State) (i : Nat) (floor : Nat) : State × Nat :=
  match s.launches.find? i with
  | none => (s, floor)
  | some n =>
    if s.prioOf n < floor then (s, floor)
    else if n.coop ∧ n.placed = 0 then
      let s' := State.placeMany i n.total s
      if ((s'.launches.find? i).map (·.placed)).getD 0 = n.total then (s', floor)
      else
        let s : State := { s with launches := s.launches.adjust i fun n => { n with since := if n.since = 0 then s.timeNs + 1 else n.since } }
        (s, if n.waited then Nat.max floor (s.prioOf n) else floor)
    else (State.placeMany i n.total s, floor)

/-- The selected context places its blocks; a saved one resumes first (R409, R466). -/
def State.serveCtx (s : State) (x : Nat) : State :=
  let s := if (s.ctx x).st = 3 then s.resumeContext x else s
  if (s.ctx x).st = 3 ∨ (s.ctx x).st = 4 then s
  else ((s.orderTodo x).foldl (fun (acc : State × Nat) n => acc.1.serveLaunch n.1 acc.2) (s, 0)).1

/-- Energy-stopped contexts are pre-empted while another context is eligible (R410, R438). -/
def State.energyPreempts (s : State) : State :=
  if s.ctxs.any fun c => s.eligibleCtx c.1 then
    (s.ctxs.filter fun c => c.2.st == 2 && c.2.stopped && c.2.leaving.isNone).foldl (fun s c => s.preempt c.1 0) s
  else s

/-- Selections one after another among the contexts not yet tried (R409). -/
def State.dispatch : Nat → List Nat → State → State
  | 0, _, s => s
  | n + 1, tried, s =>
    match s.firstCtx ((s.ctxs.map (·.1)).filter fun x => s.eligibleCtx x && !tried.contains x) with
    | none => s
    | some x => State.dispatch n (x :: tried) (s.serveCtx x)

/-- DISPATCH_SELECT (R409). -/
def execDispatchSelect (s : State) : Out :=
  .next <| let s := s.energyPreempts; (State.dispatch s.ctxs.length [] s).noteBelow

/-- COOP_WAIT_LIMIT (R409): a cooperative launch that has waited 1 ms. -/
def execCoopWaitLimit (f ctx : Nat) (s : State) : Out :=
  .next { s with launches := s.launches.map fun n => (n.1,
    if n.2.ctx = ctxOf f ctx ∧ n.2.coop ∧ n.2.placed = 0 ∧ n.2.since ≠ 0 ∧ n.2.since + 1000000 ≤ s.timeNs + 1 then
      { n.2 with waited := true } else n.2) }

/-- A context is resident for at least the quantum, and a context of another function that is eligible with at least twice its
key has no free permitted partition (R410). -/
def State.unfair (s : State) (r : Nat) : Bool :=
  let c := s.ctx r
  c.st == 2 && c.leaving.isNone && decide (Nat.max 1 s.quantum * 1000 ≤ s.timeNs - c.resNs) &&
    s.ctxs.any fun e =>
      fnOf e.1 != fnOf r && s.eligibleCtx e.1 &&
        decide (2 * c.level * (s.shareOf e.1 : Int) ≤ e.2.level * (s.shareOf r : Int)) &&
        (s.permitted (fnOf e.1)).all fun p => (s.holder p).isSome

/-- FAIRNESS_PREEMPT (R410): of the contexts that qualify, the one with the smallest key. -/
def execFairnessPreempt (s : State) : Out :=
  .next <|
    match ((s.ctxs.map (·.1)).filter s.unfair).foldl (fun b x =>
        match b with | none => some x | some y => some (if s.ctxBefore y x then x else y)) none with
    | some x => s.preempt x 2
    | none => s

/-! ## The slew limiter (R420-R422) -/

/-- ADMIT_PER_US as it acts (R421). -/
def State.admitRate (s : State) : Nat := Nat.max 1 (Nat.min 160 s.perUs)

/-- The current limits of the operating points in A (R440). -/
def currentLimit (op : Nat) : Nat := [20, 25, 30, 35, 40, 45, 45, 50, 60, 60, 64, 68, 68, 80, 84, 88].getD op 0

/-- The step-start point of a step of `amps4` quarter amperes that arises now (R450): the next grid point plus the offset, when
steps wait and it exceeds the threshold. -/
def State.stepStart (s : State) (amps4 : Nat) : Option Nat :=
  let v := s.power.stepCtl.toNat
  if bitOf v 63 && decide (4 * bitsOf v 32 16 < amps4) then
    let grid := Nat.max 1 (bitsOf v 16 12) * 1000
    some (ceilDiv s.timeNs grid * grid + v % 2 ^ 16)
  else none

/-- SLEW_BATCH (R420): an idle limiter takes its next batch, 1 µs after the one before. Each cluster counts one quarter of its
partition's current limit as a step (R450). -/
def execSlewBatch (s : State) : Out :=
  .next <|
    if s.batch ≠ [] ∨ s.wakes = [] ∨ s.timeNs < s.batchNs then s
    else
      let b := (s.wakes.mergeSort fun a c => (a + 160 - s.prom) % 160 ≤ (c + 160 - s.prom) % 160).take s.admitRate
      { s with batch := b, batchNs := s.timeNs + 1000, admitNs := s.timeNs, admitGap := 1000 / s.admitRate, prom := (s.prom + b.length) % 160, wakes := s.wakes.filter (!b.contains ·)
               batchStep := s.stepStart (b.map fun c => currentLimit (s.part (partOf c)).op).sum }

/-- The threads that a cluster's wakes hold become eligible (R419). -/
def State.admitCluster (s : State) (cl : Nat) : State :=
  s.updCluster cl fun k =>
    { k with wakePend := false
             gangs := k.gangs.map fun g => (g.1, { g.2 with threads := g.2.threads.map fun t => { t with wake := false } }) }

/-- CLUSTER_ADMIT (R420): the batch's clusters resume in order, one every ⌊1,000 ÷ rate⌋ ns. -/
def execClusterAdmit (c : Nat) (s : State) : Out :=
  .next <| match s.batch with
    | b :: bs =>
      if b = c ∧ s.batchStep = none ∧ s.admitNs ≤ s.timeNs then
        { s with batch := bs, admitNs := s.admitNs + s.admitGap }.admitCluster c
      else s
    | [] => s

end Sys2Proof.Machine
end

