-- ==== Sys2Proof/Machine/Energy.lean ====
section
/-! DEFINITION. Energy (19:R425-R439): the 1 µs tick with refills, leakage and resumes, correction of the tolls, shared uncore
energy, and the meters as windows read and write them. -/

namespace Sys2Proof.Machine

/-! ## Buckets (R435, R436) -/

/-- CAP, RESUME and RATE of a context: words E0 and E1 of its descriptor. -/
def State.capOf (s : State) (x : Nat) : Nat := bitsOf (s.desc x 2) 0 62
def State.rateOf (s : State) (x : Nat) : Nat := bitsOf (s.desc x 3) 0 32

/-- The effective threshold (R435). -/
def State.threshold (s : State) (x : Nat) : Nat := Nat.max 1 (Nat.min (Nat.max 1 (bitsOf (s.desc x 3) 32 32)) (s.capOf x))

/-- The refill of a context at a tick (R436). -/
def State.refillOf (s : State) (x : Nat) : Nat :=
  let f := fnOf x
  let sum := ((s.ctxs.filter fun c => fnOf c.1 == f).map fun c => s.rateOf c.1).sum
  let cap := (s.func f).rateCap
  if sum ≤ cap then s.rateOf x else s.rateOf x * cap / sum

/-- A refill saturates at CAP; a level above CAP stays (R437). -/
def refill (level : Int) (cap amount : Nat) : Int := if (cap : Int) ≤ level then level else min (level + amount) cap

/-- LEVEL in its descriptor word (R435, log 17, DEDUCED). -/
def State.writeLevel (s : State) (x : Nat) : State := s.setDesc x 4 (code 64 (s.ctx x).level)

/-! ## Leakage (R433) -/

/-- Gang slots that each context occupies on a partition. -/
def State.slotShares (s : State) (p : Nat) : List (Nat × Nat) :=
  let gs := ((List.range 4).map fun i => ((s.cluster (4 * p + i)).slotted.map fun g => g.2.ctx)).flatten
  gs.eraseDups.map fun x => (x, gs.count x)

/-- An amount in meter units split in proportion to weights; what the division leaves goes to the first (log 14, DESIGN CHOICE). -/
def splitUnits (total : Nat) (ws : List (Nat × Nat)) : List (Nat × Nat) :=
  let sum := (ws.map (·.2)).sum
  let each := ws.map fun w => (w.1, total * w.2 / sum)
  match each with
  | [] => []
  | (x, u) :: rest => (x, u + (total - (each.map (·.2)).sum)) :: rest

/-- A unit in parts that every number of gang slots of a partition divides: the least common multiple of 1 to 256 (R433). -/
def subUnits : Nat := ((List.range 256).map (· + 1)).foldl Nat.lcm 1

/-- The meter with parts of a unit added: no part is lost (R426). -/
def Meter.addSub (m : Meter) (n : Nat) : Meter := { m.add ((m.sub + n) / subUnits) with sub := (m.sub + n) % subUnits }

/-- A charge of parts of a unit to a context (R433), as `State.chargeCtx` charges units: what does not fill a unit stays in the hidden
fraction of each meter. -/
def State.chargeSub (s : State) (x n : Nat) : State :=
  let c := s.ctx x
  let f := s.func (x / 4096)
  let m := c.meter.addSub n
  let adv := (c.meter.units + (c.meter.sub + n) / subUnits) / unitsPerPj - c.meter.pj
  let lv := max (c.level - adv) (-(2 ^ 62 : Int))
  { s with
    ctxs := s.ctxs.set x { c with meter := m, level := lv, stopped := c.stopped || decide (0 < n ∧ lv ≤ 0) }
    funcs := s.funcs.set (x / 4096) { f with meter := f.meter.addSub n }
    pkgMeter := s.pkgMeter.addSub n }

/-- Units split among contexts in exact proportion to their gang slots, with their stops (R433). -/
def State.chargeSlots (s : State) (p u : Nat) (ws : List (Nat × Nat)) : State :=
  let sum := (ws.map (·.2)).sum
  ws.foldl (fun s w => (s.chargeSub w.1 (u * w.2 * (subUnits / sum))).noteStop p w.1 (s.ctx w.1).stopped) s

/-- Amounts charged to contexts, with their stops. -/
def State.chargeAll (s : State) (p : Nat) (us : List (Nat × Nat)) : State :=
  us.foldl (fun s u => let old := (s.ctx u.1).stopped; (s.chargeCtx u.1 u.2).noteStop p u.1 old) s

/-- The leakage of one partition for 1 µs: LEAK of its current point times CORR_F. R61 says that a bank that is off charges none, and
R433 gives one LEAK for the whole partition; the model charges it whole, whatever the banks' modes (log 141, DESIGN CHOICE). -/
def State.leakPart (s : State) (p : Nat) : State :=
  let pt := s.part p
  let leak := (Config.leak s.mgmt.record pt.op).toNat * 320
  let u := leak * pt.corrF
  let s := { s with parts := s.parts.set p { pt with meter := pt.meter.add u, raw := pt.raw + leak * 0x4000 } }
  match s.slotShares p with
  | [] => { s with pkgMeter := s.pkgMeter.add u }
  | ws => s.chargeSlots p u ws

/-! ## The tick (R437-R439, R511) -/

/-- The wakes of a context that resumes on its clusters (R439). -/
def State.wakeCtx (s : State) (x : Nat) : State :=
  (s.clustersOf x).foldl (fun s c =>
    (s.updCluster c fun k => { k with gangs := k.gangs.map fun g =>
      (g.1, if g.2.ctx = x then { g.2 with threads := g.2.threads.map fun t => if t.live then { t with wake := true } else t } else g.2) }).wakeCluster c) s

/-- A gang leaves its energy stop (R439, R456). -/
def Gang.unstop (g : Gang) : Gang := if g.estop then { g with estop := false, threads := g.threads.map Thread.resumed } else g

/-- A stopped context whose level stands at its threshold leaves the stop (R439). -/
def State.resumeEnergy (s : State) (x : Nat) : State :=
  let c := s.ctx x
  if c.stopped ∧ (s.threshold x : Int) ≤ c.level then
    let s := s.updCtx x fun c => { c with stopped := false, eligNs := s.timeNs }
    let s := { s with clusters := s.clusters.map fun k =>
      (k.1, { k.2 with gangs := k.2.gangs.map fun g => (g.1, if g.2.ctx = x then g.2.unstop else g.2) }) }
    if c.st = 2 then s.wakeCtx x else s
  else s

/-- TICK (R437): the refills, then leakage, then the resumes on the levels as they then stand; a stopped resident context is
pre-empted when another is eligible (R438). -/
def execTick (s : State) : Out :=
  .next <|
    let xs := s.ctxs.map (·.1)
    let amounts := xs.map fun x => (x, s.refillOf x, s.capOf x)
    let s := amounts.foldl (fun s a => s.updCtx a.1 fun c => { c with level := refill c.level a.2.2 a.2.1 }) s
    let s := (List.range 40).foldl (fun s p => s.leakPart p) s
    let s := xs.foldl State.resumeEnergy s
    (xs.foldl State.writeLevel s).energyPreempts

/-! ## Correction (R432) -/

/-- The factor of a window: measured energy in pJ, and raw charges in meter units. -/
def factorOf (old measured raw : Nat) : Nat :=
  if raw = 0 then old else Nat.min 0xFFFF (Nat.max 0x1000 (16384 * (measured * unitsPerPj) / raw))

/-- The measured energy of the uncore in pJ: the package's sensor less the partitions' (R432). -/
def uncoreMeasured (n : Nat) : Nat := (Config.pkgEnergy n).toNat - ((List.range 40).map fun p => (Config.partEnergy p n).toNat).sum

/-- Standing uncore energy in pJ over the current correction window (R432): a watt over a nanosecond is 1,000 pJ. -/
def State.standing (s : State) : Nat := (Config.uncoreBase s.mgmt.record).toNat * (s.timeNs - s.power.windowNs) * 1000

/-- A correction window ends: new factors for every partition and for the uncore. -/
def State.endWindow (s : State) : State :=
  let n := s.fresh
  let s := (List.range 40).foldl (fun (s : State) p =>
    let pt := s.part p
    { s with parts := s.parts.set p { pt with corrF := factorOf pt.corrF (Config.partEnergy p n).toNat pt.raw, raw := 0 } }) s
  { s with uncoreF := factorOf s.uncoreF (uncoreMeasured n - s.standing) s.uncoreRaw, uncoreRaw := 0, fresh := n + 1
           power := { s.power with windowNs := s.timeNs } }

/-- WINDOW_MS as it acts. -/
def Power.windowLen (p : Power) : Nat := Nat.min 1000 (Nat.max 1 p.windowMs) * 1000000

/-- CORRECTION_WINDOW (R432). -/
def execCorrectionWindow (s : State) : Out :=
  .next (if s.timeNs < s.power.windowNs + s.power.windowLen then s else s.endWindow)

/-- CORR_CTL (R432): the current window ends at once and the new length starts. -/
def execCorrCtl (v : BitVec 64) (s : State) : Out :=
  .next <| let s := s.endWindow; { s with power := { s.power with windowMs := v.toNat % 1024 } }

/-! ## Shared uncore energy (R434) -/

/-- SHARED_UNCORE_CHARGE (R434): the measured energy of the interval that corrected charges do not cover, in proportion to the
contexts' uncore charges. -/
def execSharedUncoreCharge (s : State) : Out :=
  .next <|
    let u := uncoreMeasured s.fresh * unitsPerPj - s.uncoreSum
    let ws := (s.ctxs.filter fun c => c.2.uncore != 0).map fun c => (c.1, c.2.uncore)
    let s : State := { s with fresh := s.fresh + 1 }
    let s : State := match ws with
      | [] => { s with pkgMeter := s.pkgMeter.add u }
      | ws => (splitUnits u ws).foldl (fun (s : State) (w : Nat × Nat) => s.chargeAll (s.partOfCtx w.1) [w]) s
    { s with uncoreSum := 0, ctxs := s.ctxs.map fun c => (c.1, { c.2 with uncore := 0 }) }

/-! ## Meters in windows (R428-R431) -/

/-- VF_PERIOD as it acts, in ns (R430). -/
def Func.periodLen (u : Func) : Nat := Nat.max 1 u.vfPeriod * 1000

/-- VF_METER_UPDATE (R430): at the end of a period. -/
def execVfMeterUpdate (f : Nat) (s : State) : Out :=
  .next <|
    let u := s.func f
    let n := (s.timeNs - u.periodNs) / u.periodLen
    if n = 0 then s else (s.showMeter f).updFunc f fun u => { u with periodNs := u.periodNs + n * u.periodLen }

/-- The whole-picojoule part of a meter replaced; the hidden fraction stays (R431). -/
def Meter.putPj (m : Meter) (v : Nat) : Meter := { m with units := v % 2 ^ 64 * unitsPerPj + m.units % unitsPerPj }

/-- METER_MIGRATION_WRITE (R431): offsets 0x280, 0x284 and 0x288 of a function's memory block are its meter block, and 0x188
is VF_SCOPE_POL's DEMOTIONS and SCOPE_DEMOTED; only while the function has no resident context. -/
def execMeterMigrationWrite (f off : Nat) (v : BitVec 64) (s : State) : Out :=
  .next <|
    if s.ctxs.any fun c => fnOf c.1 == f && c.2.st == 2 then s
    else
      let put := fun (g : Meter → Meter) => s.updFunc f fun u => { u with meter := g u.meter, shown := g u.shown }
      if off = 0x280 then put fun m => m.putPj (m.pj / 2 ^ 32 * 2 ^ 32 + v.toNat % 2 ^ 32)
      else if off = 0x284 then put fun m => m.putPj (v.toNat % 2 ^ 32 * 2 ^ 32 + m.pj % 2 ^ 32)
      else if off = 0x288 then
        let s := put fun m => { m with wraps := v.toNat % 2 ^ 16 }
        if bitOf v.toNat 16 then s.updShadow 128 (.function f) fun h => { h with torn := false } else s
      else if off = 0x188 then
        s.updFunc f fun u => { u with demotions := v.toNat / 2 ^ 32, scopeDemoted := bitOf v.toNat 1 }
      else s

end Sys2Proof.Machine
end

