-- ==== Sys2Proof/Machine/Slices.lean ====
section
/-! DEFINITION. What happens at the slices of the shared cache on its own: fills, grants of miss registers, evictions (04:R90-R92,
06:R142), the torus (04:R98), the return of local accesses (06:R128) and patrol scrubbing (04:R92). -/

namespace Sys2Proof.Machine

/-- Serve the operations of some lanes at their home. -/
def State.serveRefs (s : State) (ws : List LaneRef) : State :=
  ((ws.map fun w => (w.cl, w.slot, w.op)).eraseDups).foldl (fun s w => s.serveOp w.1 w.2.1 w.2.2 false) s

/-- Writes that wait for a register outside a full filter enter it, oldest first, while it has room (R91). -/
def Slice.refilter (k : Slice) : Slice :=
  (List.range k.waits.length).foldl (fun k i =>
    match k.waits[i]? with
    | some w =>
      if w.write && !w.filtered && k.freeReg.isNone && !(k.mrs.any fun m => m.2.line == w.line) && k.filterRoom w.line then
        { k with waits := k.waits.set i { w with filtered := true } }.enter w.line
      else k
    | none => k) k

/-- Requests that wait for one line leave the queue, with their places in the filter. -/
def Slice.unwait (k : Slice) (ws : List SliceWait) : Slice :=
  { k with
    waits := k.waits.filter (!ws.contains ·)
    filter := ws.foldl (fun (fs : List Nat) (w : SliceWait) => if w.filtered then fs.erase w.line else fs) k.filter }.refilter

/-- LINE_FILL (R90): the two bursts, the allocation in the ways sampled, the register freed and the joined requests served; the
requests that found it full look the line up again. With no way to allocate in, a write goes out masked without a fetch
(R89). A fill whose eviction has no room in the filter, or needs a promotion first, waits (R91, R142). -/
def execLineFill (slice mr : Nat) (s : State) : Out :=
  .next <|
    match (s.slice slice).mrs.find? mr with
    | none => s
    | some m =>
      let fetch := !(m.write && bitsOf m.ways 0 32 == 0)
      if fetch && !s.allocRoom m.ways (m.line * 128) then s
      else
        let s := if fetch then (s.charge m.part m.ctx 12 2).l2Alloc m.part m.ctx m.ways none (m.line * 128) false [] else s
        let again := (s.slice slice).waits.filter fun w => w.line == m.line
        let s := s.updSlice slice fun k =>
          let back := if bitsOf m.ways 0 32 = 0 ∧ fetch then m.joined.filter (·.slot == 2 ^ 20) else []
          let k := { k with mrs := k.mrs.del mr, filled := m.joined, back := k.back ++ back }
          k.unwait again
        let s := (s.serveRefs m.joined).updSlice slice fun k => { k with filled := [] }
        s.serveRefs (again.map (·.who))

/-- A waiting request that its slice has accepted: a read, or a write that the filter holds, or that the filter no longer keeps out (R91). -/
def Slice.accepts (k : Slice) (w : SliceWait) : Bool := !w.write || w.filtered || !k.full

/-- MISS_REGISTER_GRANT (R91): the oldest accepted wait whose line has no register takes a free one, with up to 15 others for its
line; accepted requests whose line has come meanwhile are served. -/
def execMissRegisterGrant (slice : Nat) (s : State) : Out :=
  .next <|
    let here := (s.slice slice).waits.filter fun w => (s.slice slice).accepts w && (s.l2Find none (w.line * 128)).isSome
    let s := (s.updSlice slice fun k => k.unwait here).serveRefs (here.map (·.who))
    let k := s.slice slice
    match k.freeReg, k.waits.find? fun w => k.accepts w && !k.mrs.any fun m => m.2.line == w.line with
    | some i, some w =>
      let mine := (k.waits.filter fun v => k.accepts v && v.line == w.line).take 16
      let r : MissReg := { line := w.line, ctx := w.ctx, part := w.part, ways := s.waysOf w.fn
                           write := mine.all (·.write), joined := mine.map (·.who) }
      s.updSlice slice fun k =>
        { (k.unwait mine) with mrs := k.mrs.set i r, missFull := k.missFull || decide (k.mrs.length = 63) }
    | _, _ => s

/-- EVICTION_ACCEPTED (R91): an eviction's address leaves the filter; those of waiting writes stay. -/
def execEvictionAccepted (slice line : Nat) (s : State) : Out :=
  .next <|
    let k := s.slice slice
    if k.filter.count line ≤ k.waits.countP (fun w => w.filtered && w.line == line) then s
    else s.updSlice slice fun k => { k with filter := k.filter.erase line }.refilter

/-- EVICTION_PROMOTION (R142): the recorded cluster and function; the field is then clear and the line can be evicted. -/
def execEvictionPromotion (slice line : Nat) (s : State) : Out :=
  .next <|
    if homeSlice (line * 128) ≠ slice then s
    else
      match s.l2Find none (line * 128) with
      | none => s
      | some L =>
        match L.rel with
        | none => s
        | some (k, f) =>
          match s.promote k f with
          | (s, true) => s.updLine none (line * 128) fun l => { l with rel := none, promoted := [] }
          | (s, false) => s

/-- PATROL_SCRUBBING (R92): a dirty line is written back, at no context's charge. -/
def execPatrolScrubbing (slice line : Nat) (s : State) : Out :=
  .next (if homeSlice (line * 128) ≠ slice then s else s.updLine none (line * 128) fun l => { l with dirty := false })

/-- LOCAL_ACCESS_RESPONSE (R128): what has reached its home is bound or performed. A read of the host window binds the bytes the
endpoint returns (log 13, DESIGN CHOICE). What of the operation is still on the torus has arrived with it (log 140). -/
def execLocalAccessResponse (c slot op : Nat) (data : List (BitVec 8)) (s : State) : Out :=
  .next <|
    let host := (s.gang? c slot).bind fun g => (g.op? op).bind fun o =>
      o.lanes.findSome? fun l => match l.st with
        | .ready none pa _ _ => if inHost pa then some pa else none
        | _ => none
    let s := match host, data with
      | some pa, b :: bs => { s with mem := writeBytes s.mem pa ((b :: bs).take 128) }
      | _, _ => s
    let s := (s.netDone c slot op).serveOp c slot op false
    -- what the host endpoint returns comes over the bridge of the H-die (R96; log 140)
    if host.isSome then s.hostAnswer c 3 1 false ⟨c, slot, op, 0⟩ else s

end Sys2Proof.Machine
end

