-- ==== Sys2Proof/Machine/Order.lean ====
section
/-! DEFINITION. Promotion between clusters (06:R140), the cadence of `fence.sc` (06:R144-R146), the flushing read and host writes
(06:R148), and replacement in the L1 (20:R461). -/

namespace Sys2Proof.Machine

/-- The promoting acquires held for a line: their operations and their functions. -/
def State.promoters (s : State) (line : Nat) : List (LaneRef × Nat) :=
  (s.clusters.map fun k => (k.2.gangs.map fun g => g.2.ops.filterMap fun o =>
    match accOf o.instr with
    | some a =>
      if a.sc = 5 ∧ a.isAcq then
        (o.lanes.find? fun l => match l.st with
          | .ready none pa mt _ => pa / 128 == line && decide (mt ≤ 1)
          | _ => false).map fun l => ((⟨k.1, g.1, o.id, l.lane⟩ : LaneRef), fnOf g.2.ctx)
      else none
    | none => none).flatten).flatten

/-- PROMOTION_REQUEST (R140): the recorded cluster writes back the dirty lines of each function whose acquires are held. -/
def execPromotionRequest (slice line : Nat) (s : State) : Out :=
  .next <|
    if homeSlice (line * 128) ≠ slice then s
    else
      match (s.l2Find none (line * 128)).bind (·.rel) with
      | none => s
      | some (k, _) =>
        ((s.promoters line).map (·.2)).eraseDups.foldl (fun s f =>
          match s.promote k f with
          | (s, true) => s.updLine none (line * 128) fun l => { l with promoted := f :: l.promoted }
          | (s, false) => s) s

/-- PROMOTION_ACK (R140): the valid bit is cleared and the held acquires are answered, once the write-backs of the function of each are
made. A release that comes in between begins the line's promotion again (R141). -/
def execPromotionAck (slice line : Nat) (s : State) : Out :=
  .next <|
    if homeSlice (line * 128) ≠ slice then s
    else
      match s.l2Find none (line * 128) with
      | none => s
      | some L =>
        if L.promoted = [] ∨ !((s.promoters line).all fun p => L.promoted.contains p.2) then s
        else
          let s := s.updLine none (line * 128) fun l => { l with rel := none, promoted := [] }
          s.serveRefs ((s.promoters line).map (·.1))

/-- L1_WRITEBACK (R461): a replacement. A line whose write-back fails is pinned; a pinned line is not replaced (R460). -/
def execL1Writeback (c line : Nat) (s : State) : Out :=
  .next <|
    match s.l1Find c line with
    | none => s
    | some L => if L.pinned then s else (s.writeBack c line false).1

/-- FLUSHING_READ_COMPLETE (R148): one L2 hit toll; the release can be performed. An ended thread's read is the one its grid's completion
waits for (R404; log 155); lane 32 stands for the gang's engines, whose stores a `fence.sc` flushes too (R144). -/
def execFlushingReadComplete (c slot lane : Nat) (s : State) : Out :=
  .next <|
    match s.gang? c slot with
    | none => s
    | some g =>
      let all := g.liveLanes.any fun l => (g.thread l).wait == some (.flushing true)
      if lane = 32 then
        if g.engWrote.isNone ∨ !(all || g.liveLanes.isEmpty) then s
        else (s.charge (partOf c) g.ctx 11 1).updGang c slot fun g => { g with engWrote := none }
      else
        let t := g.thread lane
        if t.hostWrote.isNone ∨ (t.live && t.wait != some (.flushing false) && !all) then s
        else (s.charge (partOf c) g.ctx 11 1).updGang c slot fun g => g.updThread lane fun t => { t with hostWrote := none }

/-! ## The cadence -/

/-- The threads in the cadence wait of the scopes of `sel` observe a tick: `tick` gives the time from which a fence that drained at a
time then waits further, if it is the tick that the fence waits for. -/
def State.observe (s : State) (sel : Nat → Bool) (tick : Nat → Option Nat) : State :=
  { s with clusters := s.clusters.map fun k => (k.1, { k.2 with gangs := k.2.gangs.map fun g => (g.1, { g.2 with
      threads := g.2.threads.map fun th => match th.wait with
        | some (.fenceSc sc d none) => if sel sc then { th with wait := some (.fenceSc sc d (tick d)) } else th
        | _ => th }) }) }

/-- HEARTBEAT_TICK (R146): the clusters observe a tick, once, no later than 32 ns after its nominal time (all of them at one instant, log
180, DESIGN CHOICE); it is the tick of the fences that have drained by then, whose further 32 ns count from here. -/
def execHeartbeatTick (s : State) : Out :=
  .next <|
    let n := s.timeNs / 256 + 1
    if 32 < s.timeNs % 256 ∨ s.beats = n then s else { s with beats := n }.observe (· == 0) fun _ => some s.timeNs

/-- FABRIC_CADENCE_TICK (R146): the local time has reached the next tick after the draining; only while the time unit is locked. -/
def execFabricCadenceTick (s : State) : Out :=
  .next <|
    if !s.timeLocked then s
    else s.observe (fun sc => sc == 3 || sc == 4) fun d =>
      let t := (d / 4000 + 1) * 4000
      if t ≤ s.timeNs then some t else none

/-- The words of the instruction at a thread's PC (R237, R241). -/
def Thread.wordsHere (t : Thread) : Nat := if bitOf (t.words.headD 0).toNat 25 then 2 else 1

/-- FENCE_SC_COMPLETE (R144): 32 ns after a heartbeat tick was observed, 1 µs after a tick of the fabric cadence; the acquire part, and the
thread leaves the fence. -/
def execFenceScComplete (c slot lane : Nat) (s : State) : Out :=
  .next <|
    match s.gang? c slot with
    | none => s
    | some g =>
      match (g.thread lane).wait with
      | some (.fenceSc sc _ (some t)) =>
        if s.timeNs < t + (if sc = 0 then 32 else 1000) ∨ (sc ≠ 0 ∧ !s.timeLocked) then s
        else
          (s.acquireDrop c).updGang c slot fun g => g.updThread lane fun th => { th with wait := none }.advance th.wordsHere
      | _ => s

/-- HOST_WRITE (R148): performed at the home slice, at no context's charge; the line's owned copy at a switch is recalled
first, so that the write is not performed while it is owned (R109). -/
def execHostWrite (pa : Nat) (bytes : List (BitVec 8)) (s : State) : Out :=
  .next <|
    if !inHbm pa then s
    else if s.exportSt.getD (pa / 128) 0 = 2 then s.recallLine (pa / 128)
    else if s.exportSt.getD ((pa + bytes.length - 1) / 128) 0 = 2 then s.recallLine ((pa + bytes.length - 1) / 128)
    else (s.store pa bytes).updLine none pa fun l => { l with dirty := true }

/-- TIME_LOCK_CHANGE (R146). -/
def execTimeLockChange (locked : Bool) (s : State) : Out := .next { s with timeLocked := locked }

end Sys2Proof.Machine
end

