-- ==== Sys2Proof/Machine/Fabric.lean ====
section
/-! DEFINITION. The fabric agent (05:R101-R113): answers to this package's requests, requests of other packages to its memory,
read-only-remote copies and exported lines. -/

namespace Sys2Proof.Machine

/-! ## Answers -/

/-- The lanes of a request that still wait for its answer. -/
def State.sentGroup (s : State) (tag : Nat) (r : RemoteSent) : Option Group :=
  match s.gang? r.cl r.slot with
  | none => none
  | some g =>
    match g.op? r.op with
    | none => none
    | some o =>
      (accOf o.instr).map fun a =>
        { cl := r.cl, slot := r.slot, o, a, x := r.ctx, far := some r.far, line := r.pa / 128, mt := r.mt
          lanes := (o.lanes.filter fun l => l.st == .remote tag).map fun l => (l, r.pa / 128 * 128 + l.va % 128, false) }

/-- A message that has come in takes its quarters from the slots that ports accepted (R103, R118): none comes otherwise. -/
def State.takeCredit (s : State) (q : Nat) : Option State :=
  ((List.range 16).find? fun k => bitOf s.ports k && decide (q ≤ (s.portSt.getD k PortSt.reset).credit)).map fun k =>
    s.updPort k fun p => { p with credit := p.credit - q }

/-- A message whose event carries no stamp is merged with the one it brings (R155; log 139, DESIGN CHOICE). -/
def State.mergeArrival (s : State) : State := { s with fresh := s.fresh + 1 }.merge (Config.arrivalStamp s.fresh)

/-- How a request ends: with data or an acknowledgement, or with an access fault of a subtype. -/
inductive Answer where
  | data (bs : List Byte)
  | fault (sub : Nat)
  deriving DecidableEq, Repr

/-- A request of a unit ends: a copy is placed, and the end is kept for the step that takes it up. A write-back's success is not
asked for. -/
def State.endUnit (s : State) (r : RemoteSent) (k : FarAsk) (a : Answer) : State :=
  match a with
  | .fault n => { s with farGot := s.farGot ++ [{ ask := k, bytes := [], sub := some n }] }
  | .data bs =>
    if k.write then (if k.eng = 6 then s else { s with farGot := s.farGot ++ [{ ask := k, bytes := [], sub := none }] })
    else
      let s := s.placeCopy (partOf r.cl) r bs
      { s with farGot := s.farGot ++ [{ ask := k, bytes := unitBytes k bs, sub := none, tagged := bs.length == 129 }] }

/-- A request is answered: a store's counter falls (R111), and its lanes, or the unit that made it, end as told. -/
def State.settleSent (s : State) (tag : Nat) (r : RemoteSent) (a : Answer) (ends : Group → State → State × List (Nat × LaneEnd)) : State :=
  let s := { s with remotes := s.remotes.del tag }
  let s := if r.store then s.updGang r.cl r.slot fun g =>
      { g with dests := g.dests.map fun d => if d.1 == r.far then (d.1, d.2.modify r.plane (· - 1)) else d } else s
  match r.unit with
  | some k => (s.hostAnswer k.cl (if k.write then 1 else 3) (if k.write then 2 else 1) false (unitRef k.cl (k.pa / 128))).endUnit r k a
  | none =>
    match s.sentGroup tag r with
    | none => s
    | some G =>
      let (s, es) := ends G s
      let acks := r.store || G.a.kind == .flag || G.a.kind == .csg
      let s := s.hostAnswer G.cl (if acks then 1 else 3) (if acks then 2 else 1) (G.mt == 3) G.who
      (s.endLanes G.cl G.slot G.a G.o es).closeOp G.cl G.slot G.o.id

/-- Every lane of a request takes an access fault of a subtype, delivered at the launch site (R102, R106). -/
def State.failSent (s : State) (tag : Nat) (r : RemoteSent) (sub : Nat) : State :=
  s.settleSent tag r (.fault sub) fun G s => (s, G.all (.trap sub))

/-- The charge of a reply (R103), to the context whose request it answers. -/
def State.chargeReply (s : State) (r : RemoteSent) (q : Nat) : State := s.chargeQ (partOf r.cl) r.ctx 13 q

/-- A message about a request of this package, of some quarters: it is charged, its stamp merged, and it ends the request. -/
def State.answered (s : State) (tag : Nat) (stamp : BitVec 64) (quarters : RemoteSent → Nat) (k : RemoteSent → State → State) : State :=
  match s.remotes.find? tag with
  | none => s
  | some r =>
    match s.takeCredit (quarters r) with
    | none => s
    | some s => k r ((s.merge stamp).chargeReply r (quarters r))

/-- REMOTE_ACK (R104): a store, ordered-flag store or consignment store is acknowledged; the stamp is merged (R155) and kept for
the seal (R168). -/
def execRemoteAck (tag : Nat) (stamp : BitVec 64) (s : State) : Out :=
  .next <| s.answered tag stamp (·.reply) fun r s =>
    s.settleSent tag r (.data []) fun G s =>
      let s := if G.a.kind = .csg then s.updGang G.cl G.slot fun g => { g with slots := g.slots.modify G.a.slot fun c =>
          { c with stamp := BitVec.ofNat 64 (Nat.max c.stamp.toNat stamp.toNat) } } else s
      (s, if G.a.kind = .store ∨ G.a.kind = .flag ∨ G.a.kind = .csg then G.all .ok else G.all .stay)

/-- The byte of a line at offset `o` in a read response: of the whole line, or of the touched 32-byte sectors in rising order
(R103). -/
def responseByte (data : List Byte) (mask o : Nat) : Byte :=
  if 128 ≤ data.length then data.getD o 0
  else
    let touched := (List.range 4).filter fun i => bitsOf mask (32 * i) 32 != 0
    data.getD (32 * (touched.idxOf (o / 32)) + o % 32) 0

/-- The value a lane receives from a read response. -/
def responseValue (G : Group) (data : List Byte) (pa : Nat) : Nat :=
  fromBytes ((List.range G.a.bytes).map fun i => responseByte data G.mask (pa % 128 + i))

/-- The flags of a remote floating-point atomic: those of its reduction, of the home's operation and of the fetched values
(R113, R330). -/
def remoteFlags (a : Acc) (mode old : Nat) (vs : List Nat) : Nat :=
  let step := fun (acc : Nat × Nat × Nat) v =>
    let p := atomfOp a.op mode acc.1 v
    let q := atomfOp a.op mode old acc.1
    (p.v, acc.2.1 ||| p.fl, if vs.length = 1 then 0 else acc.2.2 ||| q.fl)
  let r := vs.foldl step (0, 0, 0)
  match vs with
  | [v] => (atomfOp a.op mode old v).fl
  | _ => r.2.1 ||| r.2.2 ||| (atomfOp a.op mode old r.1).fl

/-- What a response gives the lanes of its request (R104, R108, R113, R173). One byte is the subtype of an access fault that the
request met at its home; an empty response to `ldview` is an expired lane; a byte after the line's 128 says that the line is tagged, and
no copy is placed (R171; log 13, DESIGN CHOICE). -/
def State.respond (s : State) (r : RemoteSent) (data : List Byte) (G : Group) : State × List (Nat × LaneEnd) :=
  match data with
  | [b] => (s, G.all (.trap b.toNat))
  | _ =>
    match G.a.kind with
    | .load =>
      (s.placeCopy G.part r data, G.lanes.map fun l => (l.1.lane, .value (responseValue G data l.2.1)))
    | .view =>
      if data = [] then
        (s.updGang G.cl G.slot fun g => { g with views := g.views.modify G.a.slot fun v => { v with expired := true } },
          G.all (.value 0))
      else (s, G.lanes.map fun l => (l.1.lane, .value (responseValue G data l.2.1)))
    | .atom | .atomf =>
      let old := fromBytes data
      let mode := G.o.fpmode.toNat
      let vs := G.lanes.map (·.1.data)
      let got := if G.a.aggregates then fetchedAll G.a mode old vs else vs.map fun _ => old
      let s := if G.a.kind = .atomf then s.atomFlags G (G.lanes.map fun l => (l.1.lane, remoteFlags G.a mode old vs)) else s
      (s, (G.lanes.zip got).map fun l => (l.1.1.lane, .value l.2))
    | .cas => (s, G.all (.value (fromBytes data)))
    | _ => (s, G.all .ok)

/-- REMOTE_RESPONSE (R104). -/
def execRemoteResponse (tag : Nat) (stamp : BitVec 64) (data : List (BitVec 8)) (s : State) : Out :=
  .next <| s.answered tag stamp (·.reply) fun r s =>
    s.settleSent tag r (match data with | [b] => .fault b.toNat | _ => .data data) fun G s => s.respond r data G

/-- REFUSAL (R106): one quarter; fabric-refused. -/
def execRefusal (tag : Nat) (stamp : BitVec 64) (s : State) : Out :=
  .next <| s.answered tag stamp (fun _ => 1) fun r s => s.failSent tag r 5

/-- FAB_CTL.TIMEOUT in ns (R121). -/
def State.fabTimeout (s : State) : Nat := Nat.max 1 (bitsOf s.fabCtl.toNat 16 16) * 1000

/-- REQUEST_TIMEOUT (R106): no reply is charged; fabric-timeout. -/
def execRequestTimeout (tag : Nat) (s : State) : Out :=
  .next <|
    match s.remotes.find? tag with
    | none => s
    | some r => if s.timeNs < r.sentNs + s.fabTimeout then s else s.failSent tag r 6

/-- STFLAG_DEPART (R111): a held ordered-flag store leaves, or is performed at home. -/
def execStflagDepart (c slot op : Nat) (s : State) : Out := .next (s.serveOp c slot op false)

/-! ## Requests of other packages -/

/-- Quarters of a request (R103). -/
def reqQuarters : RemoteOp → Nat
  | .write data _ | .stcsg _ _ _ data _ => writeQuarters (ceilDiv data.length 16 * 16)
  | _ => 1

/-- REMOTE_REQUEST_ARRIVAL (R106): admitted and performed, at nobody's charge here since its charges fall on the context that asked (R103),
or refused; behind a held request of its line it is held too (R101). A request that the home slice does not take has not arrived (R91,
R109). -/
def execRemoteRequestArrival (r : RemoteReq) (s : State) : Out :=
  .next <|
    match s.takeCredit (reqQuarters r.op) with
    | none => s
    | some s' =>
      let s' := s'.merge r.stamp
      if !s.admits r then s'.reply .refusal r.src r.tag r.pa 1 [] []
      else if s.heldReqs.any fun h => h.pa / 128 == r.pa / 128 then { s' with heldReqs := s'.heldReqs ++ [r] }
      else
        match s.unitWaits 0 nobody (r.pa / 128) (farWrites r.op) false with
        | (s, true) => s
        | (_, false) =>
          match s'.perform r with
          | (t, .done) => t.unbilled s'
          | (t, .held) => { t.unbilled s' with heldReqs := s'.heldReqs ++ [r] }
          | (_, .busy) => (s.perform r).1.unbilled s

/-! ## Copies and exported lines -/

/-- INVALIDATION (R108): the copy goes, an outstanding fill of the line will place none, and it is acknowledged. -/
def execInvalidation (pkg line : Nat) (s : State) : Out :=
  .next <|
    match s.takeCredit 1 with
    | none => s
    | some s =>
      let s := s.mergeArrival.dropLine (some pkg) (line * 128)
      let s : State := { s with remotes := s.remotes.map fun r =>
        (r.1, if r.2.far = pkg ∧ r.2.pa / 128 = line then { r.2 with noCopy := true } else r.2) }
      s.reply .invalidationAck pkg line (line * 128) 1 [] []

/-- EXPORT_INVALIDATION_ACK (R109): no switch holds the line any more. -/
def execExportInvalidationAck (line : Nat) (s : State) : Out :=
  .next <|
    if !s.exportInv.contains line || !s.invSent.contains line then s
    else
      match s.takeCredit 1 with
      | none => s
      | some s =>
        let s := s.mergeArrival.msgAnswered .invalidate s.pkgId line
        { s with exportInv := s.exportInv.erase line, invSent := s.invSent.erase line
                 exportSt := if s.exportSt.getD line 0 = 1 then s.exportSt.set line 0 else s.exportSt }

/-- The lanes that are ready for a local line. -/
def State.readyAt (s : State) (line : Nat) : List LaneRef :=
  (s.clusters.map fun k => (k.2.gangs.map fun g => g.2.ops.filterMap fun o =>
    (o.lanes.find? fun l => match l.st with | .ready none pa _ _ => pa / 128 == line | _ => false).map fun l =>
      (⟨k.1, g.1, o.id, l.lane⟩ : LaneRef)).flatten).flatten

/-- The writes of units that waited for a line's recall. -/
def State.storeHeld (s : State) (line : Nat) : State :=
  (s.heldWrites.filter fun w => w.1 / 128 == line).foldl (fun s w => s.store w.1 w.2)
    { s with heldWrites := s.heldWrites.filter fun w => w.1 / 128 != line }

/-- RECALL (R109): the owned value that a slice has asked for is written into it, the state becomes 0, and what waited for the line is
served. -/
def execRecall (line : Nat) (data : List (BitVec 8)) (s : State) : Out :=
  .next <|
    if s.exportSt.getD line 0 ≠ 2 ∨ s.recalls.getD line false = false then s
    else
    match s.takeCredit 3 with
    | none => s
    | some s =>
      let s := s.mergeArrival.msgAnswered .recall s.pkgId line
      let s := { s with exportSt := s.exportSt.set line 0, recalls := s.recalls.del line }
      let s := (s.store (line * 128) (data.take 128)).updLine none (line * 128) fun l => { l with dirty := true }
      (s.storeHeld line).serveRefs (s.readyAt line)

end Sys2Proof.Machine
end

