-- ==== Sys2Proof/Machine/Versions.lean ====
section
/-! DEFINITION. Consignments after their stores (07:R166-R170): seals, notices, restores and aborts, seal-record reads between
packages, low-water marks and the tag sweeper (07:R176, R177). -/

namespace Sys2Proof.Machine

/-- LINE_HOME_STCSG (R166): the operation's lanes that have reached their homes are performed. -/
def execLineHomeStcsg (c slot op _lane : Nat) (s : State) : Out := .next (s.serveOp c slot op false)

/-! ## Seal (R168) -/

/-- A consignment slot that holds nothing. -/
def CsgSlot.free : CsgSlot := ⟨0, 0, 0, [], [], 0⟩

/-- Every lane of every `stcsg` of a slot has been acknowledged or delivered (R168 step 1). -/
def Gang.csgDone (g : Gang) (cs : Nat) : Bool :=
  g.ops.all fun o => match accOf o.instr with
    | some a => !(a.kind == .csg && a.slot == cs) || o.lanes.all (·.st == .done)
    | none => true

/-- The slot an instruction closes. -/
def closes : Instr → Option Nat
  | .csgSeal f => some (immU f)
  | .csgAbort f => some (immU f)
  | _ => none

/-- The closing instruction of a slot completes: its slot is free, and a seal's register pair settles to `v` in every thread. -/
def Gang.closeCsg (g : Gang) (cs : Nat) (v : Option Nat) : Gang :=
  let g : Gang := { g with slots := g.slots.set cs CsgSlot.free }
  match g.ops.find? fun o => closes o.instr == some cs && !o.complete with
  | none => g
  | some o =>
    let g : Gang := { g with
      threads := g.threads.map fun t => match v with
        | some w => (t.settle o.id).setRegs (destOf o.instr) 2 w
        | none => t.settle o.id
      ops := g.ops.map fun p => if p.id = o.id then { p with complete := true } else p }
    g.retire

/-- A line of this package that a slot's stores wrote has an invalidation to be acknowledged before they are performed at tenant
scope (R109, R128, R150). -/
def State.csgExported (s : State) (sl : CsgSlot) : Bool := sl.lines.any fun l => l.1 == s.pkgId && s.exportInv.contains l.2

/-- SEAL (R168): in one step at the record's home the stamps of the acknowledgements are merged, T is taken and the record
sealed; the notices are sent. -/
def execSealRecord (c slot cs : Nat) (s : State) : Out :=
  .next <|
    match s.gang? c slot with
    | none => s
    | some g =>
      let sl := g.slotAt cs
      let f := csgVf sl.csgid
      let p := partOf c
      if sl.st ≠ 2 ∨ !g.csgDone cs ∨ s.csgExported sl then s
      else
      match State.linesWait p g.ctx [((s.func f).recAt sl.mrec / 128, true, false)] s with
      | (s, true) => s
      | (s, false) =>
        let (t, s) := (s.merge sl.stamp).take
        let s := s.writeSeal p g.ctx f sl.mrec 1 sl.csgid t.toNat
        let s := s.updGang c slot fun g => g.closeCsg cs (some t.toNat)
        match sl.pkgs with
        | [] => s.freeRec f sl.mrec
        | ps =>
          let far := ps.filter (· != s.pkgId)
          let s := far.foldl (fun s d => s.reply .notice d sl.mrec ((s.func f).recAt sl.mrec) 1 [sl.csgid, t.toNat] [])
            (s.chargeQ p g.ctx 13 (2 * far.length))
          s.updFunc f fun u => { u with notices := u.notices ++ [(sl.mrec, ps, false, g.ctx)] }

/-- The notices of a record that are not all acknowledged: the packages left, whether they are an abort's, and the context charged (R178). -/
def State.noticeOf (s : State) (f rec' : Nat) : Option (List Nat × Bool × Nat) :=
  ((s.func f).notices.find? fun n => n.1 == rec').map (·.2)

/-- The tags of a consignment are sealed at `t`, in MIDX order (R168). -/
def State.sealTags (s : State) (p x csgid t : Nat) : State :=
  (s.tagsOf csgid).foldl (fun s g => s.putTag p x { g with st := 2, sealT := t }) s

/-- A slot whose abort waits for its restores: state 4. -/
def State.endAbort (s : State) (f rec' : Nat) : State :=
  { s with clusters := s.clusters.map fun k => (k.1, { k.2 with gangs := k.2.gangs.map fun g =>
      (g.1, match g.2.slots.findIdx? fun c => c.st == 4 && c.mrec == rec' && csgVf c.csgid == f with
        | some cs => g.2.closeCsg cs none
        | none => g.2) }) }

/-- A package has swept or restored (R168, R169): after the last one the record is free, and an abort's slot with it. -/
def State.ackNotice (s : State) (f rec' pkg : Nat) : State :=
  match s.noticeOf f rec' with
  | none => s
  | some (ps, ab, x) =>
    match ps.filter (· != pkg) with
    | [] => if ab then (s.freeRec f rec').endAbort f rec' else s.freeRec f rec'
    | rest => s.updFunc f fun u => { u with notices := u.notices.map fun n => if n.1 = rec' then (rec', rest, ab, x) else n }

/-- A tag entry of a consignment lies on a line that another package owns: the sweep waits for its recall (R109). -/
def State.tagsWait (s : State) (csgid : Nat) : State × Bool :=
  match (s.tagsOf csgid).find? s.tagAway with
  | some t => (s.recallLine (t.addr / 128), true)
  | none => (s, false)

/-- SEAL_NOTICE (R168): this package's own sweep sets the stamp that the record holds, is charged to the sealing context, and
acknowledges the notice when it is done; another package's notice is acknowledged to it, at no context's charge here. -/
def execSealNotice (csgid mrec : Nat) (sealT : BitVec 64) (s : State) : Out :=
  .next <|
    if csgPkg csgid = s.pkgId then
      let f := csgVf csgid
      let r := s.sealRec csgid mrec
      match s.noticeOf f mrec with
      | some (ps, false, x) =>
        if r.st ≠ 1 ∨ r.csgid ≠ csgid ∨ !ps.contains s.pkgId then s
        else match s.tagsWait csgid with
          | (s, true) => s
          | (s, false) => (s.sealTags (s.partOfCtx x) x csgid r.sealT).ackNotice f mrec s.pkgId
      | _ => s
    else
      match s.takeCredit 1, s.tagsWait csgid with
      | none, _ => s
      | some _, (s, true) => s
      | some s, (_, false) =>
        let s := s.mergeArrival.merge sealT
        ((s.sealTags 0 nobody csgid sealT.toNat).unbilled s).reply .noticeAck (csgPkg csgid) mrec 0 1 [csgid] []

/-- SEAL_NOTICE_ACK (R168, R169): another package's acknowledgement. This package's own is part of its sweep. -/
def execSealNoticeAck (f rec' pkg : Nat) (stamp : BitVec 64) (s : State) : Out :=
  .next <|
    if pkg = s.pkgId ∨ s.noticeOf f rec' = none then s
    else
      match s.takeCredit 1 with
      | none => s
      | some s => (((s.merge stamp).msgAnswered .notice pkg rec').msgAnswered .restore pkg rec').ackNotice f rec' pkg

/-! ## Abort (R169) -/

/-- RESTORE (R169): another package's abort; its lines here are restored and it is answered. -/
def execRestoreTags (csgid mrec : Nat) (s : State) : Out :=
  .next <|
    if csgPkg csgid = s.pkgId then s
    else
      match s.takeCredit 1, State.linesWait 0 nobody (s.restoreNeeds csgid) s with
      | none, _ => s
      | some _, (s, true) => s
      | some s, (_, false) =>
        let s := s.mergeArrival
        ((s.restoreAll 0 nobody csgid).unbilled s).reply .restoreAck (csgPkg csgid) mrec 0 1 [csgid] []

/-- ABORT_COMPLETE (R169): once the slot's stores are done the record is written, this package's lines are restored and the
restores sent; with none to wait for, the slot is free. -/
def execAbortComplete (c slot cs : Nat) (s : State) : Out :=
  .next <|
    match s.gang? c slot with
    | none => s
    | some g =>
      let sl := g.slotAt cs
      if sl.st = 3 ∧ g.csgDone cs then
        match s.abortWaits (partOf c) g.ctx sl with
        | (s, true) => s
        | (s, false) =>
        let s := s.abortRec (partOf c) g.ctx sl
        s.updGang c slot fun g =>
          if sl.pkgs.filter (· != s.pkgId) = [] then g.closeCsg cs none
          else { g with slots := g.slots.set cs { sl with st := 4 } }
      else if sl.st = 4 ∧ (s.noticeOf (csgVf sl.csgid) sl.mrec).isNone then s.updGang c slot fun g => g.closeCsg cs none
      else s

/-! ## Seal records asked for by other packages (R170) -/

/-- RECORD_READ (R170): S is merged before the answer when the read is a view's; 2^64 − 1 stands for the others. A record that is
malformed anywhere is answered as aborted (R161). -/
def execRecordRead (f rec' csgid : Nat) (snap : BitVec 64) (asker : Nat) (s0 : State) : Out :=
  .next <|
    match s0.takeCredit 1 with
    | none => s0
    | some s =>
    let s := s.mergeArrival
    let s := if snap.toNat = 2 ^ 64 - 1 then s else s.merge snap
    let a := (s.func f).recAt rec'
    match s0.unitWaits 0 nobody (a / 128) false false with
    | (s, true) => s
    | (_, false) =>
    let s := (s.l2Access 0 nobody ⟨a, 64⟩ false).unbilled s
    let w := fun i => s.readNum (a + 8 * i) 8
    s.reply .record asker rec' a 1 [if restOk (w 2) (w 5) (w 6) (w 7) then w 0 else 2 * 2 ^ 48 + bitsOf (w 0) 0 48, w 1, csgid] []

/-- A parked lane's address may lie on a line: its translation is not held, or names the line. -/
def State.parkedAt (s : State) (cl x line : Nat) (a : Acc) (l : LaneAcc) : Bool :=
  l.st == .parked && match (s.tlbLook cl x l.va a.kind.atype).2 with
    | some e => (e.xlat l.va).pa / 128 == line
    | none => true

/-- Operations with lanes parked for a line. -/
def State.parkedOps (s : State) (line : Nat) : List LaneRef :=
  (s.clusters.map fun k => (k.2.gangs.map fun g => g.2.ops.filterMap fun o =>
    (accOf o.instr).bind fun a => (o.lanes.find? fun l => s.parkedAt k.1 g.2.ctx line a l).map fun l =>
      (⟨k.1, g.1, o.id, l.lane⟩ : LaneRef)).flatten).flatten

/-- The operations parked for a line go on. -/
def State.unpark (s : State) (line : Nat) : State :=
  (s.parkedOps line).foldl (fun s w =>
    let s := s.updOp w.cl w.slot w.op fun o =>
      { o with lanes := o.lanes.map fun l => if l.st = .parked then { l with st := .fresh } else l }
    (s.startOp w.cl w.slot w.op).serveOp w.cl w.slot w.op false) s

/-- RECORD_READ_ANSWER (R170): the answer to the line's oldest read is kept for the refresh, and the accesses held for it go on. -/
def execRecordReadAnswer (line : Nat) (word0 sealT stamp : BitVec 64) (s : State) : Out :=
  .next <|
    match s.asks.find? (·.1 == line) with
    | none => s
    | some q =>
      match s.takeCredit 1 with
      | none => s
      | some s =>
        let s := s.merge stamp
        let sent := s.sentMsgs.find? fun m => m.m.kind == .recordRead && m.m.words == [q.2.1, q.2.2, line]
        let old := fun (a : RecAnswer) => a.line == line && a.csgid == q.2.1 && a.snap == q.2.2
        let s : State := { s with
          asks := s.asks.erase q
          sentMsgs := match sent with | some m => s.sentMsgs.erase m | none => s.sentMsgs
          answers := (s.answers.filter (!old ·)) ++ [⟨line, q.2.1, q.2.2, word0.toNat, sealT.toNat⟩] }
        s.unpark line

/-- A seal-record read is lost with its plane (R102): what waits for it asks again, and finds the plane down. -/
def State.loseAsk (s : State) (m : FabMsg) : State :=
  let q := (m.words.getD 2 0, m.words.getD 0 0, m.words.getD 1 0)
  { s with asks := s.asks.erase q }.unpark q.1

/-! ## Low-water marks and the sweeper -/

/-- DOMAIN of a function (R105). -/
def Func.domain (u : Func) : Nat := u.fabDomain.toNat % 4096

/-- The domains of which the package is a member (R176). -/
def State.domains (s : State) : List Nat :=
  (((List.range 128).map fun f => (s.func f).domain) ++
    (s.exports.filterMap fun (e : DWord × DWord) => if bitOf e.1.toNat 0 then some (e.1.toNat / 2 ^ 52) else none)).eraseDups

/-- The stamps of the open views that count for a domain, those of saved contexts among them. -/
def State.viewStamps (s : State) (dom : Nat) : List Nat :=
  (s.ctxs.map fun x =>
    if fnOf x.1 = 128 ∨ (s.func (fnOf x.1)).domain = dom then
      ((s.gangsOf x.1).map fun g => g.views.filterMap fun v => if v.isOpen then some v.stamp.toNat else none).flatten
    else []).flatten

/-- The least of some numbers, `d` when there is none. -/
def leastOf (d : Nat) : List Nat → Nat
  | [] => d
  | n :: ns => ns.foldl Nat.min n

/-- The members of a domain (R176): this package where its own registers make it one, and the others (Config, the other packages). -/
def State.membersOf (s : State) (dom : Nat) : List Nat :=
  (if s.domains.contains dom then [s.pkgId] else []) ++ (Config.members dom).filter (· != s.pkgId)

/-- LWM_REPORT (R176): to the lowest-numbered member. -/
def execLwmReport (dom : Nat) (s : State) : Out :=
  .next <|
    if !s.domains.contains dom then s
    else
      let (v, s) := match s.viewStamps dom with
        | [] => let (t, s) := s.take; (t.toNat, s)
        | n :: ns => (leastOf 0 (n :: ns), s)
      let l := s.lwms.getD dom ⟨[], 0⟩
      let s : State := { s with lwms := s.lwms.set dom { l with reports := l.reports.set s.pkgId v } }
      s.reply .lwmReport (leastOf s.pkgId (s.membersOf dom)) dom 0 0 [v] []

/-- LWM_BROADCAST (R176): the lowest member casts the minimum of the members' last reports to every member; one that has never
reported counts as 0. -/
def execLwmBroadcast (dom : Nat) (s : State) : Out :=
  .next <|
    let ms := s.membersOf dom
    if !s.domains.contains dom ∨ leastOf s.pkgId ms ≠ s.pkgId then s
    else
      let l := s.lwms.getD dom ⟨[], 0⟩
      let reports := (ms.filter (· != s.pkgId)).foldl (fun m p => match Config.farReport dom p s.fresh with
        | some v => m.set p v.toNat
        | none => m) l.reports
      let all := ms.map fun p => reports.getD p 0
      let s : State := { s with fresh := s.fresh + 1, lwms := s.lwms.set dom { l with reports } }
      ms.foldl (fun s p => s.reply .lwmCast p dom 0 0 [leastOf 0 all] []) s

/-- LWM_RECEIVE (R176): the domain's functions, and the import store by the least over the package's domains. -/
def execLwmReceive (dom : Nat) (lwm stamp : BitVec 64) (s : State) : Out :=
  .next <|
    let s := s.merge stamp
    let l := s.lwms.getD dom ⟨[], 0⟩
    let s : State := { s with lwms := s.lwms.set dom { l with latest := lwm.toNat } }
    let up := fun (v : Nat) (u : Func) => { u with viewLwm := BitVec.ofNat 64 (Nat.max u.viewLwm.toNat v) }
    let s := (List.range 128).foldl (fun s f => if (s.func f).domain = dom then s.updFunc f (up lwm.toNat) else s) s
    let least := leastOf 0 (s.domains.map fun d => (s.lwms.getD d ⟨[], 0⟩).latest)
    s.updFunc 128 (up least)

/-- TAG_SWEEP (R177): a sealed tag at or below the store's VIEW_LWM is freed, at no context's charge. -/
def execTagSweep (f entry : Nat) (s : State) : Out :=
  .next <|
    let u := s.func f
    if !u.vOn ∨ u.tagPages * 8192 ≤ entry then s
    else
      let t := s.tagAt f (u.vBase + 32 * entry)
      if t.st ≠ 2 ∨ u.viewLwm.toNat < t.sealT then s
      else if s.tagAway t then s.recallLine (t.addr / 128)
      else (s.freeTag 0 nobody t).unbilled s

end Sys2Proof.Machine
end

