-- ==== Sys2Proof/Machine/Link.lean ====
section
/-! DEFINITION. The link layer of a fabric port (05:R115-R122): slots sent and received, replay, retraining, key epochs, and what
becomes of requests when a port goes down (05:R102). -/

namespace Sys2Proof.Machine

/-- Port `k`. -/
def State.port (s : State) (k : Nat) : PortSt := s.portSt.getD k PortSt.reset

/-! ## CRC-32 of IEEE 802.3 (R115) -/

/-- One bit of the remainder. -/
def crcBit (c : Nat) : Nat := if c % 2 = 1 then (c / 2) ^^^ 0xEDB88320 else c / 2

/-- One byte. -/
def crcByte (c : Nat) (b : Byte) : Nat :=
  crcBit (crcBit (crcBit (crcBit (crcBit (crcBit (crcBit (crcBit (c ^^^ b.toNat))))))))

/-- The CRC of bytes. -/
def crc32 (bs : List Byte) : Nat := bs.foldl crcByte 0xFFFFFFFF ^^^ 0xFFFFFFFF

/-! ## Counters and epochs (R117, R120) -/

/-- The key epoch a counter implies. -/
def PortSt.epochAt (p : PortSt) (ctr : Nat) : Nat :=
  match p.switchAt with
  | some c => if c ≤ ctr then p.epoch + 1 else p.epoch
  | none => p.epoch

/-- Both counters have passed the switch: the new epoch is the only one. -/
def PortSt.settleEpoch (p : PortSt) : PortSt :=
  match p.switchAt with
  | some c => if c ≤ p.txCtr ∧ c ≤ p.rxCtr then { p with epoch := p.epoch + 1, switchAt := none } else p
  | none => p

/-- The period of the key rotation in ns (R121): KEYPERIOD seconds, 0 acting as 1. -/
def State.keyPeriod (s : State) : Nat := Nat.max 1 (bitsOf s.fabCtl.toNat 0 12) * 1000000000

/-- The proposed switch is agreed once a management slot has gone each way (R120); a counter that has come within 2^16 of it by then
makes it void. -/
def PortSt.agree (p : PortSt) (now : Nat) : PortSt :=
  match p.proposed with
  | some c =>
    if p.mgmtOut || !p.mgmtIn then p
    else if p.txCtr + 2 ^ 16 ≤ c ∧ p.rxCtr + 2 ^ 16 ≤ c then { p with switchAt := some c, proposed := none, keyNs := now }
    else { p with proposed := none }
  | none => p

/-- KEY_ROTATION (R120): every KEYPERIOD seconds a counter value is proposed to the far end that is a multiple of 2^16 and lies at least
2^16 slots ahead. -/
def execKeyRotation (port switchAt : Nat) (s : State) : Out :=
  .next <|
    let p := s.port port
    if !bitOf s.ports port || !p.keyed || p.switchAt.isSome || p.proposed.isSome || decide (s.timeNs < p.keyNs + s.keyPeriod) ||
        switchAt % 2 ^ 16 != 0 || decide (switchAt < p.txCtr + 2 ^ 16) || decide (switchAt < p.rxCtr + 2 ^ 16) then s
    else s.updPort port fun p => { p with proposed := some switchAt, mgmtOut := true, mgmtIn := false }

/-! ## Going down (R102, R119) -/

/-- A request whose port went down is sent again through the next live port of its plane; it waits at one that retrains, or fails
fabric-lost when there is none (R102, R119). -/
def State.reroute (s : State) (tag : Nat) : State :=
  match s.remotes.find? tag with
  | none => s
  | some r =>
    let via := match s.portOf r.far r.pa with
      | some k => some k
      | none => ((List.range 4).map fun i => 4 * r.plane + i).find? fun k => (s.port k).retrain
    match via with
    | some k =>
      { s with remotes := s.remotes.set tag { r with port := k, resent := true } }.updPort k fun p =>
        { p with queued := p.queued + r.quarters }
    | none => s.failSent tag r 4

/-- Port `k` goes down and retrains (R119); it keeps SEQ, ACK and its replay buffer. -/
def State.portDown (s : State) (k : Nat) : State :=
  { s with ports := if bitOf s.ports k then s.ports - 2 ^ k else s.ports }.updPort k fun p =>
    { p with keyed := false, downNs := s.timeNs, retrain := true, proposed := none, switchAt := none }

/-- A message that is no request is sent again; a seal-record read, which its accesses wait for, is lost with its plane (R102). -/
def State.resend (s : State) (q : SentMsg) : State :=
  let s := { s with sentMsgs := s.sentMsgs.erase q }
  if q.m.kind = .recordRead ∧ s.portOf q.m.dst q.pa = none ∧ s.planeRetrains q.m.dst q.pa = false then s.loseAsk q.m
  else s.emit { q with port := none }

/-- Port `k` has not retrained (R102): every unacknowledged request and message that left through it is sent again. -/
def State.portLost (s : State) (k : Nat) : State :=
  let s := s.updPort k fun p => { p with retrain := false, queued := 0, credit := 0 }
  let s := ((s.remotes.filter fun r => r.2.port == k).map (·.1)).foldl State.reroute s
  (s.sentMsgs.filter fun q => q.port == some k || q.port.isNone).foldl State.resend s

/-- A port that is up and carries slots. -/
def State.carries (s : State) (k : Nat) : Bool := bitOf s.ports k && (s.port k).keyed

/-! ## Sending (R115-R117, R119) -/

/-- Types of slots (R116). -/
def slotData : Nat := 0
def slotIdle : Nat := 1
def slotNak : Nat := 2
def slotMgmt : Nat := 3

/-- The link header of a slot sent (R116): `seq` for a data slot, else the next SEQ. ACK is the last SEQ accepted, 0 after reset. -/
def PortSt.header (p : PortSt) (typ seq : Nat) : Nat :=
  seq * 2 ^ 20 + (if p.ackv then (p.rxSeq + 4095) % 4096 else 0) * 2 ^ 8 + typ * 2 ^ 6 + p.epochAt p.txCtr % 2 * 2 ^ 5 + b2n p.ackv * 2 ^ 4

/-- The nonce of a slot (R117): the salt of the session followed by the counter, big-endian. -/
def PortSt.nonce (p : PortSt) (port ctr : Nat) : List Byte :=
  (toBytes 4 (Config.salt port p.session).toNat).reverse ++ (toBytes 8 ctr).reverse

/-- The 256 bytes of a slot (R115): header, ciphertext and tag, CRC. -/
def PortSt.form (p : PortSt) (port typ seq : Nat) (payload : List Byte) : List Byte :=
  let hdr := toBytes 4 (p.header typ seq)
  let bs := hdr ++ (List.range 248).map
    (Config.sealedByte port p.session (p.epochAt p.txCtr) (p.nonce port p.txCtr) hdr payload)
  bs ++ toBytes 4 (crc32 bs)

/-- What a port sends next: the slot's type, SEQ and payload, and the port after it: a NAK, a management slot, a replay, a new data slot
when messages wait and the replay buffer has room, or an idle slot. -/
def PortSt.next (p : PortSt) (port now : Nat) : Nat × Nat × List Byte × PortSt :=
  let fill := (List.range 236).map (Config.payloadByte port (4096 + p.txCtr))
  if p.nak then (slotNak, p.txSeq, fill, { p with nak := false })
  else if p.mgmtOut then (slotMgmt, p.txSeq, fill, { p with mgmtOut := false })
  else if 0 < p.unsent then
    let e := p.replay.getD (p.replay.length - p.unsent) (0, [])
    (slotData, e.1, e.2, { p with
      unsent := p.unsent - 1, replays := Nat.min 0xFFFF (p.replays + 1)
      tries := if p.unsent = p.replay.length then p.tries + 1 else p.tries })
  else if 0 < p.queued ∧ p.replay.length < 1024 then
    let bs := (List.range 236).map (Config.payloadByte port p.txSeq)
    (slotData, p.txSeq, bs, { p with
      replay := p.replay ++ [(p.txSeq, bs)], txSeq := (p.txSeq + 1) % 4096, queued := p.queued - 4
      ackNs := if p.replay = [] then now else p.ackNs })
  else (slotIdle, p.txSeq, fill, p)

/-- SLOT_TRANSMIT (R117): a slot is formed and sent; every slot advances the counter. -/
def execSlotTransmit (port : Nat) (s : State) : Out :=
  .next <|
    if !s.carries port then s
    else
      s.updPort port fun p =>
        let n := p.next port s.timeNs
        ({ n.2.2.2 with slot := p.form port n.1 n.2.1 n.2.2.1, txCtr := (p.txCtr + 1) % 2 ^ 64 }.settleEpoch).agree s.timeNs

/-- A replay from ACK + 1 (R119): the whole buffer is to be sent again. A port that has replayed its oldest slot 16 times without
progress goes down. -/
def State.startReplay (s : State) (k : Nat) : State :=
  let p := s.port k
  if p.replay = [] then s
  else if 16 ≤ p.tries then s.portDown k
  else s.updPort k fun p => { p with unsent := p.replay.length, ackNs := s.timeNs }

/-- An acknowledgement frees the slots up to it (R119). -/
def PortSt.acked (p : PortSt) (ack now : Nat) : PortSt :=
  let rest := p.replay.dropWhile fun e => decide ((ack + 4096 - e.1) % 4096 < 2048)
  if rest.length = p.replay.length then p
  else { p with replay := rest, unsent := Nat.min p.unsent rest.length, tries := 0, ackNs := now }

/-! ## Receiving (R118) -/

/-- The receiver's counter has passed a slot position (R117); tag failures count within one key epoch (R119), that of the slots received. -/
def PortSt.passed (p : PortSt) : PortSt :=
  let ctr := (p.rxCtr + 1) % 2 ^ 64
  { p with rxCtr := ctr, tagFails := if p.epochAt p.rxCtr = p.epochAt ctr then p.tagFails else 0 }.settleEpoch

/-- SLOT_RECEIVE (R118): CRC, reserved bits, tag, SEQ, in this order. The receiver's counter advances whatever the slot holds
(R117). An accepted data slot brings the quarters of the messages whose events follow (R103); an accepted management slot
takes part in a key's agreement (R120). -/
def execSlotReceive (port : Nat) (bytes : List (BitVec 8)) (s : State) : Out :=
  .next <|
    if !s.carries port then s
    else
      let p := s.port port
      let hdr := fromBytes (bytes.take 4)
      let ctr := p.rxCtr
      let s := s.updPort port (·.passed)
      let corrupt := fun (s : State) => s.updPort port fun p => { p with nak := true }
      if bytes.length ≠ 256 ∨ crc32 (bytes.take 252) ≠ fromBytes (bytes.drop 252) then
        corrupt (s.updPort port fun p => { p with crcErr := Nat.min 0xFFFF (p.crcErr + 1) })
      else if hdr % 16 ≠ 0 ∨ bitsOf hdr 5 1 ≠ p.epochAt ctr % 2 then corrupt s
      else if !Config.slotTagOk port p.session (p.epochAt ctr) (p.nonce port ctr) bytes then
        let s := corrupt (s.updPort port fun p =>
          { p with authFail := Nat.min 0xFFFF (p.authFail + 1), tagFails := p.tagFails + 1 })
        if 8 ≤ (s.port port).tagFails then (s.updPort port fun p => { p with authDown := true }).portDown port else s
      else
        let s := if bitOf hdr 4 then s.updPort port fun p => p.acked (bitsOf hdr 8 12) s.timeNs else s
        let typ := bitsOf hdr 6 2
        let seq := bitsOf hdr 20 12
        if typ = slotNak then s.startReplay port
        else if typ = slotMgmt then s.updPort port fun p => { p with mgmtIn := true }.agree s.timeNs
        else if typ ≠ slotData then s
        else if seq = p.rxSeq then s.updPort port fun p =>
          { p with rxSeq := (p.rxSeq + 1) % 4096, ackv := true, credit := p.credit + 4 }
        else if (seq + 4096 - p.rxSeq) % 4096 < 2048 then corrupt s
        else s

/-- REPLAY_TIMEOUT (R119): no acknowledgement has advanced for 4 µs. -/
def execReplayTimeout (port : Nat) (s : State) : Out :=
  .next (if !s.carries port ∨ s.timeNs < (s.port port).ackNs + 4000 then s else s.startReplay port)

/-- RETRAIN_COMPLETE (R119): a new session with counters at 0; SEQ, ACK and the replay buffer are kept and sent again. -/
def execRetrainComplete (port : Nat) (s : State) : Out :=
  .next <|
    if 16 ≤ port ∨ s.carries port then s
    else
      (({ s with ports := s.ports ||| 2 ^ port }).updPort port fun p =>
        { p with keyed := true, session := p.session + 1, txCtr := 0, rxCtr := 0, epoch := 0, switchAt := none, tagFails := 0
                 tries := 0, unsent := p.replay.length, ackNs := s.timeNs, retrain := false, keyNs := s.timeNs
                 proposed := none, mgmtOut := false, mgmtIn := false }).emitHeld

/-- RETRAIN_TIMEOUT (R119): a port that has not retrained within TIMEOUT is handled as one that went down. -/
def execRetrainTimeout (port : Nat) (s : State) : Out :=
  .next (if !(s.port port).retrain ∨ s.timeNs < (s.port port).downNs + s.fabTimeout then s else s.portLost port)

end Sys2Proof.Machine
end

