-- ==== Sys2Proof/Machine/Power.lean ====
section
/-! DEFINITION. Operating points (19:R440-R442), power limits and alarms (19:R443-R445), the rack cap (19:R446-R449) and delayed
current steps (19:R450). -/

namespace Sys2Proof.Machine

/-! ## Transitions (R442) -/

/-- A transition to `dest` begins: a raise ramps the voltage first, a lowering switches the clocks first. -/
def Part.begin (pt : Part) (dest : Nat) : Part :=
  { pt with dest, trans := some dest, phase := if pt.op < dest then 2 else 3 }

/-- A transition is over. -/
def Part.arrived (pt : Part) : Part := { pt with op := pt.dest, trans := none, phase := 0 }

/-- OP_TRANSITION (R442): a raise whose step exceeds the threshold waits for its step-start point (R450); one that waits has not begun,
and gives way to a new target or ceiling. -/
def execOpTransition (p : Nat) (s : State) : Out :=
  .next <|
    let pt := s.part p
    let dest := Nat.min (s.target p) (s.ceiling p)
    if 1 < pt.phase ∨ (pt.phase = 1 ∧ dest = pt.dest) then s
    else if dest = pt.op then (if pt.phase = 1 then s.updPart p fun pt => { pt with phase := 0 } else s)
    else
      match if pt.op < dest then s.stepStart (4 * (currentLimit dest - currentLimit pt.op)) else none with
      | some t => s.updPart p fun pt => { pt with dest, phase := 1, stepNs := t }
      | none => s.updPart p fun pt => pt.begin dest

/-- VOLTAGE_RAMP_DONE (R442): after a raise's ramp the clocks switch; after a lowering's the transition is over. -/
def execVoltageRampDone (p : Nat) (s : State) : Out :=
  .next <|
    match (s.part p).phase with
    | 2 => s.updPart p fun pt => { pt with phase := 3 }
    | 4 => s.updPart p Part.arrived
    | _ => s

/-- CLOCK_SWITCH_DONE (R442): the end of a raise; in a lowering the voltage then falls. -/
def execClockSwitchDone (p : Nat) (s : State) : Out :=
  .next <|
    if (s.part p).phase ≠ 3 then s
    else s.updPart p fun pt => if pt.op < pt.dest then pt.arrived else { pt with phase := 4 }

/-- STEP_START (R450): units 0 to 39 are partitions, 40 is the slew limiter's batch. A raise whose target or ceiling has changed while it
waited does not begin: OP_TRANSITION judges it anew. -/
def execStepStart (unit : Nat) (s : State) : Out :=
  .next <|
    if unit < 40 then
      let dest := Nat.min (s.target unit) (s.ceiling unit)
      if (s.part unit).phase = 1 ∧ (s.part unit).stepNs ≤ s.timeNs then
        s.updPart unit fun pt => if dest = pt.dest then pt.begin pt.dest else { pt with phase := 0 }
      else s
    else
      match s.batchStep with
      | some t => if t ≤ s.timeNs then { s with batchStep := none, batchNs := s.timeNs + 1000, admitNs := s.timeNs } else s
      | none => s

/-! ## The power manager (R444) -/

/-- POWER_CHECK (R444): `watts` is the measured package power over the last 100 µs, a period that counts as throttled by the ceilings it
had at any instant of it. -/
def execPowerCheck (watts : Nat) (s : State) : Out :=
  .next <|
    let lim := s.powerLimit
    let top := (allParts.map fun p => (s.part p).op).foldl Nat.max 0
    let below := s.power.below || s.anyBelow
    let s :=
      if lim < watts then
        allParts.foldl (fun s p => if (s.part p).op = top then s.updPart p fun pt => { pt with ceil := pt.ceil - 1 } else s) s
      else if 100 * watts < 95 * lim then allParts.foldl (fun s p => s.updPart p fun pt => { pt with ceil := Nat.min 15 (pt.ceil + 1) }) s
      else s
    { s with power := { s.power with throttled := s.power.throttled || below, below := false } }.noteBelow

/-! ## Alarms (R443, R445) -/

/-- A cause bit of PWR_ALARM is set; one that was clear signals vector 19 of the physical function (R492; log 158). -/
def State.raiseAlarm (s : State) (i : Nat) : State :=
  let t : State := { s with alarm := s.alarm ||| BitVec.ofNat 64 (2 ^ i) }
  if bitOf s.alarm.toNat i then t else (t.noteBelow).interrupt 128 19

/-- An action of a cause lowers a partition's ceiling to `point` until `till` (0: until its end is reported). -/
def State.act (s : State) (cause unit p point till : Nat) : State :=
  (s.updPart p fun pt =>
    { pt with acts := (pt.acts.filter fun a => !(a.1 == cause && a.2.1 == unit)) ++ [(cause, unit, point, till)] }).noteBelow

/-- PKG_OC: every ceiling drops two points below its running point for 1 ms. -/
def execPkgOc (s : State) : Out :=
  .next (allParts.foldl (fun s p => s.act 0 0 p ((s.part p).op - 2) (s.timeNs + 1000000)) (s.raiseAlarm 0))

/-- PART_OC: PFIRST is written when the bit is set from zero. -/
def execPartOc (p : Nat) (s : State) : Out :=
  .next <|
    let s := if bitOf s.alarm.toNat 1 then s else { s with alarm := BitVec.ofNat 64 (setBits s.alarm.toNat 8 6 p) }
    (s.raiseAlarm 1).act 1 p p ((s.part p).op - 2) (s.timeNs + 1000000)

/-- The partitions of a rail: rails 0 to 39 are the partitions' own, the uncore's serves all. -/
def railParts (rail : Nat) : List Nat := if rail < 40 then [rail] else allParts

/-- UNDERVOLT: OP2 until the rail has stayed in range for 1 ms. -/
def execUndervolt (rail : Nat) (s : State) : Out :=
  .next ((railParts rail).foldl (fun s p => s.act 2 rail p 2 0) (s.raiseAlarm 2))

/-- OVERTEMP: OP5 until the sensor has stayed 5 °C below the trip point for 10 ms. -/
def execOvertemp (s : State) : Out := .next (allParts.foldl (fun s p => s.act 3 0 p 5 0) (s.raiseAlarm 3))

/-- SLEW (R443): no action beyond the loss of boost. -/
def execSlewAlarm (s : State) : Out := .next (s.raiseAlarm 4)

/-- ALARM_ACTION_END (R445): an action runs its course. -/
def execAlarmActionEnd (cause unit : Nat) (s : State) : Out :=
  .next (allParts.foldl (fun s p => s.updPart p fun pt =>
    { pt with acts := pt.acts.filter fun a => !(a.1 == cause && a.2.1 == unit && decide (a.2.2.2 ≤ s.timeNs)) }) s)

/-- PWR_ALARM (R443): writing 1 clears a cause; PFIRST stands. -/
def execPwrAlarmWrite (v : BitVec 64) (s : State) : Out :=
  .next { s with alarm := s.alarm &&& BitVec.ofNat 64 (2 ^ 64 - 1 - v.toNat % 32) }

/-- VF_OPMAX (R441): a lower OPMAX reduces the function's grants at once. -/
def execVfOpmaxWrite (f : Nat) (v : BitVec 64) (s : State) : Out :=
  .next <|
    let m := v.toNat % 16
    let s := s.updFunc f fun u => { u with opmax := m, opdef := bitsOf v.toNat 8 4 }
    let ctxs := s.ctxs.map fun c => (c.1, if fnOf c.1 = f then { c.2 with grant := c.2.grant.map (Nat.min m) } else c.2)
    { s with ctxs }.noteBelow

/-! ## The rack cap (R446-R449) -/

/-- Part of capping. -/
def Power.on (p : Power) : Bool := bitOf p.capCtl.toNat 63
/-- FLOOR as it acts. -/
def Power.floorW (p : Power) : Nat := Nat.min 2700 (bitsOf p.capCtl.toNat 0 12)
/-- RACKCAP. -/
def Power.rackCap (p : Power) : Nat := bitsOf p.capCtl.toNat 20 20

/-- The number of the 10 ms period of an instant. -/
def periodOf (ns : Nat) : Nat := ns / 10000000

/-- A demand takes its package's place among those received. -/
def Power.heard (p : Power) (d : Demand) : Power := { p with demands := (p.demands.filter fun e => e.pkg != d.pkg) ++ [d] }

/-- Demands received in any of the last three periods (R447). -/
def State.liveDemands (s : State) : List Demand :=
  (s.power.demands.filter fun d => decide (periodOf s.timeNs < periodOf d.ns + 3)).mergeSort fun a b => a.pkg ≤ b.pkg

/-- The leader (R447). -/
def State.leaderNow (s : State) : Option Nat := s.liveDemands.head?.map (·.pkg)

/-- A change of the leader that the package judges resets the sequence check (R449). -/
def State.noteLeader (s : State) : State :=
  if s.leaderNow = s.power.leader then s else { s with power := { s.power with leader := s.leaderNow, applied := none } }

/-- A message for every other package of a list: copies of one message, with one stamp. -/
def State.castAll (s : State) (kind : FabKind) (id : Nat) (words : List Nat) (dsts : List Nat) : State :=
  let (st, s) := s.take
  dsts.foldl (fun s p => s.emit ⟨{ kind, dst := p, id, words, bytes := [], stamp := st }, 0, 0, none⟩) s

/-- The other packages of the cap domain (Config). -/
def State.capMates (s : State) : List Nat :=
  (Config.capMembers (bitsOf s.power.capCtl.toNat 40 12)).filter fun p => p != s.pkgId

/-- DEMAND_SEND (R447): to every other package of the cap domain; the package's own demand counts as received. -/
def execDemandSend (avgWatts : Nat) (s : State) : Out :=
  .next <|
    if !s.power.on then s
    else
      let pmax := if s.alarm = 0 then 3200 else 2700
      let d := if s.power.throttled then pmax else Nat.min pmax (avgWatts + 100)
      let fl := s.power.floorW
      let n := s.power.demandSeq
      let s := s.noteLeader.castAll .demand n [s.pkgId, fl, Nat.max fl d] s.capMates
      { s with power := { s.power with demandSeq := (n + 1) % 2 ^ 32, throttled := false }.heard
                          { pkg := s.pkgId, floor := fl, demand := Nat.max fl d, ns := s.timeNs } }.noteLeader

/-- DEMAND_RECEIVE (R447). -/
def execDemandReceive (pkg floor demand : Nat) (stamp : BitVec 64) (_seq : Nat) (s : State) : Out :=
  .next <|
    let s := s.merge stamp
    if s.power.on then
      let s := s.noteLeader
      { s with power := s.power.heard { pkg, floor, demand, ns := s.timeNs } }.noteLeader
    else s

/-- The grants of R448, as package and watts. -/
def grants (b : Nat) (ds : List Demand) : List (Nat × Nat) :=
  let floors := (ds.map (·.floor)).sum
  let e := (ds.map fun d => d.demand - d.floor).sum
  let r := b - floors
  ds.map fun d =>
    (d.pkg,
      if b ≤ floors then d.floor
      else if r ≤ e then d.floor + r * (d.demand - d.floor) / e
      else Nat.min 3200 (d.demand + (r - e) / ds.length))

/-- GRANT_COMPUTE (R448): a package that judges itself leader sends the grants in one message, itself among those who receive it
(log 159, DEDUCED). -/
def execGrantCompute (s : State) : Out :=
  .next <|
    if !s.power.on ∨ s.leaderNow ≠ some s.pkgId then s
    else
      let n := s.power.grantSeq + 1
      let gs := grants s.power.rackCap s.liveDemands
      let s := s.castAll .grant n ((gs.map fun g => [g.1, g.2]).flatten) (gs.map (·.1))
      { s with power := { s.power with grantSeq := n } }

/-- GRANT_RECEIVE (R449): from the leader alone, and newer than the last applied from it. -/
def execGrantReceive (src seq watts : Nat) (stamp : BitVec 64) (s : State) : Out :=
  .next <|
    let s := s.merge stamp
    if !s.power.on then s
    else
      let s := s.noteLeader
      let newer : Bool := match s.power.applied with | some a => decide (a < seq) | none => true
      if s.leaderNow = some src ∧ newer = true then
        { s with power := { s.power with applied := some seq, cap := some watts, capNs := s.timeNs } }.noteBelow
      else s

/-- GRANT_LAPSE (R449): three whole periods have passed without an applied grant. -/
def execGrantLapse (s : State) : Out :=
  .next (if s.power.on ∧ periodOf s.power.capNs + 4 ≤ periodOf s.timeNs then
    { s with power := { s.power with cap := some s.power.floorW } }.noteBelow else s)

end Sys2Proof.Machine
end

