-- ==== Sys2Proof/Machine/Profile.lean ====
section
/-! DEFINITION. Profiling (21:R471-R481): sessions of counter banks, trace and causal units, PC samples, trials and capture
units. -/

namespace Sys2Proof.Machine

/-! ## Sessions (R472, R473, R475) -/

/-- OP of a command. -/
def cmdOp (cmd : BitVec 64) : Nat := cmd.toNat % 16
/-- VF of a command. -/
def cmdVf (cmd : BitVec 64) : Nat := bitsOf cmd.toNat 12 8

/-- A malformed command (R472): reserved bits, a filter from a virtual function, or an OP that is not one of 1 to 6. -/
def cmdBad (f : Nat) (cmd : BitVec 64) : Bool :=
  bitsOf cmd.toNat 20 44 != 0 || bitsOf cmd.toNat 4 8 != 0 || (f != 128 && cmdVf cmd != 0) || cmdOp cmd == 0 || decide (6 < cmdOp cmd)

/-- Some selection is unknown. -/
def SessData.anyUnknown (d : SessData) : Bool := (List.range 8).any d.unknown

/-- A function owns the session. -/
def Session.ownedBy (se : Session) (f : Nat) : Bool := (se.st == 1 && se.data.own == f) || (se.st == 2 && f == 128)

/-- GEN after one more change of hands. -/
def Session.next (se : Session) : Nat := (se.gen + 1) % 2 ^ 32

/-- Claim (R473). A claim of what the function holds already is refused. -/
def Session.claim (se : Session) (f vf : Nat) : Session :=
  let fresh : SessData := { SessData.reset with own := if f = 128 then vf else f }
  if se.st = 0 then { se with st := if f = 128 then 2 else 1, data := fresh, gen := se.next, code := 0, saved := none }
  else if se.ownedBy f then { se with code := 4 }
  else if se.st = 2 then { se with code := 1 }
  else if f ≠ 128 then { se with code := 2 }
  else { se with st := 2, data := fresh, gen := se.next, code := 0, reclaimed := true, saved := some se.data }

/-- Release (R473). -/
def Session.release (se : Session) (f : Nat) : Session :=
  if se.ownedBy f then
    match se.saved with
    | some d => { se with st := 1, data := d, gen := se.next, code := 0, saved := none }
    | none => { se with st := 0, data := SessData.reset, code := 0 }
  else
    match se.saved with
    | some d => if d.own = f then { se with saved := none, code := 0 } else { se with code := 3 }
    | none => { se with code := 3 }

/-- Start (R472, R480): a trial takes its snapshot. -/
def Session.start (se : Session) (f r now : Nat) (prog : List Nat) : Session :=
  if !se.ownedBy f then { se with code := 3 }
  else if se.data.run then { se with code := 0 }
  else
    let d := { se.data with run := true }
    let d := if r = 5 then { d with running := true, snap := prog, startNs := now, insNow := 0 } else d
    { se with data := d, code := 0, evtLost := se.evtLost || (decide (r < 4) && d.anyUnknown) }

/-- Stop (R472, R480): a trial ends. -/
def Session.stop (se : Session) (f r now : Nat) (prog : List Nat) : Session :=
  if !se.ownedBy f then { se with code := 3 }
  else
    let d := if r = 5 ∧ se.data.running then se.data.endTrial prog now false else { se.data with run := false }
    { se with data := d, code := 0 }

/-- Clear (R472). -/
def Session.clear (se : Session) (f : Nat) : Session :=
  if !se.ownedBy f then { se with code := 3 }
  else { se with data := { se.data with cnt := List.replicate 8 0, dropped := 0 }, code := 0 }

/-- Restore (R475): a free bank becomes the function's with what was written; unknown counters read zero. -/
def Session.restore (se : Session) (f r vf : Nat) : Session :=
  if f ≠ 128 ∨ 4 ≤ r ∨ se.st ≠ 0 ∨ 128 ≤ vf then { se with code := 4 }
  else
    let d := { se.data with own := vf, cnt := (List.range 8).map fun j => if se.data.unknown j then 0 else se.data.cnt.getD j 0 }
    { se with st := 1, data := d, gen := se.next, code := 0, evtLost := se.evtLost || d.anyUnknown }

/-- A command of function `f` to a resource: a malformed one, or one with another OP than its own, sets CODE 4; a resource the
function does not reach ignores it. -/
def State.command (s : State) (f p r : Nat) (cmd : BitVec 64) (op : Nat) (g : Session → Session) : State :=
  if !s.reaches f p ∨ s.shut f = true ∨ 6 ≤ r then s
  else
    s.updPart p fun pt =>
      let se := pt.resource r
      { pt with prof := pt.prof.set r (if cmdBad f cmd ∨ cmdOp cmd ≠ op then { se with code := 4 } else g se) }

/-- SESSION_CLAIM (R473). -/
def execSessionClaim (f p res : Nat) (cmd : BitVec 64) (s : State) : Out := .next (s.command f p res cmd 1 fun se => se.claim f (cmdVf cmd))

/-- SESSION_RELEASE (R473). -/
def execSessionRelease (f p res : Nat) (cmd : BitVec 64) (s : State) : Out := .next (s.command f p res cmd 2 fun se => se.release f)

/-- SESSION_START (R472). -/
def execSessionStart (f p res : Nat) (cmd : BitVec 64) (s : State) : Out :=
  .next (s.command f p res cmd 3 fun se => se.start f res s.timeNs (s.part p).prog)

/-- SESSION_STOP (R472). -/
def execSessionStop (f p res : Nat) (cmd : BitVec 64) (s : State) : Out :=
  .next (s.command f p res cmd 4 fun se => se.stop f res s.timeNs (s.part p).prog)

/-- SESSION_RESTORE (R475). -/
def execSessionRestore (f p res : Nat) (cmd : BitVec 64) (s : State) : Out :=
  .next (s.command f p res cmd 5 fun se => se.restore f res (cmdVf cmd))

/-- SESSION_CLEAR (R472). -/
def execSessionClear (f p res : Nat) (cmd : BitVec 64) (s : State) : Out := .next (s.command f p res cmd 6 fun se => se.clear f)

/-- SESSION_CMD_REFUSED (R472): CODE 4, when the command is malformed. -/
def execSessionCmdRefused (f p res : Nat) (cmd : BitVec 64) (s : State) : Out :=
  .next (if cmdBad f cmd then s.command f p res cmd 0 id else s)

/-! ## Samples and trials -/

/-- The gang of a lane row picked last. -/
def Cluster.rowGang (k : Cluster) (row : Nat) : Option (Nat × Gang) :=
  (k.slotted.filter fun g => g.1 / 16 == row && !g.2.liveLanes.isEmpty).foldl (fun b g =>
    match b with | none => some g | some h => if h.2.picked < g.2.picked then some g else some h) none

/-- The front-end cycles between two PC samples of a lane row (R476). -/
def State.samplePeriod (s : State) (p : Nat) : Nat := 2 ^ (bitsOf ((s.part p).resource 4).data.trCtl.toNat 19 5 + 6)

/-- PC_SAMPLE (R476): at the multiples of the period, the PC of the gang that the row picked last. -/
def execPcSample (c row : Nat) (s : State) : Out :=
  .next <|
    match (s.cluster c).rowGang row with
    | none => s
    | some (slot, g) =>
      if s.cycles % s.samplePeriod (partOf c) ≠ 0 then s else s.trace (partOf c) 8 (16 * c + row) slot g.ctx 0 (g.pcOf g.liveLanes) 0 0

/-- TRIAL_END (R480): after TRIAL_US, of which 0 acts as 1. -/
def execTrialEnd (p : Nat) (s : State) : Out :=
  .next <|
    let se := (s.part p).resource 5
    let len := Nat.max 1 (se.data.cxCtl.toNat % 2 ^ 32) * 1000
    if !se.data.running ∨ s.timeNs < se.data.startNs + len then s
    else s.updPart p fun pt => { pt with prof := pt.prof.set 5 { se with data := se.data.endTrial pt.prog s.timeNs false } }

/-! ## Capture units (R481) -/

/-- The bin of a sample. -/
def Hcu.binOf (h : Hcu) (v : Nat) : Nat :=
  let base := h.ctl.toNat / 2 ^ 32
  if v < base then 0 else Nat.min 15 ((v - base) / 2 ^ bitsOf h.ctl.toNat 4 5)

/-- A sample taken. -/
def Hcu.sample (h : Hcu) (v : Nat) : Hcu :=
  if !bitOf h.ctl.toNat 15 ∨ 6 < h.ctl.toNat % 16 then h
  else
    { h with
      min := Nat.min h.min v, max := Nat.max h.max v, cnt := (h.cnt + 1) % 2 ^ 64
      bins := h.bins.modify (h.binOf v) fun n => Nat.min 0xFFFFFFFF (n + 1) }

/-- CAPTURE_SAMPLE (R481). -/
def execCaptureSample (p u : Nat) (v : BitVec 32) (s : State) : Out :=
  .next (s.updPart p fun pt => { pt with hcu := pt.hcu.set u ((pt.hcu.getD u Hcu.reset).sample v.toNat) })

/-- HCU_CTL written (R481): CLR resets what was gathered and reads 0. -/
def execHcuClear (p u : Nat) (v : BitVec 64) (s : State) : Out :=
  .next (s.updPart p fun pt =>
    let h := if bitOf v.toNat 14 then Hcu.reset else pt.hcu.getD u Hcu.reset
    { pt with hcu := pt.hcu.set u { h with ctl := v &&& 0xFFFFFFFF000081FF } })

end Sys2Proof.Machine
end

