-- ==== Sys2Proof/Machine/Resets.lean ====
section
/-! DEFINITION. Resets and boot (22:R491, R500, R501). -/

namespace Sys2Proof.Machine

/-! ## What resets keep -/

/-- The security complex after a reset: module flash, the record in force, the boot epoch and the count of readings stay, the
last because RSEQ never repeats (R451); what the out-of-band port has sent is outside. -/
def Mgmt.afterReset (m : Mgmt) : Mgmt :=
  { State.reset.mgmt with epoch := m.epoch, readings := m.readings, slots := m.slots, active := m.active
                          nextActive := m.nextActive, minSvn := m.minSvn, record := m.record, stored := m.stored, oob := m.oob }

/-- Everything at its reset value, HBM4 among it, but what lies outside the package: the events to come and the time of day, the
memory behind the host window, and what has already been sent. -/
def State.afterReset (s : State) (m : Mgmt) : State :=
  { State.reset with inputs := s.inputs, fresh := s.fresh, timeNs := s.timeNs, msgs := s.msgs, fabOut := s.fabOut
                     mem := s.mem.filter fun c => inHost c.1, mgmt := m }

/-- The sticky fields of PWR_ALARM (R443). -/
def stickyAlarm : DWord := 0x3F1F

/-! ## Resets (R491) -/

/-- COLD_RESET: sticky fields too; the boot epoch is raised, the count of readings starts again (R451), and a record that waits
for it takes effect (R499). -/
def execColdReset (s : State) : Out :=
  .next <|
    let m := s.mgmt.afterReset
    s.afterReset { m with epoch := m.epoch + 1, readings := 0, record := m.stored.getD m.record, stored := none }

/-- WARM_RESET: a slot that waits for it becomes active (R499). BOOT follows as an event of its own. -/
def State.warmReset (s : State) : State :=
  let m := s.mgmt.afterReset
  { s.afterReset { m with active := m.nextActive } with alarm := s.alarm &&& stickyAlarm }

/-- WARM_RESET (R491). -/
def execWarmReset (s : State) : Out := .next s.warmReset

/-- A hot reset: as warm, with the firmware and its identity staying as they are. -/
def State.hotReset (s : State) : State :=
  { s.afterReset { s.mgmt.afterReset with recovery := s.mgmt.recovery } with
    alarm := s.alarm &&& stickyAlarm
    fabCtl := BitVec.ofNat 64 (s.pkgId * 2 ^ 54 + State.reset.fabCtl.toNat % 2 ^ 54) }

/-- HOT_RESET (R491). -/
def execHotReset (s : State) : Out := .next s.hotReset

/-- A resource after the reset of function `f` (R473): its session is freed, a saved one too. -/
def Session.flr (se : Session) (f : Nat) : Session :=
  let se := match se.saved with | some d => if d.own = f then { se with saved := none } else se | none => se
  if se.st = 1 ∧ se.data.own = f then { se with st := 0, data := SessData.reset, reclaimed := false, evtLost := false } else se

/-- What a function-level reset does (R491): its contexts end and their entries complete ABORTED, then its queues, sequences,
sessions and translator entries are reset. -/
def State.resetFunc (s : State) (f : Nat) : State :=
  let xs := (s.ctxs.filter fun c => fnOf c.1 == f && c.2.st != 0 && c.2.st != 4).map (·.1)
  let s := xs.foldl State.endContext s
  let s := { s with parts := s.parts.map fun (p : Nat × Part) => (p.1, { p.2 with prof := p.2.prof.map fun (r : Nat × Session) => (r.1, r.2.flr f) }) }
  s.updFunc f fun u => { u with queues := [], prqSeq := 0, csgNext := 1, xcCache := [], flr := true }

/-- FUNCTION_LEVEL_RESET (R491). Of the physical function it is a hot reset. -/
def execFunctionLevelReset (f : Nat) (s : State) : Out :=
  .next <|
    if f < 128 then s.resetFunc f
    else if f = 128 then s.hotReset.updFunc 128 fun u => { u with flr := true }
    else s

/-- FUNCTION_LEVEL_RESET_END (R491). -/
def execFunctionLevelResetEnd (f : Nat) (s : State) : Out := .next (s.updFunc f fun u => { u with flr := false })

/-! ## Boot (R500, R501) -/

/-- The stacks found are those of the record: eight, each of the identity, size and height it names (R501). -/
def stacksMatch (record : List Byte) (found : List (BitVec 64)) : Bool :=
  found == (List.range 8).map (Config.stackOf record)

/-- The checks of a flash slot (R500): its images' signatures and its security version. -/
def Mgmt.slotOk (m : Mgmt) (i : Nat) : Bool :=
  match m.slots[i]? with
  | some sl => Config.imageOk sl.image && decide (m.minSvn ≤ sl.svn)
  | none => false

/-- Boot's choice of a slot: the active one, then the other; none is recovery mode. -/
def Mgmt.boot (m : Mgmt) (found : List (BitVec 64)) : Mgmt :=
  let good := Config.recordOk m.record && stacksMatch m.record found
  if good && m.slotOk m.active then { m with recovery := false }
  else if good && m.slotOk (1 - m.active) then { m with recovery := false, active := 1 - m.active, nextActive := 1 - m.active }
  else { m with recovery := true }

/-- BOOT (R500): PKGID comes from the record in force (R121, R501). -/
def execBoot (found : List (BitVec 64)) (s : State) : Out :=
  .next { s with
    mgmt := s.mgmt.boot found
    fabCtl := BitVec.ofNat 64 ((Config.pkgIdOf s.mgmt.record).toNat * 2 ^ 54 + s.fabCtl.toNat % 2 ^ 54) }

end Sys2Proof.Machine
end

