-- ==== Sys2Proof/Machine/Mailbox.lean ====
section
/-! DEFINITION. The control ports: the semaphore, the mailbox commands and signed meter readings (19:R451, 22:R495-R503), and the
unmasking of an interrupt vector (22:R492). -/

namespace Sys2Proof.Machine

/-- MSIX_UNMASK (R492): a pending vector's message is sent. -/
def execMsixUnmask (f vec : Nat) (s : State) : Out :=
  .next <|
    if s.shut f ∨ 20 ≤ vec then s
    else
      let u := s.func f
      let clear := fun m => if bitOf m vec then m - 2 ^ vec else m
      let s := s.updFunc f fun u => { u with msixMask := clear u.msixMask, msixPend := clear u.msixPend }
      if bitOf u.msixPend vec then { s with msgs := s.msgs ++ [(f, vec)] } else s

/-! ## The semaphore (R497, R498) -/

/-- A port's code in OWNER and LAST. -/
def portCode : Port → Nat
  | .host => 1
  | .oob => 2

/-- The other port. -/
def otherPort : Port → Port
  | .host => .oob
  | .oob => .host

/-- The host port's registers take no write while the physical function is in reset (R491). -/
def State.portShut (s : State) : Port → Bool
  | .host => (s.func 128).flr
  | .oob => false

/-- The state with the security complex changed. -/
def State.updMgmt (s : State) (g : Mgmt → Mgmt) : State := { s with mgmt := g s.mgmt }

/-- The other port acquires in the same cycle: its event is due too. -/
def State.acquiresToo (s : State) (p : Port) : Bool := s.inputs.any fun a =>
  decide (a.cyc ≤ s.cycles) && match a.ev with | .semAcquire q => q == p | _ => false

/-- SEM_ACQUIRE (R498): of two ports in one cycle, the one other than LAST is granted. -/
def execSemAcquire (port : Port) (s : State) : Out :=
  .next <|
    if s.portShut port = true ∨ s.mgmt.owner ≠ 0 then s
    else if s.mgmt.last = portCode port ∧ s.acquiresToo (otherPort port) = true then s
    else s.updMgmt fun m =>
      { m with owner := portCode port, last := portCode port, gseq := (m.gseq + 1) % 2 ^ 32, semNs := s.timeNs }

/-- SEM_RELEASE (R498). -/
def execSemRelease (port : Port) (s : State) : Out :=
  .next <| if s.portShut port = true ∨ s.mgmt.owner ≠ portCode port then s else s.updMgmt fun m => { m with owner := 0 }

/-- SEM_RENEW (R498). -/
def execSemRenew (port : Port) (s : State) : Out :=
  .next <|
    if s.portShut port = true ∨ s.mgmt.owner ≠ portCode port then s else s.updMgmt fun m => { m with semNs := s.timeNs }

/-- SEM_TIMEOUT (R498): an owner without a command or a renew for TMO ms, of which 0 acts as 1. -/
def execSemTimeout (s : State) : Out :=
  .next <|
    let m := s.mgmt
    if m.owner = 0 ∨ s.timeNs < m.semNs + Nat.max 1 m.tmo * 1000000 then s
    else s.updMgmt fun m => { m with owner := 0, gseq := (m.gseq + 1) % 2 ^ 32 }

/-! ## Commands (R496, R498, R499) -/

/-- The fields of MBX_CMD (R496). -/
def mbxOp (cmd : BitVec 64) : Nat := cmd.toNat % 256
def mbxLen (cmd : BitVec 64) : Nat := bitsOf cmd.toNat 16 16
def mbxGseq (cmd : BitVec 64) : Nat := cmd.toNat / 2 ^ 32

/-- The greatest request of a command (R499); none for an opcode that is no command. -/
def mbxSize (op : Nat) : Option Nat :=
  if op = 0x02 then some Config.readingSize.toNat
  else if op = 0x03 ∨ op = 0x10 ∨ op = 0x12 then some 4096
  else if op = 0x01 ∨ op = 0x11 ∨ op = 0x13 ∨ op = 0x20 then some 0
  else none

/-- BAD_CMD (R499): the opcode, the length, a reserved bit. -/
def mbxBad (cmd : BitVec 64) : Bool :=
  bitsOf cmd.toNat 8 8 != 0 || match mbxSize (mbxOp cmd) with | some n => decide (n < mbxLen cmd) | none => true

/-- Commands of the semaphore's owner (R499), and those that run in recovery mode (R500). -/
def mbxOwned (op : Nat) : Bool := op == 0x10 || op == 0x11 || op == 0x12 || op == 0x20
def mbxRecovers (op : Nat) : Bool := op == 0x01 || op == 0x03 || op == 0x10 || op == 0x11 || op == 0x13

/-- A command's end (R496): its status and response; the host's vector 19. -/
def State.mbxEnd (s : State) (p : Port) (status : Nat) (resp : List Byte) : State :=
  match p with
  | .oob => s.updMgmt fun m => { m with oob := (status, resp) }
  | .host =>
    let s := s.updMgmt fun m =>
      { m with mbxStatus := status, mbxRlen := resp.length % 2 ^ 16
               mbxBuf := ((List.range 4096).zip resp).foldl (fun b e => b.set e.1 e.2) m.mbxBuf }
    s.interrupt 128 19

/-- What turns a command away: its form, recovery mode, the semaphore. -/
def State.mbxStop (s : State) (p : Port) (cmd : BitVec 64) : Option Nat :=
  if mbxBad cmd then some 3
  else if s.mgmt.recovery && !mbxRecovers (mbxOp cmd) then some 5
  else if !mbxOwned (mbxOp cmd) then none
  else if s.mgmt.owner ≠ portCode p then some 2
  else if mbxGseq cmd ≠ s.mgmt.gseq then some 1
  else none

/-- A command with opcode `op`, served in one step: `run` answers its state, status and response. A command of the semaphore's
owner keeps the semaphore (R498). -/
def State.serveMbx (s : State) (p : Port) (cmd : BitVec 64) (op : Nat) (run : State → State × Nat × List Byte) : State :=
  if s.portShut p = true ∨ mbxOp cmd ≠ op then s
  else
    let s := s.updMgmt fun m =>
      { m with mbxCmd := if p = .host then cmd &&& ~~~0xFF00#64 else m.mbxCmd, semNs := if m.owner = portCode p then s.timeNs else m.semNs }
    match s.mbxStop p cmd with
    | some st => s.mbxEnd p st []
    | none =>
      let (s, st, resp) := run s
      s.mbxEnd p st resp

/-- STATUS (R499). -/
def execMbxStatus (port : Port) (cmd : BitVec 64) (_body : List (BitVec 8)) (s : State) : Out :=
  .next (s.serveMbx port cmd 0x01 fun s =>
    let m := s.mgmt
    (s, 0, Config.statusImage ([b2n m.recovery, m.active] ++ m.slots.map (·.svn) ++ [m.minSvn, m.gseq, m.epoch])))

/-- The meter a reading names (R451): a function's exact meter, or a context's; none when there is no such context. -/
def State.readMeter (s : State) (vf ctxid : Nat) : Meter :=
  let f := if vf = 0xFF then 128 else vf
  if 128 ≤ vf ∧ vf ≠ 0xFF then .zero
  else if ctxid = 0xFFF then (s.func f).meter
  else match s.ctxs.find? (f * 4096 + ctxid) with | some c => if c.st = 0 then .zero else c.meter | none => .zero

/-- Bytes 0-39 of a reading (R451). -/
def readingBytes (pkg vf ctxid : Nat) (m : Meter) (stamp rseq nonce : Nat) : List Byte :=
  toBytes 2 pkg ++ toBytes 1 vf ++ toBytes 1 0 ++ toBytes 2 ctxid ++ toBytes 2 m.wraps ++ toBytes 8 m.pj ++ toBytes 8 stamp ++
    toBytes 8 rseq ++ toBytes 8 nonce

/-- SIGNED_METER_READING (R451): RSEQ counts the readings since the cold boot, this one included. -/
def execSignedMeterReading (port : Port) (cmd : BitVec 64) (body : List (BitVec 8)) (s : State) : Out :=
  .next (s.serveMbx port cmd 0x02 fun s =>
    let vf := (Config.readingFn body).toNat
    let ctxid := (Config.readingCtx body).toNat
    let (stamp, s) := s.take
    let s := s.updMgmt fun m => { m with readings := m.readings + 1 }
    let rseq := s.mgmt.epoch % 2 ^ 32 * 2 ^ 32 + s.mgmt.readings % 2 ^ 32
    let r := readingBytes s.pkgId vf ctxid (s.readMeter vf ctxid) stamp.toNat rseq (Config.readingNonce body).toNat
    (s, 0, r ++ (List.range 132).map (Config.signature r)))

/-- SPDM_MESSAGE (R503): KEY_EX and PSK_EX are answered ERROR UnsupportedRequest; other answers are free, by what is measured. -/
def execSpdmMessage (port : Port) (cmd : BitVec 64) (body : List (BitVec 8)) (s : State) : Out :=
  .next (s.serveMbx port cmd 0x03 fun s =>
    let req := body.getD 1 0
    if req = 0xE4 ∨ req = 0xE6 then (s, 0, [body.getD 0 0, 0x7F, 0x07, req])
    else
      let m := s.mgmt
      let image := ((m.slots[m.active]?).map (·.image)).getD []
      ({ s with fresh := s.fresh + 1 }, 0,
        (Config.spdmAnswer body [image, m.record, toBytes 8 m.minSvn, toBytes 8 m.epoch] s.fresh).take 4096))

/-- STAGE_IMAGE (R499, R500): an image whose signature or security version fails is not written. -/
def execStageImage (port : Port) (cmd : BitVec 64) (body : List (BitVec 8)) (s : State) : Out :=
  .next (s.serveMbx port cmd 0x10 fun s =>
    let svn := Config.svnOf body
    if !Config.imageOk body ∨ svn < s.mgmt.minSvn then (s, 4, [])
    else (s.updMgmt fun m => { m with slots := m.slots.set (1 - m.active) ⟨body, svn⟩ }, 0, []))

/-- ACTIVATE_SLOT (R499, R500): the staged slot from the next warm reset on; the stored minimum rises to its versions. -/
def execActivateSlot (port : Port) (cmd : BitVec 64) (_body : List (BitVec 8)) (s : State) : Out :=
  .next (s.serveMbx port cmd 0x11 fun s =>
    (s.updMgmt fun m =>
      { m with nextActive := 1 - m.active, minSvn := Nat.max m.minSvn (((m.slots[1 - m.active]?).map (·.svn)).getD 0) }, 0, []))

/-- WRITE_CONFIGURATION_RECORD (R499, R501): kept for the next cold boot. -/
def execWriteConfigurationRecord (port : Port) (cmd : BitVec 64) (body : List (BitVec 8)) (s : State) : Out :=
  .next (s.serveMbx port cmd 0x12 fun s =>
    if Config.recordOk body then (s.updMgmt fun m => { m with stored := some body }, 0, []) else (s, 4, []))

/-- READ_CONFIGURATION_RECORD (R499): the record in force. -/
def execReadConfigurationRecord (port : Port) (cmd : BitVec 64) (_body : List (BitVec 8)) (s : State) : Out :=
  .next (s.serveMbx port cmd 0x13 fun s => (s, 0, s.mgmt.record))

/-- MBX_WARM_RESET (R499): the reset follows the response. -/
def execMbxWarmReset (port : Port) (cmd : BitVec 64) (_body : List (BitVec 8)) (s : State) : Out :=
  .next <|
    let t := s.serveMbx port cmd 0x20 fun s => (s, 0, [])
    if s.portShut port = true ∨ mbxOp cmd ≠ 0x20 ∨ (s.mbxStop port cmd).isSome then t else t.warmReset

/-- BAD_CMD (R499). -/
def execBadCmd (port : Port) (cmd : BitVec 64) (_body : List (BitVec 8)) (s : State) : Out :=
  .next (if mbxBad cmd then s.serveMbx port cmd (mbxOp cmd) fun s => (s, 3, []) else s)

end Sys2Proof.Machine
end

