-- ==== Sys2Proof/Machine/PredInstr.lean ====
section
/-! DEFINITION. The predicate instructions: major 0x05 (11:R276). -/

namespace Sys2Proof.Machine

/-- The compare codes of R276. -/
def cmpInt (cc : Nat) (a b : Int) : Bool :=
  match cc with
  | 0 => a == b
  | 1 => a != b
  | 2 => a < b
  | 3 => a ≤ b
  | 4 => b < a
  | _ => b ≤ a

/-- A predicate effect: `pd` in each active lane, at one integer toll times `k`. -/
def predEff (c : Ctxt) (s : State) (k : Nat) (res : Nat → Bool) : Eff :=
  .go (writePred (chargeLanes s c 1 k) c (c.f.vd.toNat % 8) res) []

/-- The comparison of two typed sources in a lane. -/
def cmpLane (c : Ctxt) (l : Nat) : Bool :=
  let t := tyOf c.f
  cmpInt (auxBits c.f 4 3) (tyVal t (c.a (tyRegs t) l)) (tyVal t (c.b (tyRegs t) l))

def execIcmp (f : Fields) (s : State) : Out :=
  issueWith (.icmp f) f s fun c s => predEff c s (tyToll (tyOf f)) (cmpLane c)

def execIcmpc (f : Fields) (s : State) : Out :=
  issueWith (.icmpc f) f s fun c s =>
    predEff c s (tyToll (tyOf f)) fun l =>
      let p := (c.g.thread l).pred (auxBits f 7 3)
      if auxBit f 10 then cmpLane c l || p else cmpLane c l && p

/-- A predicate logic instruction: NA in AUX bit 0, NB in bit 1. -/
def predLogic (i : Instr) (f : Fields) (s : State) (op : Bool → Bool → Bool) : Out :=
  issueWith i f s fun c s =>
    predEff c s 1 fun l =>
      op ((c.g.thread l).pred f.vs0.toNat != auxBit f 0) ((c.g.thread l).pred f.vs1.toNat != auxBit f 1)

def execPand (f : Fields) (s : State) : Out := predLogic (.pand f) f s (· && ·)
def execPor (f : Fields) (s : State) : Out := predLogic (.por f) f s (· || ·)
def execPxor (f : Fields) (s : State) : Out := predLogic (.pxor f) f s (· != ·)

def execPnot (f : Fields) (s : State) : Out :=
  issueWith (.pnot f) f s fun c s => predEff c s 1 fun l => !(c.g.thread l).pred f.vs0.toNat

def execPset (f : Fields) (s : State) : Out :=
  issueWith (.pset f) f s fun c s => predEff c s 1 fun l => bitOf (c.a 1 l) (immU f)

def execPget (f : Fields) (s : State) : Out :=
  issueWith (.pget f) f s fun c s =>
    intEff c s 1 1 fun l => maskOf ((List.range 8).filter fun p => (c.g.thread l).pred p)

end Sys2Proof.Machine
end

