-- ==== Sys2Proof/Machine/Supervisor.lean ====
section
/-! DEFINITION. The resident supervisor's side of a cluster (20:R454-R459): the trap ring, GANG_CTL, the debug window, user
handlers. -/

namespace Sys2Proof.Machine

/-! ## The trap ring and GANG_CTL -/

/-- TRAP_RING_RETRY (R454): the oldest held record enters the ring when there is room, stamped as it is written (R453). -/
def execTrapRingRetry (c : Nat) (s : State) : Out :=
  .next <|
    let k := s.cluster c
    match k.held with
    | r :: rs =>
      if k.ring.length < 256 then
        let (st, s) := s.take
        s.updCluster c fun k => { k with ring := k.ring ++ [{ r with stamp := st }], held := rs }
      else s
    | [] => s

/-- The first record that passes a test is removed from the first of some lists that holds one. -/
def eraseRec (p : TrapRec → Bool) (a b : List TrapRec) : List TrapRec × List TrapRec :=
  if a.any p then (a.eraseP p, b) else (a, b.eraseP p)

/-- The gang's oldest record is settled; the others are kept (R454; log 157, DESIGN CHOICE). -/
def Cluster.settleRecord (k : Cluster) (slot : Nat) (g : Gang) : Cluster :=
  if g.records ≠ [] then { k with gangs := k.gangs.adjust slot fun g => { g with records := g.records.tail } }
  else
    let r := eraseRec (·.of slot g) k.taken k.ring
    { k with taken := r.1, ring := r.2 }

/-- GANG_CTL (R456, R469): HALT = 0 clears TSTOP, as the action on the gang's oldest record; after a breakpoint record the next issue at
its PC is exempt. -/
def execGangCtl (c slot : Nat) (v : BitVec 64) (s : State) : Out :=
  .next <|
    match (s.cluster c).gangs.find? slot with
    | none => s
    | some g =>
      if 64 ≤ slot then s
      else if bitOf v.toNat 1 then s.updGang c slot fun g => { g with halt := true }
      else
        let exempt := match ((s.cluster c).recordsOf slot g).getLast? with
          | some r => if r.cls = clsBreakpoint ∧ g.liveLanes.any fun l => (g.thread l).pc == r.pc then some r.pc else none
          | none => none
        (s.updCluster c fun k => k.settleRecord slot g).updGang c slot fun g =>
          { g with halt := false, tstop := false, exempt
                   threads := if g.halt || g.tstop then g.threads.map Thread.resumed else g.threads }

/-! ## The debug window (R457) -/

/-- A thread-state word written; reserved bits are left. A written PC inside a clause is taken up behind the
header before it, which `hdr` names. A stack holds at most D = `depth` entries (R199), so the count takes no more (log 142, DESIGN
CHOICE). -/
def Thread.putWord (t : Thread) (depth i v : Nat) (hdr : DWord) : Thread :=
  let d := BitVec.ofNat 64 v
  let lvl := fun (l : Option LoopLevel) (j : Nat) =>
    let o := l.getD ⟨0, 0, 0⟩
    some (if j = 0 then { o with lc := BitVec.ofNat 32 v } else if j = 1 then { o with le := d } else { o with ls := d })
  if i = 0 then { t with pc := hdr, target := if hdr = d then none else some d, clause := none, skip := none, wait := none }
  else if i = 1 then { t with mr := d }
  else if i = 2 then { t with scnt := min depth (v % 2 ^ 16) }
  else if i = 3 then { t with preds := BitVec.ofNat 8 (v % 256 / 2 * 2 + 1) }
  else if i < 8 then { t with xregs := t.xregs.set (i - 4) (BitVec.ofNat 32 v &&& ~~~0x10000#32) }
  else if i < 11 then { t with loop0 := lvl t.loop0 (i - 8) }
  else if i < 14 then { t with loop1 := lvl t.loop1 (i - 11) }
  else if i = 14 then { t with seed := BitVec.ofNat 32 v }
  else { t with live := bitOf v 0 }

/-- A word of a trap record written, its reserved bits left (R453). -/
def TrapRec.putWord (r : TrapRec) (j v : Nat) : TrapRec :=
  let d := BitVec.ofNat 64 v
  match j with
  | 0 => { r with
      cls := bitsOf v 58 6, subtype := bitsOf v 50 8, stage := bitsOf v 49 1, level := bitsOf v 47 2, eng := bitsOf v 44 3
      async := bitOf v 43, gone := bitOf v 42, gang := bitsOf v 36 6, cluster := bitsOf v 28 8, ctxid := bitsOf v 16 12
      vf := bitsOf v 9 7, pfn := bitOf v 8, arg := bitsOf v 0 8 }
  | 1 => { r with pc := d }
  | 2 => { r with iaddr := d }
  | 3 => { r with cmdseq := bitsOf v 40 24, seq := bitsOf v 0 32 }
  | 4 => { r with faddr := d }
  | 5 => { r with lanemask := bitsOf v 32 32, actmask := bitsOf v 0 32 }
  | 6 => { r with stamp := d }
  | 7 => { r with jfl := bitsOf v 0 40 }
  | 8 => { r with lcause := r.lcause / 2 ^ 64 * 2 ^ 64 + v % 2 ^ 64 }
  | 9 => { r with lcause := v % 2 ^ 64 * 2 ^ 64 + r.lcause % 2 ^ 64 }
  | _ => r

/-- The record number `n` among those that pass a test, changed; with what is left of the number. -/
def editRec (p : TrapRec → Bool) (f : TrapRec → TrapRec) : Nat → List TrapRec → List TrapRec
  | _, [] => []
  | n, r :: rs =>
    if p r then match n with | 0 => f r :: rs | n + 1 => r :: editRec p f n rs
    else r :: editRec p f n rs

/-- A word of the records of a halted gang written, in the order in which `Cluster.recordsOf` lists them. -/
def Cluster.putRecWord (k : Cluster) (slot : Nat) (g : Gang) (i v : Nat) : Cluster :=
  let f := fun (r : TrapRec) => r.putWord (i % 16) v
  let a := g.records.length
  let b := k.taken.countP (·.of slot g)
  if i / 16 < a then { k with gangs := k.gangs.adjust slot fun g => { g with records := editRec (fun _ => true) f (i / 16) g.records } }
  else if i / 16 < a + b then { k with taken := editRec (·.of slot g) f (i / 16 - a) k.taken }
  else { k with ring := editRec (·.of slot g) f (i / 16 - a - b) k.ring }

/-- A gang-state word before the records written, its reserved bits left. What the lists of a consignment hold stands elsewhere, and
their lengths with them (log 142, DESIGN CHOICE). -/
def Gang.putWord (g : Gang) (i v : Nat) : Gang :=
  let slot := fun (f : CsgSlot → CsgSlot) => { g with slots := g.slots.modify ((i - 11) / 2) f }
  let view := fun (f : ViewSlot → ViewSlot) => { g with views := g.views.modify ((i - 19) / 2) f }
  if 4 ≤ i ∧ i < 10 then
    let n := fun (c : Ctr) => g.ops.countP (·.ctrs.contains c)
    { g with ctrOff := ((ctrList.map fun c => (g.count c : Int) - n c).set (i - 4)
        (((v % 64 : Nat) : Int) - n (ctrList.getD (i - 4) .ld))) }
  else if 11 ≤ i ∧ i < 19 then
    if i % 2 = 1 then slot fun c => { c with csgid := v % 2 ^ 64 } else slot fun c => { c with st := bitsOf v 48 3, mrec := bitsOf v 16 32 }
  else if 19 ≤ i ∧ i < 23 then
    if i % 2 = 1 then view fun c => { c with stamp := BitVec.ofNat 64 v } else view fun c => { c with isOpen := bitOf v 0, expired := bitOf v 1 }
  else match i with
  | 0 => { g with fpmode := BitVec.ofNat 32 v &&& ~~~0x1F#32 }
  | 1 => { g with fpflags := v % 128 }
  | 2 => { g with jord := v % 8 }
  | 3 => { g with jflags := v % 2 ^ 40 }
  | 10 => { g with qmask := bitsOf v 44 4, acclim := bitsOf v 32 11, accbase := v % 1024 }
  | 23 => { g with role := v % 4 }
  | 24 => { g with rsb := v % 2 ^ 16 }
  | 25 => { g with halt := bitOf v 0, tstop := bitOf v 1, estop := bitOf v 2, pstop := bitOf v 3 }
  | _ => g

/-- The clause header at or before an address (R457): the nearest earlier word in header form whose clause reaches it. -/
def headerBefore (s : State) (cl x pc : Nat) : Nat → Nat → Nat
  | 0, _ => pc
  | n + 1, k =>
    match fetchWords s cl x [] (pc - 4 * k) 1 with
    | (_, .words [h]) =>
      if bitsOf h.toNat 28 4 = 0b1011 ∧ k ≤ bitsOf h.toNat 18 6 then pc - 4 * k else headerBefore s cl x pc n (k + 1)
    | _ => pc

/-- DBG_DATA written (R457): a register or the predicates with a write outstanding are left and REFUSED set. -/
def execDbgDataWrite (c : Nat) (v : BitVec 64) (s : State) : Out :=
  .next <|
    let k := s.cluster c
    let d := dbgSelOf k.dbgSel
    match k.gangs.find? d.slot with
    | none => s.dbgCause c 1
    | some g =>
      if !g.halt ∨ 4 ≤ d.space then s.dbgCause c 1
      else if !g.dbgRange d then s.dbgCause c 2
      else if (d.space = 0 ∧ (g.thread d.thread).unsettled.has d.index) ∨ (d.space = 1 ∧ d.index = 3 ∧ (g.thread d.thread).unsettledP ≠ [])
      then s.dbgCause c 1
      else
        let s := s.updCluster c fun k => { k with dbgData := v }
        match d.space with
        | 0 => s.updGang c d.slot fun g => g.updThread d.thread fun t => t.setReg d.index v.toNat
        | 1 =>
          let hdr := if d.index = 0 then BitVec.ofNat 64 (headerBefore s c g.ctx v.toNat 46 0) else 0
          s.updGang c d.slot fun g => g.updThread d.thread fun t => t.putWord g.depth d.index v.toNat hdr
        | 2 =>
          if 26 ≤ d.index then s.updCluster c fun k => k.putRecWord d.slot g (d.index - 26) v.toNat
          else s.updGang c d.slot fun g => g.putWord d.index v.toNat
        | _ => s.updCluster c fun k =>
            { k with acc := k.acc.set (g.accbase * 128 + d.index) (BitVec.ofNat 32 v.toNat)
                     accPoison := k.accPoison.del (g.accbase * 128 + d.index) }

/-! ## User handlers (R458, R459) -/

/-- The handler named for a class in a context's descriptor (R487). -/
def State.handlerOf (s : State) (x cls : Nat) : Nat := s.desc x (9 + cls)

/-- A comparator's record, which only the resident debug handler sees (R470). -/
def TrapRec.isComparator (r : TrapRec) : Bool := r.cls == clsBreakpoint && decide (0x90 ≤ r.arg)

/-- The gang of one thread that runs a handler: 128 registers and a stack of 16 (R459). -/
def handlerGang (x blk : Nat) (entry : DWord) : Gang :=
  let role : Role := { entry, mx := false, cp := false, ch := false, gangs := 1, allot := 144 }
  let g := Gang.start x blk 0 0 role 16 0
  { g with threads := g.threads.take 1 }

/-- Bytes as a map from 0 on, without zeros. -/
def byteMap (bs : List Byte) : FMap Byte :=
  (List.range bs.length).foldl (fun m i => if bs.getD i 0 = 0 then m else FMap.set m i (bs.getD i 0)) []

/-- A record still concerns someone: its context is resident, and its gang, unless it had ended, stands in its slot. -/
def State.liveRecord (s : State) (c : Nat) (r : TrapRec) : Bool :=
  (s.ctx r.ctx).st == 2 && (r.gone || ((s.cluster c).gangs.find? r.gang).any fun g => g.ctx == r.ctx)

/-- A user handler starts on a record (R458, R459). -/
def State.startHandler (s : State) (c : Nat) (r : TrapRec) (a : Nat) : State :=
  let blk := (((s.cluster c).gangs.find? r.gang).map (·.blk)).getD 0
  let h : Handler := { slot := r.gang, record := r, gang := handlerGang r.ctx blk (BitVec.ofNat 64 a), mem := byteMap r.bytes
                       began := s.timeNs, verdict := none }
  s.updCluster c fun k => { k with handler := some h }

/-- The supervisor's action on a record (R458). A comparator's stays with its halted gang (R470); where the context names no handler for
the class the context ends; where it names one, the supervisor runs it, ends the context, or leaves the gang to a debugger, as it
chooses (log 182, DESIGN CHOICE). Its fourth action, to resume the gang, is GANG_CTL. -/
def State.actRecord (s : State) (c : Nat) (r : TrapRec) : State :=
  let leave := fun (s : State) => s.updGang c r.gang fun g => { g with records := g.records ++ [r] }
  let ends := fun (s : State) => (s.faultRecord r.ctx r).endContext r.ctx
  if !s.liveRecord c r then s
  else if r.isComparator then leave s
  else
    match s.handlerOf r.ctx r.cls, Config.supervisor r.words s.fresh with
    | 0, _ => ends s
    | a, 0 => { s with fresh := s.fresh + 1 }.startHandler c r a
    | _, 1 => ends { s with fresh := s.fresh + 1 }
    | _, _ => leave { s with fresh := s.fresh + 1 }

/-- USER_HANDLER (R454, R458): the supervisor takes every record out of the ring, and acts on the oldest that it has taken unless a
handler runs. -/
def execUserHandler (c : Nat) (s : State) : Out :=
  .next <|
    let k := s.cluster c
    let all := k.taken ++ k.ring
    match k.handler, all with
    | none, r :: rs => (s.updCluster c fun k => { k with ring := [], taken := rs }).actRecord c r
    | _, _ => s.updCluster c fun k => { k with ring := [], taken := all }

/-- HANDLER_TIMEOUT (R459): a handler that has not exited within 1 ms. -/
def execHandlerTimeout (c : Nat) (s : State) : Out :=
  .next (s.updCluster c fun k =>
    match k.handler with
    | some h => if h.verdict.isNone && decide (h.began + 1000000 ≤ s.timeNs) then { k with handler := some { h with verdict := some 2 } } else k
    | none => k)

end Sys2Proof.Machine
end

