-- ==== Sys2Proof/Machine/AsmText.lean ====
section
/-! DEFINITION. The text of the assembly language as the translator reads it: UTF-8, lines, names and numbers (10:R249). -/

namespace Sys2Proof.Machine

/-- A piece of source text: its bytes. -/
abbrev Txt := List Nat

/-- A word of the language as text. -/
def txt (s : String) : Txt := s.toList.map Char.toNat

/-- UTF-8 (R249): `need` continuation bytes are due, the next of them from `lo` to `hi`. -/
def utf8From : Txt → Nat → Nat → Nat → Bool
  | [], need, _, _ => need == 0
  | c :: r, 0, _, _ =>
    if c < 0x80 then utf8From r 0 0 0
    else if 0xC2 ≤ c ∧ c ≤ 0xDF then utf8From r 1 0x80 0xBF
    else if c = 0xE0 then utf8From r 2 0xA0 0xBF
    else if c = 0xED then utf8From r 2 0x80 0x9F
    else if 0xE1 ≤ c ∧ c ≤ 0xEF then utf8From r 2 0x80 0xBF
    else if c = 0xF0 then utf8From r 3 0x90 0xBF
    else if 0xF1 ≤ c ∧ c ≤ 0xF3 then utf8From r 3 0x80 0xBF
    else if c = 0xF4 then utf8From r 3 0x80 0x8F
    else false
  | c :: r, need + 1, lo, hi => decide (lo ≤ c) && decide (c ≤ hi) && utf8From r need 0x80 0xBF

/-- Space, tab and carriage return. -/
def blank (c : Nat) : Bool := c == 32 || c == 9 || c == 13

def digitChar (c : Nat) : Bool := decide (48 ≤ c) && decide (c ≤ 57)

/-- A name begins with a letter, `_` or `.` (R249). Whether letters outside ASCII count the spec leaves open; they do not here (log 144,
DESIGN CHOICE). -/
def nameStart (c : Nat) : Bool :=
  (decide (65 ≤ c) && decide (c ≤ 90)) || (decide (97 ≤ c) && decide (c ≤ 122)) || c == 95 || c == 46

/-- It continues with letters, digits, `_`, `.` and `$`. -/
def nameChar (c : Nat) : Bool := nameStart c || digitChar c || c == 36

def isName : Txt → Bool
  | [] => false
  | c :: r => nameStart c && r.all nameChar

/-- Split at every byte `c`. -/
def splitAtChar (c : Nat) : Txt → List Txt
  | [] => [[]]
  | x :: r =>
    match splitAtChar c r with
    | [] => [[x]]
    | p :: ps => if x = c then [] :: p :: ps else (x :: p) :: ps

/-- A line without its comment (R249). -/
def cutComment : Txt → Txt
  | [] => []
  | 59 :: _ => []
  | 47 :: 47 :: _ => []
  | c :: r => c :: cutComment r

def trimLeft (t : Txt) : Txt := t.dropWhile blank

def trimTxt (t : Txt) : Txt := (trimLeft (trimLeft t).reverse).reverse

/-- Blanks beside parentheses and signs dropped: `after` says that the byte before was one of them. -/
def squeeze : Txt → Bool → Txt
  | [], _ => []
  | c :: r, after =>
    let sep (x : Nat) := x == 40 || x == 41 || x == 43 || x == 45
    if blank c then
      if after || (match trimLeft r with | [] => true | x :: _ => sep x) then squeeze r after else c :: squeeze r false
    else c :: squeeze r (sep c)

/-- An optional label and the rest of a line (R249). -/
def takeLabel (t : Txt) : Option Txt × Txt :=
  let n := t.takeWhile nameChar
  match t.drop n.length with
  | 58 :: r => if isName n then (some n, trimLeft r) else (none, t)
  | _ => (none, t)

/-- The first word of a statement and its operands between commas (R250). -/
def headAndOperands (t : Txt) : Txt × List Txt :=
  let h := t.takeWhile fun c => !blank c
  let r := trimTxt (t.drop h.length)
  (h, if r.isEmpty then [] else (splitAtChar 44 r).map trimTxt)

def digitOf (c : Nat) : Nat :=
  if digitChar c then c - 48
  else if 97 ≤ c ∧ c ≤ 102 then c - 87
  else if 65 ≤ c ∧ c ≤ 70 then c - 55
  else 99

/-- Digits of a base, with underscores between them (R249): `ok` says that the byte before was a digit. -/
def digitsGo (base : Nat) : Txt → Bool → Nat → Option Nat
  | [], ok, v => if ok then some v else none
  | 95 :: r, ok, v => if ok then digitsGo base r false v else none
  | c :: r, _, v => if digitOf c < base then digitsGo base r true (v * base + digitOf c) else none

def digitsOf (base : Nat) (t : Txt) : Option Nat :=
  match t with
  | 95 :: _ => none
  | t => digitsGo base t false 0

/-- An unsigned integer: decimal, 0x hexadecimal or 0b binary (R249). -/
def natOf : Txt → Option Nat
  | 48 :: 120 :: r => digitsOf 16 r
  | 48 :: 98 :: r => digitsOf 2 r
  | t => digitsOf 10 t

/-- A decimal floating value without its suffix, rounded to binary32 RNE (R249). -/
def floatOf (neg : Bool) (t : Txt) : Option Nat :=
  let i := t.takeWhile (· != 46)
  match t.drop i.length with
  | [] => (digitsOf 10 i).map fun n => ((fmtOf 0).roundTo 0 0 0 neg n 1 0).v
  | _ :: fr =>
    match digitsOf 10 i, digitsOf 10 fr with
    | some n, some m =>
      let k := (fr.filter (· != 95)).length
      some ((fmtOf 0).roundTo 0 0 0 neg (n * 10 ^ k + m) (10 ^ k) 0).v
    | _, _ => none

/-- A numeric value; a floating one as its 32 bits (R249). -/
def numberOf (t : Txt) : Option Int :=
  let (neg, u) := match t with | 45 :: r => (true, r) | t => (false, t)
  match natOf u with
  | some n => some (if neg then -n else n)
  | none =>
    match u.reverse with
    | 102 :: r => (floatOf neg r.reverse).map fun (v : Nat) => (v : Int)
    | _ => none

/-- The number of a register of `n` that a prefix names, as in `v17`. -/
def regOf (pre n : Nat) : Txt → Option Nat
  | [] => none
  | c :: r =>
    if c ≠ pre ∨ r.isEmpty ∨ ¬ r.all digitChar ∨ (r.head? = some 48 ∧ 1 < r.length) ∨ 3 < r.length then none
    else (digitsOf 10 r).bind fun k => if k < n then some k else none

end Sys2Proof.Machine
end

