-- ==== Sys2Proof/Machine/AsmTable.lean ====
section
/-! DEFINITION. The assembly forms of the 194 instructions (10:R248, R250, R251 and the tables of chapters 11 to 17): for each its
modifiers and operands, and where their codes go. A code's place counts from bit 0 of the extension word; the base word stands
32 bits above it and the literal 64 bits above it. -/

namespace Sys2Proof.Machine

/-- A modifier class (R250): whether the form needs it, and its modifiers with the codes they add. -/
structure AsmMods where
  need : Bool
  codes : List (String × Nat)
  /-- The source type of a conversion, which stands behind its destination type (R250). -/
  source : Bool := false
  deriving DecidableEq, Repr

/-- Operands (R251). -/
inductive AsmOp where
  /-- A register in VD, VS0 or VS1, the sources with a permutation; one in the third source. -/
  | vd | v0 | v1 | c3
  /-- A predicate at a place; `neg` is the code of a `!`. -/
  | pred (sh : Nat) (neg : Option Nat)
  /-- An index register at a place; an indexed register as destination. -/
  | index (sh : Nat) | indexed
  /-- An immediate from `lo` to `hi`, stored less `bias` in `w` bits. -/
  | imm (lo hi : Int) (sh w : Nat) (bias : Int)
  /-- A 32-bit literal; a byte-offset literal; a word offset in half a literal; the cases of `switch`. -/
  | lit | offset | wordOffset (sh : Nat) | cases
  /-- A memory operand with its offset in units of `unit` bytes, or of the access size; a base alone; a base and an unsigned
  literal offset. -/
  | mem (unit : Option Nat) | base | memLit
  /-- A counter at a place; a special register; a fixed word. -/
  | counter (sh : Nat) | special | word (w : String) (code : Nat)
  deriving DecidableEq, Repr

/-- One form of an instruction: the modifiers that choose it, in their order, the code they add, the classes of the others, and
its operands. -/
structure AsmForm where
  req : List String := []
  code : Nat := 0
  mods : List AsmMods := []
  ops : List AsmOp := []
  deriving DecidableEq, Repr

namespace Asm

/-- A class that a form may leave out, and one that it needs. -/
def opt (l : List (String × Nat)) : AsmMods := { need := false, codes := l }
def need (l : List (String × Nat)) : AsmMods := { need := true, codes := l }

/-- One modifier of its own. -/
def flag (m : String) (code : Nat) : AsmMods := opt [(m, code)]

/-- Codes moved up to a place. -/
def up (sh : Nat) (l : List (String × Nat)) : List (String × Nat) := l.map fun p => (p.1, p.2 * 2 ^ sh)

/-- Modifiers numbered from `k`. -/
def numbered (k : Nat) : List String → List (String × Nat)
  | [] => []
  | m :: r => (m, k) :: numbered (k + 1) r

def tyCodes : List (String × Nat) :=
  [("n32", 0), ("b32", 0), ("i32", 1), ("n16", 2), ("b16", 2), ("i16", 3), ("n8", 4), ("b8", 4), ("i8", 5), ("n64", 6), ("b64", 6),
   ("x2", 6), ("i64", 7)]

/-- TY (R258) and SAT. -/
def ty : AsmMods := opt tyCodes
def sat : AsmMods := flag "sat" 8

/-- FT of layouts A and B, FF at a place, RS with RM, and RC (R277). -/
def ftCodes : List (String × Nat) := numbered 0 ["f32", "f64", "f16", "bf16"]
def ftA : AsmMods := opt (up 4 ftCodes)
def ftB : AsmMods := opt (up 2 ftCodes)
def ff (sh : Nat) : AsmMods := need (up sh (numbered 0 ["f32", "f64", "f16", "bf16", "e4m3", "e5m2", "f4"]))
def rm : AsmMods := opt (numbered 8 ["rne", "rtz", "rup", "rdn", "sr"])
def rc : AsmMods := opt [("rne", 1), ("rup", 2), ("rdn", 3)]
def deAt (sh : Nat) : AsmMods := opt (up sh (numbered 0 ["d0", "d1", "d2", "d3", "d4", "d5", "d6", "d7"]))
def seAt (sh : Nat) : AsmMods := opt (up sh (numbered 0 ["s0", "s1", "s2", "s3", "s4", "s5", "s6", "s7"]))

/-- Access sizes (R312). -/
def sz : AsmMods :=
  opt (up 8 [("b32", 0), ("n32", 0), ("i32", 0), ("f32", 0), ("b64", 1), ("n64", 1), ("i64", 1), ("f64", 1), ("x2", 1), ("b128", 2),
    ("b8", 3), ("n8", 3), ("i8", 4), ("b16", 5), ("n16", 5), ("f16", 5), ("bf16", 5), ("i16", 6)])

/-- Orderings and scopes (R313) at a place, and the scratchpad's scope bit (R311). -/
def ordAt (sh : Nat) : AsmMods := opt (up sh (numbered 1 ["acq", "rel", "ar"]))
def scAt (sh : Nat) : AsmMods := opt (up sh (numbered 0 ["dev", "gang", "clu", "tnt", "sys"]))
def devOnly : AsmMods := opt [("dev", 0)]
def gangBit : AsmMods := opt [("gang", 1), ("clu", 0), ("dev", 0), ("tnt", 0), ("sys", 0)]
def swAt (sh : Nat) : AsmMods := opt (up sh (numbered 0 ["sw0", "sw1", "sw2", "sw3", "sw4", "sw5", "sw6", "sw7"]))
def glob : AsmMods := flag "g" 0

/-- An unsigned and a signed immediate in imm7. -/
def imm7 (lo hi : Int) : AsmOp := .imm lo hi 32 7 0
def simm7 : AsmOp := .imm (-64) 63 32 7 0

/-- A plain form, and one of vd with sources. -/
def one (mods : List AsmMods) (ops : List AsmOp) : List AsmForm := [{ mods, ops }]
def src1 (mods : List AsmMods) : List AsmForm := one mods [.vd, .v0]
def src2 (mods : List AsmMods) : List AsmForm := one mods [.vd, .v0, .v1]
def src3 (mods : List AsmMods) : List AsmForm := one mods [.vd, .v0, .v1, .c3]

def addcForms : List AsmForm :=
  [{ mods := [ty], ops := [.vd, .pred 4 none, .v0, .v1] },
   { code := 2 ^ 10, mods := [ty], ops := [.vd, .pred 4 none, .v0, .v1, .pred 7 none] }]

/-- Major 0x01 (R262, R263). -/
def major01 : List (String × List AsmForm) :=
  [("add", src2 [ty, sat]), ("sub", src2 [ty, sat]), ("addc", addcForms), ("subc", addcForms), ("neg", src1 [ty, sat]),
   ("abs", src1 [ty, sat]), ("min", src2 [ty]), ("max", src2 [ty]), ("mul", src2 [ty, sat]), ("mulhi", src2 [ty]),
   ("mulw", src2 [ty]), ("mad", src3 [ty, sat]), ("madhi", src3 [ty]), ("sad", src3 [ty]), ("avg", src2 [ty]),
   ("clamp", src3 [ty])]

/-- Major 0x02 (R264 to R267). -/
def major02 : List (String × List AsmForm) :=
  [("and", src2 [ty]), ("or", src2 [ty]), ("xor", src2 [ty]), ("andn", src2 [ty]), ("not", src1 [ty]),
   ("lop3", one [] [.vd, .v0, .v1, .imm 0 255 0 8 0]), ("shl", src2 [ty]), ("shr", src2 [ty]), ("sar", src2 [ty]),
   ("rotl", src2 [ty]), ("rotr", src2 [ty]), ("shf", src3 [ty, need [("l", 0), ("r", 8)]]), ("bfe", src3 [ty]), ("bfi", src3 [ty]),
   ("brev", src1 [ty]), ("popc", src1 [ty])]

/-- Major 0x03 (R268 to R272). -/
def major03 : List (String × List AsmForm) :=
  [("clz", src1 [ty]), ("ffs", src1 [ty]), ("div", src2 [ty]), ("rem", src2 [ty]), ("ext", one [ty] [.vd, .v0, imm7 1 64]),
   ("sat", one [ty] [.vd, .v0, imm7 1 64]), ("pack", src2 [ty, sat]), ("unpack", src1 [ty, flag "hi" 8]), ("mov", src1 [ty]),
   ("movl", one [ty] [.vd, .lit]), ("sel", one [ty] [.vd, .v0, .v1, .pred 4 (some 8)]), ("sreg", one [] [.vd, .special]),
   ("lea", one [opt [("n32", 0), ("i32", 8)]] [.vd, .v0, .c3, .imm 0 7 0 3 0, simm7]), ("wadd", src2 [ty])]

/-- Major 0x04 (R274). -/
def major04 : List (String × List AsmForm) :=
  [("xset", [{ ops := [.index 46, .lit] },
     { ops := [.index 46, .imm 0 127 89 7 0, .imm 0 255 81 8 0, .imm (-32768) 65535 64 16 0] }]),
   ("xmov", one [] [.indexed, .v0]), ("xadd", one [] [.index 46, simm7]), ("xget", one [] [.vd, .index 39])]

def cc : List String := ["eq", "ne", "lt", "le", "gt", "ge"]

def predForms : List AsmForm := one [] [.pred 46 none, .pred 39 (some 1), .pred 32 (some 2)]

/-- Major 0x05 (R276). -/
def major05 : List (String × List AsmForm) :=
  [("icmp", one [need (up 4 (numbered 0 cc)), ty] [.pred 46 none, .v0, .v1]),
   ("icmpc", one [need (up 4 (numbered 0 cc)), need [("and", 0), ("or", 2 ^ 10)], ty] [.pred 46 none, .v0, .v1, .pred 7 none]),
   ("pand", predForms), ("por", predForms), ("pxor", predForms), ("pnot", one [] [.pred 46 none, .pred 39 none]),
   ("pset", one [] [.pred 46 none, .v0, imm7 0 31]), ("pget", one [] [.vd])]

/-- Major 0x10 (R280 to R285). -/
def major10 : List (String × List AsmForm) :=
  [("fadd", src2 [ftA, rm]), ("fsub", src2 [ftA, rm]), ("fmul", src2 [ftA, rm]), ("fma", src3 [ftB, rc]), ("fms", src3 [ftB, rc]),
   ("fnma", src3 [ftB, rc]), ("fmin", src2 [ftA]), ("fmax", src2 [ftA]), ("fabs", src1 [ftA]), ("fneg", src1 [ftA]),
   ("fclamp", src3 [ftB]), ("fdot2", src3 [ftB, rc]),
   ("fdot4", [(["e4m3"], 0), (["e5m2"], 4), (["e4m3", "e5m2"], 8), (["e5m2", "e4m3"], 12)].map fun p =>
     { req := p.1, code := p.2, mods := [rc], ops := [.vd, .v0, .v1, .c3] }),
   ("fcmp", one [need (up 4 (numbered 0 (cc ++ ["un", "ord"]))), ftB] [.pred 46 none, .v0, .v1]),
   ("fclass", src1 [opt (up 32 ftCodes)]),
   ("fmode", [{ mods := [need (numbered 0 ["set", "clr", "clrf"])], ops := [.vd, .lit] }, { req := ["rdf"], code := 3, ops := [.vd] }])]

/-- The class as the source type of a conversion. -/
def srcOf (m : AsmMods) : AsmMods := { m with source := true }

/-- Major 0x11 (R287 to R295). -/
def major11 : List (String × List AsmForm) :=
  [("cvtf", src1 [ff 7, ff 4, rm, deAt 32, seAt 35]), ("cvtfi", src1 [need (up 4 tyCodes), srcOf (ff 7), rm, seAt 35]),
   ("cvtif", src1 [ff 7, srcOf (need (up 4 tyCodes)), rm, deAt 32]), ("frnd", src1 [ftA, rm]), ("fpack2", src2 [ftA, rm]),
   ("funpack2", src1 [ftA]), ("qscale", src1 [need (numbered 0 ["f4", "e4m3", "e5m2"])]), ("quant", src2 [ff 5, deAt 8, rm]),
   ("dequant", src2 [ff 3, seAt 0]), ("tepack", src1 [need (up 4 (numbered 1 ["te4", "te6", "te9"])), rm]),
   ("teunpack", src1 [need (up 4 (numbered 1 ["te4", "te6", "te9"]))]),
   ("fsr", [{ ops := [.vd, .v0] }, { req := ["rd"], code := 1, ops := [.vd] }])]

/-- Major 0x12 (R296, R297). -/
def major12 : List (String × List AsmForm) :=
  [("rcp", src1 [ftA, rm]), ("rsqrt", src1 [ftA]), ("sqrt", src1 [ftA, rm]), ("fdiv", src2 [ftA, rm]), ("exp2", src1 [ftA]),
   ("log2", src1 [ftA]), ("sin", src1 [ftA]), ("cos", src1 [ftA]), ("tanh", src1 [ftA]), ("sigm", src1 [ftA]), ("erf", src1 [ftA])]

/-- Major 0x14 (R305, R307, R308). -/
def major14 : List (String × List AsmForm) :=
  [("jord", one [] [imm7 0 7]), ("jseed", [{ ops := [.vd, .v0, .v1] }, { req := ["one"], code := 1, ops := [.vd, .v0] }]),
   ("jget", one [] [.vd, .v0, imm7 0 7]), ("jput", one [] [.vd, .v0, imm7 0 7]), ("jzero", one [] [.vd]), ("jadd", src2 []),
   ("jsub", src2 []), ("jmul", src2 []), ("jfma", src3 []), ("jscale", src2 []), ("jshift", one [] [.vd, .v0, .imm (-7) 7 32 7 0]),
   ("jdfac", src1 [need [("mul", 0), ("div", 1)]]),
   ("jflg", [{ req := ["rd"], ops := [.vd] }, { req := ["clr"], code := 1, ops := [.vd, .v0] }])]

/-- Major 0x15 (R309). -/
def major15 : List (String × List AsmForm) :=
  [("jdiv", src2 []), ("jrcp", src1 []), ("jsqrt", src1 []), ("jrsqrt", src1 []), ("jexp", src1 []), ("jlog", src1 []),
   ("jsin", src1 []), ("jcos", src1 []), ("jtanh", src1 [])]

/-- Loads of the three spaces, a promoting one among them (R311, R313, R317). -/
def loadForms : List AsmForm :=
  [{ req := ["s"], code := 0x40, mods := [sz, swAt 1, ordAt 4, gangBit], ops := [.vd, .mem none] },
   { req := ["k"], code := 0x80, mods := [sz], ops := [.vd, .mem none] },
   { req := ["promote"], code := 0xA, mods := [glob, sz, ordAt 4, devOnly], ops := [.vd, .mem none] },
   { mods := [glob, sz, ordAt 4, scAt 1], ops := [.vd, .mem none] }]

/-- Major 0x20 (R317). -/
def major20 : List (String × List AsmForm) :=
  [("ld", loadForms), ("ldv", loadForms), ("ldview", one [glob, sz] [.vd, .mem none, .imm 0 1 4 1 0]), ("fpop", one [] [.vd, imm7 0 31]),
   ("pf", one [glob, flag "l2" 1] [.mem (some 128)])]

def storeForms : List AsmForm :=
  [{ req := ["s"], code := 0x40, mods := [sz, swAt 1, ordAt 4, gangBit], ops := [.mem none, .vd] },
   { mods := [glob, sz, ordAt 4, scAt 1], ops := [.mem none, .vd] }]

/-- Major 0x21 (R322). -/
def major21 : List (String × List AsmForm) :=
  [("st", storeForms), ("stv", storeForms), ("stflag", one [glob, sz] [.mem none, .vd]), ("fpush", one [] [imm7 0 31, .vd]),
   ("stcsg", one [glob, sz] [.mem none, .vd, .imm 0 3 4 2 0])]

/-- Atomics, a promoting one among them (R326). -/
def atomForms (mods : List AsmMods) (ops : List AsmOp) : List AsmForm :=
  let m := mods ++ [opt [("g", 0), ("s", 0x20)], ordAt 3]
  [{ req := ["promote"], code := 5, mods := m ++ [devOnly], ops }, { mods := m ++ [scAt 0], ops }]

def atomOps : AsmMods := need (up 8 (numbered 0 ["add", "and", "or", "xor", "min", "max", "exch"]))
def atomTypes : AsmMods := opt [("n32", 0), ("b32", 0), ("i32", 0x40), ("n64", 0x80), ("b64", 0x80), ("x2", 0x80), ("i64", 0xC0)]

/-- Floating-point atomics (R330): the operation with its format, with and without the old value. -/
def atomfForms : List AsmForm :=
  [("add", "f32", 0), ("min", "f32", 1), ("max", "f32", 2), ("add", "f16", 3), ("add", "bf16", 4)].flatMap fun o =>
    [[o.1, o.2.1], [o.2.1, o.1]].flatMap fun req =>
      [(0, [.base, .v1]), (0x80, [.vd, .base, .v1])].flatMap fun r =>
        (atomForms [] r.2).flatMap fun f =>
          (if f.req = [] then [req] else (List.range 3).map fun i => req.take i ++ f.req ++ req.drop i).map fun q =>
            { f with req := q, code := o.2.2 * 2 ^ 8 + r.1 + f.code }

/-- Major 0x22 (R327, R328, R330). -/
def major22 : List (String × List AsmForm) :=
  [("atom", atomForms [atomOps, atomTypes] [.vd, .base, .v1]), ("cas", atomForms [atomTypes] [.vd, .base, .v1]),
   ("atomr", atomForms [atomOps, atomTypes] [.base, .v1]), ("atomf", atomfForms)]

/-- Major 0x23 (R331). -/
def major23 : List (String × List AsmForm) :=
  [("csg.open", one [] [.vd, imm7 0 3]), ("csg.seal", one [] [.vd, imm7 0 3]), ("csg.abort", one [] [imm7 0 3]),
   ("view.open", one [] [imm7 0 1]), ("view.close", one [] [.pred 46 none, imm7 0 1]), ("view.stamp", one [] [.vd, imm7 0 1])]

/-- Major 0x24 (R332). -/
def major24 : List (String × List AsmForm) :=
  [("fence", one [need (up 3 (numbered 1 ["acq", "rel", "ar"])), scAt 0] []), ("fence.sc", one [scAt 0] []),
   ("wait", one [] [.counter 46, imm7 0 63]),
   ("wb", [{ req := ["all"], code := 1, mods := [flag "hbm" 2] }, { mods := [flag "hbm" 2], ops := [.mem (some 128)] }]),
   ("inv", [{ req := ["all"], code := 1 }, { ops := [.mem (some 128)] }])]

/-- Major 0x2C (R338 to R344). -/
def major2C : List (String × List AsmForm) :=
  [("bra", one [] [.offset]), ("brp", one [] [.pred 46 (some (2 ^ 49)), .wordOffset 80, .wordOffset 64]), ("brx", one [] [.v0]),
   ("call", one [] [.offset]), ("callx", one [] [.v0]), ("ret", one [] []), ("switch", one [] [.v0, .cases]), ("exit", one [] []),
   ("meet", one [] [.offset]), ("loop", one [need [("0", 0), ("1", 2 ^ 46)]] [.v0, .offset]), ("nop", one [] []), ("yield", one [] [])]

def redOps : AsmMods := need (numbered 0 ["add", "min", "max", "and", "or", "xor"])
def redTypes : AsmMods := need (up 3 (numbered 0 ["n32", "i32", "f32"]))
def votePred : AsmOp := .pred 39 (some 4)

/-- Major 0x2D (R346 to R349). -/
def major2D : List (String × List AsmForm) :=
  [("shfl", src2 [need (numbered 0 ["fetch", "slide", "deal", "send"]), opt (up 2 [("c2", 1), ("c4", 2), ("c8", 3), ("c16", 4), ("c32", 0)]),
     flag "z" 32]),
   ("vote", [{ req := ["mask"], ops := [.vd, votePred] }, { req := ["count"], code := 1, ops := [.vd, votePred] },
     { req := ["atleast"], code := 2, ops := [.pred 46 none, votePred, .word "#all" (33 * 2 ^ 4)] },
     { req := ["atleast"], code := 2, ops := [.pred 46 none, votePred, .imm 0 32 4 6 0] },
     { req := ["agree"], code := 3, ops := [.pred 46 none, votePred] }]),
   ("red", src1 [redOps, redTypes]), ("scan", src1 [redOps, redTypes, flag "excl" 32]), ("match", src1 [opt [("b32", 0), ("b64", 1)]]),
   ("elect", one [] [.pred 46 none])]

def tidOp : AsmOp := .imm 0 63 46 7 0

/-- The literal of `mx.mma` (R358). -/
def mmaMods : List AsmMods :=
  [flag "kc" (2 ^ 88), flag "acc" (2 ^ 79), flag "as" (2 ^ 89), flag "bs" (2 ^ 90), opt (up 91 [("q0", 1), ("q1", 3), ("q2", 5), ("q3", 7)])]
def mmaOps : List AsmOp := [.imm 0 1023 64 10 0, .imm 1 32 74 5 1, .imm 0 255 80 8 0]

/-- Major 0x30 (R354 to R358, R362 to R365). -/
def major30 : List (String × List AsmForm) :=
  [("tid.set", one [] [tidOp, .memLit]), ("tid.get", one [] [.vd, imm7 0 63]), ("mx.ldb", one [] [tidOp, .v0, imm7 0 7]),
   ("mx.lda", [{ ops := [tidOp, .v0, .imm 1 32 32 7 1] }, { ops := [tidOp, .v0, .imm 1 32 32 7 1, .imm 1 8 0 3 1] }]),
   ("mx.mma", [{ mods := mmaMods, ops := mmaOps }, { code := 1, mods := mmaMods, ops := mmaOps ++ [.v0] }]),
   ("mx.zero", one [] [.v0, .imm 1 64 32 7 1]),
   ("acc.win", [{ req := ["all"], code := 2 ^ 10, ops := [.v0, .v1, .imm 0 15 0 4 0] },
     { ops := [.v0, .v1, .imm 0 15 0 4 0, .imm 0 63 4 6 0] }]),
   ("acc.pop", one [] [.vd, imm7 0 3]), ("acc.ld", one [] [tidOp, .v0, .c3, .imm 1 64 32 7 1]),
   ("acc.st", one [rm] [tidOp, .v0, .c3, .imm 1 64 32 7 1])]

def chanOp : AsmOp := .imm 0 7 46 7 0

/-- Major 0x34 (R369). -/
def major34 : List (String × List AsmForm) :=
  [("cp.tile", one [need [("gs", 0), ("sg", 16)], swAt 1, flag "bar" 1] [chanOp, .imm 0 63 5 6 0, .v0, .v1]),
   ("cp.lin", one [need (up 7 (numbered 0 ["gs", "sg", "ss"])), swAt 4, flag "bar" 8] [chanOp, .v0, .v1]),
   ("cp.mcast", one [swAt 0] [chanOp, .imm 0 255 3 8 0, .v0, .v1]), ("cp.wptr", one [] [.vd, imm7 0 7]),
   ("cp.cancel", one [flag "credit" 1] [imm7 0 7])]

/-- Major 0x35 (R376, R381). -/
def major35 : List (String × List AsmForm) := [("chain", one [] [.v0]), ("chain.stat", one [] [.vd, imm7 0 1])]

/-- Major 0x38 (R383). -/
def major38 : List (String × List AsmForm) :=
  [("bar.init", one [] [.base, .v1]),
   ("bar.arrive", [{ req := ["cnt"], code := 2, ops := [.vd, .base, .v1] }, { mods := [flag "lanes" 1], ops := [.vd, .base] }]),
   ("bar.wait", one [] [.base, .v1]), ("bar.expect", one [flag "arrive" 1] [.base, .v1]),
   ("bar.try", one [] [.pred 46 none, .base, .v1]), ("gbar", one [] [.imm 0 255 0 8 0]), ("gridbar", one [] [])]

/-- Major 0x39 (R390). -/
def major39 : List (String × List AsmForm) :=
  [("trap", one [] [imm7 0 127]), ("brk", one [] [imm7 0 127]), ("featq", one [] [.vd, imm7 0 127]), ("clock", one [] [.vd, imm7 0 2]),
   ("emtr", one [] [.vd, imm7 0 3]), ("opreq", one [] [.vd, imm7 0 15]), ("prog", one [] [imm7 0 15]), ("sleep", one [] [imm7 1 127])]

/-- Every name with its major and minor; minors count from 0 in the order of R248. -/
def names : List (List Txt × Nat × Nat × List AsmForm) :=
  [(0x01, major01), (0x02, major02), (0x03, major03), (0x04, major04), (0x05, major05), (0x10, major10), (0x11, major11), (0x12, major12),
   (0x14, major14), (0x15, major15), (0x20, major20), (0x21, major21), (0x22, major22), (0x23, major23), (0x24, major24), (0x2C, major2C),
   (0x2D, major2D), (0x30, major30), (0x34, major34), (0x35, major35), (0x38, major38), (0x39, major39)].flatMap fun m =>
    m.2.zipIdx.map fun r => (splitAtChar 46 (txt r.1.1), m.1, r.2, r.1.2)

end Asm

end Sys2Proof.Machine
end

