-- ==== Sys2Proof/Machine/Assembler.lean ====
section
/-! DEFINITION. The assembler of the portable form (10:R249-R255, R257; log 49, DEDUCED), which the translator runs: operands and modifiers to
words, clause formation, directives, and the section image with its kernel descriptors. `none` is the status SYNTAX. -/

namespace Sys2Proof.Machine

/-- A label or a parameter (R249), with the kernel it belongs to, 0 outside a kernel. -/
structure AsmName where
  scope : Nat
  isParam : Bool
  name : Txt
  value : Int
  deriving DecidableEq, Repr

/-- What a pass knows: the names that the pass before it found, the kernel it is in, and whether an undefined name is an error. -/
structure AsmEnv where
  names : List AsmName
  scope : Nat
  strict : Bool

/-- The value of a label, the kernel's own first. -/
def AsmEnv.label (e : AsmEnv) (n : Txt) : Option Int :=
  let l := e.names.filter fun x => !x.isParam && x.name == n
  match l.find? fun x => x.scope == e.scope with
  | some x => some x.value
  | none => l.head?.map (·.value)

/-- The value of a name: a parameter of the kernel, or a label. -/
def AsmEnv.find (e : AsmEnv) (n : Txt) : Option Int :=
  match e.names.find? fun x => x.isParam && x.scope == e.scope && x.name == n with
  | some x => some x.value
  | none => e.label n

/-- A name's value; one still unknown stands for `d` until the last pass. -/
def AsmEnv.known (e : AsmEnv) (d : Int) (n : Txt) (v : Option Int) : Option Int :=
  if isName n then (match v with | some v => some v | none => if e.strict then none else some d) else none

/-- A number or a name (R249). -/
def AsmEnv.value (e : AsmEnv) (d : Int) (t : Txt) : Option Int :=
  match numberOf t with
  | some v => some v
  | none => e.known d t (e.find t)

/-- An immediate `#value` or `#name` (R249). -/
def AsmEnv.imm (e : AsmEnv) (d : Int) : Txt → Option Int
  | 35 :: t => e.value d t
  | _ => none

/-- A label in a transfer, `loop` or `meet` counts from the instruction's base word, a number stands as it is (R249). -/
def AsmEnv.target (e : AsmEnv) (here : Int) : Txt → Option Int
  | 35 :: t =>
    match numberOf t with
    | some v => some v
    | none => (e.known here t (e.label t)).map (· - here)
  | _ => none

/-- The text inside parentheses. -/
def inParens : Txt → Option Txt
  | 40 :: r => match r.reverse with | 41 :: q => some q.reverse | _ => none
  | _ => none

/-- An indexed operand `v(xi+o)`: i and o (R251). -/
def indexedOf : Txt → Option (Nat × Nat)
  | 118 :: r =>
    (inParens r).bind fun t =>
      match splitAtChar 43 t with
      | [x, o] => (regOf 120 4 x).bind fun i => (natOf o).bind fun k => if k < 8 then some (i, k) else none
      | _ => none
  | _ => none

/-- A permutation's field: pattern and parameter (R204). -/
def permText (t : Txt) : Option Nat :=
  let n := t.takeWhile (· != 40)
  (inParens (t.drop n.length)).bind fun a =>
    let arg (pat : Nat) (t : Txt) : Option Nat := (natOf t).bind fun q => if q < 32 then some (pat * 32 + q) else none
    let mirror (t : Txt) : Option Nat :=
      match t with
      | 50 :: 94 :: k => arg 4 k
      | t => (natOf t).bind fun v => if 2 ^ v.log2 = v ∧ v ≤ 32 then some (4 * 32 + v.log2) else none
    if n = txt "rot" then arg 1 a
    else if n = txt "bc" then arg 2 a
    else if n = txt "xor" then arg 3 a
    else if n = txt "mir" then mirror a
    else none

/-- A source: its register field and its permutation field (R251). -/
def sourceOf (t : Txt) : Option (Nat × Nat) :=
  match indexedOf t with
  | some (i, o) => some (0, 5 * 32 + i * 8 + o)
  | none =>
    match splitAtChar 46 t with
    | [r] => (regOf 118 128 r).map (·, 0)
    | [r, p] => (regOf 118 128 r).bind fun n => (permText p).map fun q => (n, q)
    | _ => none

/-- A value kept in a field of `w` bits. -/
def fieldText (lo hi : Int) (sh w : Nat) (bias v : Int) : Option Nat :=
  if lo ≤ v ∧ v ≤ hi then some (((v - bias) % (2 ^ w : Nat)).toNat * 2 ^ sh) else none

/-- A memory operand: base register and the text of its offset with the offset's sign (R251). -/
def memText (t : Txt) : Option (Nat × Option (Bool × Txt)) :=
  (inParens t).bind fun u =>
    let r := u.takeWhile fun c => c != 43 && c != 45
    (regOf 118 128 r).bind fun n =>
      match u.drop r.length with
      | [] => some (n, none)
      | c :: o => some (n, some (c == 45, o))

def specialNames : List String := ["%lane", "%gang", "%block.x", "%block.y", "%block.z", "%cluster", "%partition", "%role", "%jord"]
def counterNames : List String := ["oc.ld", "oc.st", "oc.cp", "oc.mx", "oc.ch", "oc.rm"]

/-- The place of a text in a list of words. -/
def indexOfText (l : List String) (t : Txt) : Option Nat := l.findIdx? fun s => txt s == t

/-- An operand's code (R251): `here` is the address of the base word, `size` the access size. -/
def AsmOp.put (e : AsmEnv) (here : Int) (size : Nat) (o : AsmOp) (t : Txt) : Option Nat :=
  match o with
  | .vd => (regOf 118 128 t).map (· * 2 ^ 46)
  | .v0 => (sourceOf t).map fun p => p.1 * 2 ^ 39 + p.2 * 2 ^ 19
  | .v1 => (sourceOf t).map fun p => p.1 * 2 ^ 32 + p.2 * 2 ^ 11
  | .c3 => (regOf 118 128 t).map (· * 2 ^ 4)
  | .pred sh neg =>
    match neg, t with
    | some c, 33 :: u => (regOf 112 8 u).map (· * 2 ^ sh + c)
    | _, u => (regOf 112 8 u).map (· * 2 ^ sh)
  | .index sh => (regOf 120 4 t).map (· * 2 ^ sh)
  | .indexed => (indexedOf t).map fun p => p.1 * 2 ^ 46 + p.2 * 2 ^ 48
  | .imm lo hi sh w bias => (e.imm lo t).bind (fieldText lo hi sh w bias)
  | .lit => (e.imm 0 t).bind (fieldText (-(2 ^ 31)) (2 ^ 32 - 1) 64 32 0)
  | .offset => (e.target here t).bind (fieldText (-(2 ^ 31)) (2 ^ 32 - 1) 64 32 0)
  | .wordOffset sh =>
    match t with
    | 35 :: n =>
      match numberOf n with
      | some v => fieldText (-(2 ^ 15)) (2 ^ 15 - 1) sh 16 0 v
      | none => (e.target here t).bind fun v => if v % 4 = 0 then fieldText (-(2 ^ 15)) (2 ^ 15 - 1) sh 16 0 (v / 4) else none
    | _ => none
  | .cases => none
  | .mem unit =>
    let k : Int := (unit.getD size : Nat)
    (memText t).bind fun m =>
      match m.2 with
      | none => some (m.1 * 2 ^ 39)
      | some (neg, o) =>
        (e.imm 0 o).bind fun v =>
          let v := if neg then -v else v
          if v % k = 0 then (fieldText (-64) 63 32 7 0 (v / k)).map (m.1 * 2 ^ 39 + ·) else none
  | .base => (memText t).bind fun m => if m.2.isNone then some (m.1 * 2 ^ 39) else none
  | .memLit =>
    (memText t).bind fun m =>
      match m.2 with
      | none => some (m.1 * 2 ^ 39)
      | some (neg, o) =>
        (e.imm 0 o).bind fun v => (fieldText 0 (2 ^ 32 - 1) 64 32 0 (if neg then -v else v)).map (m.1 * 2 ^ 39 + ·)
  | .counter sh => (indexOfText counterNames t).map fun k => (k + 1) * 2 ^ sh
  | .special => (indexOfText specialNames t).map (· * 2 ^ 32)
  | .word w c => if t = txt w then some c else none

/-- Case fields of `switch` (R341), four bits each. -/
def caseFields (base : Int) : List Int → Option Nat
  | [] => some 0
  | v :: r => if v ≤ base + 15 then (caseFields base r).map fun n => (v - base).toNat + 16 * n else none

/-- The cases of `switch` (R341): BASE is the least of them. -/
def casesText (e : AsmEnv) (ts : List Txt) : Option Nat :=
  match ts.mapM (e.imm 0) with
  | some (v :: vs) =>
    let base := vs.foldl min v
    if 8 ≤ vs.length ∨ base < -128 ∨ 127 < base then none
    else (caseFields base (v :: vs)).map fun n => (base % 256).toNat * 8 + vs.length + n * 2 ^ 64
  | _ => none

/-- All operands of a form. -/
def putOps (e : AsmEnv) (here : Int) (size : Nat) : List AsmOp → List Txt → Option Nat
  | [], [] => some 0
  | [.cases], ts => casesText e ts
  | o :: os, t :: ts => (o.put e here size t).bind fun a => (putOps e here size os ts).map (a + ·)
  | _, _ => none

/-- The modifiers left when those that choose the form are there, once and in order. -/
def takeReq (req : List String) (ms : List Txt) : Option (List Txt) :=
  let want := req.map txt
  if ms.filter want.contains = want then some (ms.filter fun m => !want.contains m) else none

/-- The first class that has a modifier: its code, and the classes left (R250). A source type is not taken while a class before it is
`open`, that of the destination type. -/
def takeMod (m : Txt) (isOpen : Bool) : List AsmMods → Option (Nat × List AsmMods)
  | [] => none
  | c :: cs =>
    match c.codes.find? fun p => txt p.1 == m with
    | some p => if c.source && isOpen then none else some (p.2, cs)
    | none => (takeMod m (isOpen || c.need) cs).map fun r => (r.1, c :: r.2)

/-- Each modifier falls in a class of its own (R250). -/
def takeMods : List Txt → List AsmMods → Option Nat
  | [], cs => if cs.any (·.need) then none else some 0
  | m :: ms, cs => (takeMod m false cs).bind fun r => (takeMods ms r.2).map (r.1 + ·)

/-- Bytes of SZ (R312). -/
def asmSize (sz : Nat) : Nat := [4, 8, 16, 1, 1, 2, 2, 1].getD sz 1

/-- The code of a form. -/
def AsmForm.put (e : AsmEnv) (here : Int) (ms ts : List Txt) (f : AsmForm) : Option Nat :=
  (takeReq f.req ms).bind fun ms => (takeMods ms f.mods).bind fun m =>
    let c := f.code + m
    (putOps e here (asmSize (bitsOf c 8 3)) f.ops ts).map (c + ·)

/-- The longest name of R248 that the parts of a mnemonic begin with (R250). -/
def findAsm (parts : List Txt) : Option (List Txt × Nat × Nat × List AsmForm) :=
  let l := Asm.names.filter fun r => r.1.isPrefixOf parts
  match l.find? fun r => r.1.length == 2 with
  | some r => some r
  | none => l.head?

/-- A guard's bits of the extension word; `(p0)` is no guard (R251). -/
def guardText (t : Txt) : Option Nat :=
  match t with
  | 33 :: p => (regOf 112 8 p).map fun n => 2 ^ 31 + 2 ^ 30 + n * 2 ^ 27
  | p => (regOf 112 8 p).map fun n => if n = 0 then 0 else 2 ^ 31 + n * 2 ^ 27

/-- A guard and the rest of a statement. -/
def takeGuard (t : Txt) : Option (Nat × Txt) :=
  match t with
  | 40 :: r =>
    let g := r.takeWhile (· != 41)
    match r.drop g.length with
    | _ :: rest => (guardText (trimTxt g)).map (·, trimTxt rest)
    | [] => none
  | t => some (0, t)

/-- An instruction (R250): its class, whether it is a transfer, and its words. A word that no decoder accepts is an error. -/
def asmInstr (e : AsmEnv) (here : Int) (t : Txt) : Option (Nat × Bool × List Word) :=
  (takeGuard t).bind fun (g, t) =>
    let (h, ops) := headAndOperands t
    let parts := splitAtChar 46 h
    (findAsm parts).bind fun (n, major, minor, forms) =>
      (forms.findSome? (AsmForm.put e here (parts.drop n.length) (ops.map fun o => squeeze o false))).bind fun c =>
        let ext := g + c % 2 ^ 32
        let base := major * 2 ^ 26 + minor * 2 ^ 21 + c / 2 ^ 32 % 2 ^ 32 + (if ext = 0 then 0 else 2 ^ 25)
        let ws := BitVec.ofNat 32 base :: (if ext = 0 then [] else [BitVec.ofNat 32 ext]) ++
          (if isL major minor then [BitVec.ofNat 32 (c / 2 ^ 64)] else [])
        match decode ws with
        | .ok (_, []) => some (classOf major minor, isTransfer major minor, ws)
        | _ => none

/-- A role (R253): its number, its entry label, its gangs and its engine sets as bits 15 to 13 of the role word (R186). -/
structure AsmRole where
  num : Nat
  entry : Txt
  gangs : Nat
  engines : Nat
  deriving DecidableEq, Repr

/-- A tensor template (R352, R353): the parameters its BASE and SBASE name, and its words 2 and 3. -/
structure AsmTensor where
  base : Txt
  scale : Option Txt
  word2 : Nat
  word3 : Nat
  deriving DecidableEq, Repr

/-- A kernel under way (R253). -/
structure AsmKernel where
  name : Txt
  scope : Nat
  roles : List AsmRole := []
  regs : List (Nat × Nat) := []
  depth : Nat := 0
  scratch : Nat := 0
  accRows : Nat := 0
  params : Nat := 0
  pairs : List Txt := []
  bases : List Txt := []
  consts : Nat := 0
  constOff : Nat := 0
  tensors : List AsmTensor := []
  groups : List (Nat × List Nat) := []
  used : List Nat := []
  deriving DecidableEq, Repr

/-- Sections (R254). -/
inductive AsmSect where | outside | text | const | data
  deriving DecidableEq, Repr

/-- A clause under way: class, instructions, whether a transfer ended it, and its words, the last one first. -/
structure AsmClause where
  cls : Nat
  count : Nat
  ended : Bool
  words : List Word
  deriving DecidableEq, Repr

/-- A pass: code words, the last one first, the clause under way, the bytes of the data sections, kernels and names. -/
structure AsmSt where
  sect : AsmSect := .outside
  code : List Word := []
  clause : Option AsmClause := none
  const : List Byte := []
  data : List Byte := []
  kernels : Nat := 0
  kernel : Option AsmKernel := none
  done : List AsmKernel := []
  names : List AsmName := []
  deriving DecidableEq, Repr

/-- A clause header with no wait (R233). -/
def plainHeader (cls w n : Nat) : Word := BitVec.ofNat 32 (0xB0000000 + cls * 2 ^ 24 + w * 2 ^ 18 + n * 2 ^ 14)

/-- The clause under way ends (R252). -/
def AsmSt.close (s : AsmSt) : AsmSt :=
  match s.clause with
  | none => s
  | some c => { s with clause := none, code := c.words ++ plainHeader c.cls c.words.length c.count :: s.code }

def AsmSt.scope (s : AsmSt) : Nat := match s.kernel with | some k => k.scope | none => 0

/-- A name gets its value, once in a kernel. -/
def AsmSt.define (s : AsmSt) (isParam : Bool) (n : Txt) (v : Int) : Option AsmSt :=
  if s.names.any fun x => x.scope == s.scope && x.isParam == isParam && x.name == n then none
  else some { s with names := ⟨s.scope, isParam, n, v⟩ :: s.names }

/-- A label (R249, R252): it ends the clause, and its value is the byte offset from the start of its section. -/
def AsmSt.label (s : AsmSt) (n : Txt) : Option AsmSt :=
  match s.sect with
  | .outside => none
  | .text => let s := s.close; s.define false n (4 * s.code.length : Nat)
  | .const => s.define false n s.const.length
  | .data => s.define false n s.data.length

/-- An instruction joins the clause under way or begins a new one (R252). -/
def AsmSt.instr (s : AsmSt) (e : AsmEnv) (t : Txt) : Option AsmSt :=
  match s.sect, s.kernel with
  | .text, some k =>
    let join (s : AsmSt) : Option (Nat × Bool × List Word) :=
      asmInstr e (4 * (s.code.length + 1 + (match s.clause with | some c => c.words.length | none => 0)) : Nat) t
    (join s).bind fun (cls, _, _) =>
      let s := match s.clause with | some c => if c.cls ≠ cls ∨ c.ended ∨ 15 ≤ c.count then s.close else s | none => s
      (join s).map fun (_, ends, ws) =>
        let c := s.clause.getD ⟨cls, 0, false, []⟩
        { s with clause := some ⟨cls, c.count + 1, ends, ws.reverse ++ c.words⟩, kernel := some { k with used := cls :: k.used } }
  | _, _ => none

/-- Clauses of `nop` that fill `g` words, at least two a clause (R252); the last word first. How a gap of more than one clause is split
the spec leaves open: clauses of 16 words, and one of 15 where 17 are left (log 143, DESIGN CHOICE). -/
def nopFill : Nat → Nat → List Word
  | 0, _ => []
  | fuel + 1, g =>
    let w := if g = 17 then 15 else min g 16
    if w < 2 then []
    else nopFill fuel (g - w) ++ (List.replicate (w - 1) (BitVec.ofNat 32 0xB1400000) ++ [plainHeader 0 (w - 1) (w - 1)])

/-- The bytes to the next multiple of `k`. -/
def gapTo (k n : Nat) : Nat := (k - n % k) % k

/-- Zeros and bytes of constant data, which count for the kernel under way (R253, R255). -/
def AsmSt.addConst (s : AsmSt) (gap : Nat) (bs : List Byte) : Option AsmSt :=
  some { s with const := s.const ++ List.replicate gap 0 ++ bs
                kernel := s.kernel.map fun q => { q with consts := q.consts + gap + bs.length } }

/-- `.align k` (R252, R253). -/
def AsmSt.align (s : AsmSt) (k : Nat) : Option AsmSt :=
  if k < 4 ∨ 4096 < k ∨ 2 ^ k.log2 ≠ k then none
  else
    match s.sect with
    | .outside => none
    | .text =>
      let s := s.close
      let g := gapTo k (4 * s.code.length) / 4
      let g := if g = 1 then 1 + k / 4 else g
      some { s with code := nopFill g g ++ s.code }
    | .const => (s.addConst (gapTo k s.const.length) [])
    | .data => some { s with data := s.data ++ List.replicate (gapTo k s.data.length) 0 }

/-- Bytes of data (R253); none stand in `.text` (R252). -/
def AsmSt.bytes (s : AsmSt) (bs : List Byte) : Option AsmSt :=
  match s.sect with
  | .const => if s.kernel.isSome then s.addConst 0 bs else none
  | .data => some { s with data := s.data ++ bs }
  | _ => none

/-- The bytes of a parameter type (R250, R253). -/
def paramSize (t : Txt) : Option Nat :=
  ([(".b8", 1), (".n8", 1), (".i8", 1), (".e4m3", 1), (".e5m2", 1), (".b16", 2), (".n16", 2), (".i16", 2), (".f16", 2), (".bf16", 2),
    (".b32", 4), (".n32", 4), (".i32", 4), (".f32", 4), (".b64", 8), (".n64", 8), (".i64", 8), (".f64", 8), (".b128", 16)].find?
      fun p => txt p.1 == t).map (·.2)

/-- A number of a directive, within bounds. -/
def boundedNum (lo hi : Nat) (t : Txt) : Option Nat :=
  (numberOf t).bind fun v => if (lo : Int) ≤ v ∧ v ≤ hi then some v.toNat else none

/-- Engine sets (R253) as bits of the role word. -/
def enginesOf (t : Txt) : Option Nat :=
  if t = txt "none" then some 0
  else
    let ps := (splitAtChar 43 t).map trimTxt
    let on (w : String) (b : Nat) : Nat := if ps.contains (txt w) then 2 ^ b else 0
    if ps.all fun p => p = txt "mx" ∨ p = txt "cp" ∨ p = txt "ch" then some (on "mx" 15 + on "cp" 14 + on "ch" 13) else none

/-- The kernel under way changes. -/
def AsmSt.inKernel (s : AsmSt) (g : AsmKernel → Option AsmKernel) : Option AsmSt :=
  s.kernel.bind fun k => (g k).map fun k => { s with kernel := some k }

/-- A parameter item (R253): the next place that `al` divides. -/
def AsmSt.param (s : AsmSt) (n : Txt) (al size : Nat) (isPair : Bool) : Option AsmSt :=
  s.kernel.bind fun k =>
    let p := k.params + gapTo al k.params
    (s.define true n p).map fun s =>
      { s with kernel := some { k with params := p + size, pairs := if isPair then n :: k.pairs else k.pairs } }

/-- The formats of tensors by code (R352). -/
def tensorFormats : List String := ["f32", "f16", "bf16", "e4m3", "e5m2", "f4", "te4", "te6", "te9"]

/-- A tensor template (R253, R352, R353) and its 32-byte parameter item. The flush operand holds FOUT and FIN as word 3's bits 23:20 do
(log 145, DESIGN CHOICE). -/
def AsmSt.tensor (s : AsmSt) (a : List Txt) : Option AsmSt :=
  match a with
  | tid :: fmt :: rows :: cols :: stride :: base :: more =>
    (boundedNum 0 63 tid).bind fun t => (boundedNum 1 65535 rows).bind fun r => (boundedNum 1 65535 cols).bind fun c =>
    (boundedNum 0 (2 ^ 32 - 1) stride).bind fun st =>
    (tensorFormats.findIdx? fun f => fmt = txt f ∨ fmt = 46 :: txt f).bind fun f =>
      let opt (i hi : Nat) : Option Nat := match more[i]? with | some v => boundedNum 0 hi v | none => some 0
      (opt 1 3).bind fun sg => (opt 2 255).bind fun x => (opt 3 15).bind fun fl =>
        if 4 < more.length then none
        else
          let T : AsmTensor := { base, scale := more.head?, word2 := r + c * 2 ^ 16 + st * 2 ^ 32
                                 word3 := f + 1 + sg * 2 ^ 8 + fl * 2 ^ 20 + x * 2 ^ 24 }
          (s.inKernel fun k => some { k with tensors := k.tensors ++ [T], bases := base :: more.take 1 ++ k.bases }).bind fun s =>
            s.param (txt "tensor$" ++ (if t < 10 then [48 + t] else [48 + t / 10, 48 + t % 10])) 32 32 false
  | _ => none

/-- The checks at `.end` (R252, R253): role 0, an allotment above the depth for every role, an entry label for each, the
classes of the instructions within the engine sets, and tensor bases that are `.b64` parameters. -/
def AsmKernel.ok (k : AsmKernel) (e : AsmEnv) : Bool :=
  let engines := k.roles.foldl (fun n r => n ||| r.engines) 0
  k.roles.any (·.num == 0) &&
  k.roles.all (fun r =>
    (match k.regs.find? fun p => p.1 == r.num with | some p => decide (k.depth < p.2) | none => false) &&
    (!e.strict || (e.label r.entry).isSome)) &&
  k.used.all (fun c => (c != 3 || bitOf engines 15) && (c != 4 || bitOf engines 14) && (c != 5 || bitOf engines 13)) &&
  k.bases.all k.pairs.contains && decide (k.tensors.length ≤ 64) && decide (k.groups.length ≤ 65535)

/-- A section directive (R253). -/
def AsmSt.section (s : AsmSt) (x : AsmSect) : AsmSt := { s.close with sect := x }

/-- The constant data of the kernel under way begin here, at a 16-byte boundary, as long as it has none (R253, R255). -/
def AsmSt.atConst (s : AsmSt) : AsmSt :=
  if s.sect = .const ∧ s.kernel.any (·.consts == 0) = true then
    let c := s.const ++ List.replicate (gapTo 16 s.const.length) 0
    { s with const := c, kernel := s.kernel.map fun k => { k with constOff := c.length } }
  else s

/-- The value of a data directive (R253): an integer of `w` bytes, little-endian, or a binary32 value rounded RNE. -/
def dataValue (w : Nat) (float : Bool) (t : Txt) : Option (List Byte) :=
  if float then
    let u := match t with | 45 :: r => r | t => t
    match natOf u with
    | some n => some (toBytes 4 ((fmtOf 0).roundTo 0 0 0 (t.head? == some 45) n 1 0).v)
    | none => (numberOf t).map fun v => toBytes 4 v.toNat
  else
    (numberOf t).bind fun v =>
      if -(2 ^ (8 * w - 1) : Int) ≤ v ∧ v < (2 ^ (8 * w) : Int) then some (toBytes w (v % (2 ^ (8 * w) : Int)).toNat) else none

/-- Data values (R253). -/
def AsmSt.values (s : AsmSt) (w : Nat) (float : Bool) (a : List Txt) : Option AsmSt :=
  (a.mapM (dataValue w float)).bind fun bs => s.bytes bs.flatten

/-- A directive (R253) with its operands. `.clause` and `.break` are errors in portable text, as is a variant but 0 (R257). -/
def AsmSt.directive (s : AsmSt) (e : AsmEnv) (d : Txt) (a : List Txt) : Option AsmSt :=
  let is (w : String) : Bool := d == txt w
  let data : List (String × Nat) := [(".byte", 1), (".half", 2), (".word", 4), (".dword", 8), (".float", 4)]
  match data.find? fun p => is p.1, a with
  | some p, a => if a.isEmpty then none else s.values p.2 (is ".float") a
  | none, [] =>
    if is ".const" then some (s.section .const).atConst
    else if is ".data" then some (s.section .data)
    else if is ".text" then some (s.section .text)
    else if is ".end" then
      s.kernel.bind fun k => if k.ok e then some { s with kernel := none, done := k :: s.done } else none
    else none
  | none, [x] =>
    if is ".kernel" then
      if s.kernel.isSome ∨ ¬ isName x ∨ 63 < x.length then none
      else some (AsmSt.atConst { s with kernels := s.kernels + 1, kernel := some { name := x, scope := s.kernels + 1 } })
    else if is ".depth" then (boundedNum 0 32 x).bind fun v => s.inKernel fun k => some { k with depth := v }
    else if is ".scratch" then (boundedNum 0 2048 x).bind fun v => s.inKernel fun k => some { k with scratch := v }
    else if is ".accrows" then (boundedNum 0 1024 x).bind fun v => s.inKernel fun k => some { k with accRows := v }
    else if is ".align" then (boundedNum 4 4096 x).bind s.align
    else if is ".variant" then (boundedNum 0 0 x).map fun _ => s
    else none
  | none, x :: y :: more =>
    if is ".role" then
      match more with
      | [g, en] =>
        (boundedNum 0 3 x).bind fun r => (boundedNum 1 64 g).bind fun g => (enginesOf en).bind fun n =>
          if isName y then s.inKernel fun k => some { k with roles := ⟨r, y, g, n⟩ :: k.roles.filter (·.num != r) } else none
      | _ => none
    else if is ".regs" then
      if more.isEmpty then
        (boundedNum 0 3 x).bind fun r => (boundedNum 8 128 y).bind fun v =>
          if v % 8 = 0 then s.inKernel fun k => some { k with regs := (r, v) :: k.regs } else none
      else none
    else if is ".group" then
      (boundedNum 0 (2 ^ 64 - 1) x).bind fun b => ((y :: more).mapM (boundedNum 0 255)).bind fun gs =>
        if more.length < 4 then s.inKernel fun k => some { k with groups := k.groups ++ [(b, gs)] } else none
    else if is ".param" then
      (paramSize y).bind fun w =>
        let n := match more with | [] => some 1 | [c] => boundedNum 1 (2 ^ 32 - 1) c | _ => none
        n.bind fun n => if isName x then s.param x w (w * n) (y == txt ".b64" && n == 1) else none
    else if is ".tensor" then s.tensor (x :: y :: more)
    else none

/-- A statement (R250): a directive begins with a full stop. -/
def AsmSt.statement (s : AsmSt) (e : AsmEnv) (t : Txt) : Option AsmSt :=
  match t with
  | [] => some s
  | 46 :: _ => let (d, a) := headAndOperands t; s.directive e d a
  | _ => s.instr e t

/-- A line (R249). -/
def AsmSt.line (e : AsmEnv) (s : AsmSt) (t : Txt) : Option AsmSt :=
  let (l, rest) := takeLabel (trimTxt (cutComment t))
  let e := { e with scope := s.scope }
  match l with
  | some n => (s.label n).bind fun s => s.statement e rest
  | none => s.statement e rest

/-- One pass over the lines. Every kernel ends before the text does. -/
def asmPass (names : List AsmName) (strict : Bool) (lines : List Txt) : Option AsmSt :=
  (lines.foldlM (AsmSt.line ⟨names, 0, strict⟩) {}).bind fun s => if s.kernel.isSome then none else some s.close

/-- A role's two words of the launch header (R186). -/
def roleWords (k : AsmKernel) (e : AsmEnv) (r : Nat) : List Nat :=
  match k.roles.find? (·.num == r) with
  | none => [0, 0]
  | some x =>
    let a := match k.regs.find? fun p => p.1 == r with | some p => p.2 | none => 0
    [((e.label x.entry).getD 0).toNat, x.engines + x.gangs * 2 ^ 6 + a / 8]

/-- A tensor template's 32 bytes (R352, R353): BASE and SBASE hold the constant offsets of the parameters they name. -/
def AsmTensor.bytes (e : AsmEnv) (T : AsmTensor) : List Byte :=
  let at_ := fun n => ((e.find n).getD 0).toNat
  [at_ T.base, (T.scale.map at_).getD 0, T.word2, T.word3].flatMap (toBytes 8)

/-- A group entry's 16 bytes (R192, R255): a linear block index and a member-map entry. -/
def groupBytes (g : Nat × List Nat) : List Byte :=
  toBytes 8 g.1 ++ toBytes 8 ((g.2.zipIdx.map fun p => (p.1 + 2 ^ 15) * 2 ^ (16 * p.2)).sum)

/-- What follows the descriptors in `.ranva.kd` for a kernel (R254): its tensor templates and its group entries. -/
def AsmKernel.tail (k : AsmKernel) (e : AsmEnv) : List Byte :=
  k.tensors.flatMap (·.bytes { e with scope := k.scope }) ++ k.groups.flatMap groupBytes

/-- A kernel descriptor at level 3 (R255); `off` is the place of the kernel's templates in `.ranva.kd`. The padding between the parameter
block and the constant data counts in neither PARAMSIZE nor CONSTSIZE, and the section's index belongs to the code object
(log 145, DESIGN CHOICE). -/
def descriptorBytes (e : AsmEnv) (i off : Nat) (k : AsmKernel) : List Byte :=
  let e := { e with scope := k.scope }
  let last := k.roles.foldl (fun n r => max n r.num) 0
  let words := [3 + last * 2 ^ 16 + k.depth * 2 ^ 18, k.scratch * 2 ^ 32 + k.accRows * 2 ^ 53, 0, 0, 0, 0, 0, 0] ++
    (List.range 4).flatMap (roleWords k e)
  words.flatMap (toBytes 8) ++ k.name.map (BitVec.ofNat 8) ++ List.replicate (64 - k.name.length) 0 ++
    toBytes 4 (Config.sectionIndex i).toNat ++ [BitVec.ofNat 8 3, 0, 0, 0] ++ toBytes 4 k.params ++ toBytes 4 k.consts ++
    toBytes 4 k.constOff ++ toBytes 4 off ++ toBytes 2 k.tensors.length ++ toBytes 2 k.groups.length ++
    toBytes 4 (off + 32 * k.tensors.length) ++ List.replicate 32 0

/-- The descriptors and what follows them (R254, R255): `off` is the place of the next kernel's templates. -/
def kdBytes (e : AsmEnv) : List AsmKernel → Nat → Nat → List Byte × List Byte
  | [], _, _ => ([], [])
  | k :: ks, i, off =>
    let tail := k.tail e
    let r := kdBytes e ks (i + 1) (off + tail.length)
    (descriptorBytes e i off k ++ r.1, tail ++ r.2)

/-- A code object's contents (R254): the code section's image, `.ranva.kd`, `.const` and `.data`. -/
structure AsmObject where
  code : List Byte
  kd : List Byte
  const : List Byte
  data : List Byte
  deriving DecidableEq, Repr

/-- The assembled text (R252, R254); `none` when it breaks the rules. Names may be used before they are defined, so two passes find them
and a third one assembles. -/
def asmObject (text : List Byte) : Option AsmObject :=
  let t := text.map (·.toNat)
  if utf8From t 0 0 0 then
    let lines := splitAtChar 10 t
    (asmPass [] false lines).bind fun s1 => (asmPass s1.names false lines).bind fun s2 => (asmPass s2.names true lines).map fun s =>
      let kd := kdBytes ⟨s.names, 0, true⟩ s.done.reverse 0 (256 * s.done.length)
      { code := s.code.reverse.flatMap fun w => toBytes 4 w.toNat, kd := kd.1 ++ kd.2, const := s.const, data := s.data }
  else none

/-- What the translator makes of a text (R257, R505): the section image and the kernel descriptors with what they name. -/
def asmText (text : List Byte) : Option (List Byte) := (asmObject text).map fun o => o.code ++ o.kd

end Sys2Proof.Machine
end

