-- ==== Sys2Proof/Machine/Translator.lean ====
section
/-! DEFINITION. The on-device translator: its requests, its cache and its region (22:R504-R506). -/

namespace Sys2Proof.Machine

/-- A request ends: status, OUTLEN, vector 18 (R504, R505). -/
def State.xlEnd (s : State) (f status outlen : Nat) : State :=
  ({ s with xlQueue := s.xlQueue.erase f }.updFunc f fun u =>
    { u with xlPend := none, xlStatus := status, xlOutlen := outlen }).interrupt f 18

/-- TRANSLATOR_REQUEST (R504): a write of XL_CMD, ignored while a request is pending; a level other than 0 and 3 ends it at
once. -/
def execTranslatorRequest (f : Nat) (v : BitVec 64) (s : State) : Out :=
  .next <|
    if s.shut f ∨ (s.func f).xlPend.isSome = true then s
    else
      let l := v.toNat % 256
      if l ≠ 0 ∧ l ≠ 3 then s.xlEnd f 2 0
      else { s with xlQueue := s.xlQueue ++ [f] }.updFunc f fun u => { u with xlPend := some l }

/-- The entries that stay, newest first, in a region of `room` bytes (R505): the least recently used go. -/
def keepRecent : List (Nat × List Byte) → Nat → List (Nat × List Byte)
  | [], _ => []
  | e :: es, room => if e.2.length ≤ room then e :: keepRecent es (room - e.2.length) else []

/-- Put an entry first in the function's cache. -/
def Func.xcPut (u : Func) (h : Nat) (out : List Byte) : Func :=
  { u with xcCache := keepRecent ((h, out) :: u.xcCache.filter fun e => e.1 != h) (u.xcPages * 2 ^ 18) }

/-- The region is in use. -/
def Func.xcOn (u : Func) : Bool := bitOf u.xcBase.toNat 0

/-- An access of the translator: through the function's stage 2, with the physical function's ways (R89), at no context's charge
(R434). -/
def State.xlAccess {α : Type} (s : State) (f : Nat) (go : State → State × Got α) : State × Got α :=
  let ways := fun (w : Word) (s : State) => s.updFunc f fun u => { u with l2Ways := w }
  let r := go (ways (s.func 128).l2Ways s)
  -- what it leaves waiting at a slice samples the physical function's mask when it takes its register
  let pf := fun (k : Nat × Slice) => (k.1, { k.2 with
    waits := k.2.waits.map fun w => if (s.slice k.1).waits.contains w then w else { w with fn := 128 } })
  ({ (ways (s.func f).l2Ways r.1).unbilled s with slices := r.1.slices.map pf }, r.2)

/-- Copy a result out (R505). -/
def State.xlCopy (s : State) (f status : Nat) (out : List Byte) : State :=
  let u := s.func f
  if u.xlCap.toNat < out.length then s.xlEnd f 4 out.length
  else
    let at' := u.xlDst.toNat / 128 * 128
    match s.xlAccess f (writePieces (fun s q bs => s.gpaWrite1 0 (f * 4096) q bs) none (linePieces at' out.length) out) with
    | (s, .waits) => s
    | (s, .fault) => s.xlEnd f 5 out.length
    | (s, .val _) => s.xlEnd f status out.length

/-- TRANSLATOR_DONE (R505): the section is read through the function's stage 2, looked up, assembled on a miss, kept when EN = 1
and copied out. A request whose accesses have to wait stays pending. The four cores serve the four oldest requests (R506). -/
def execTranslatorDone (f : Nat) (s : State) : Out :=
  .next <|
    let u := s.func f
    if u.xlPend.isNone ∨ (s.xlQueue.take 4).contains f = false then s
    else
      match s.xlAccess f (readPieces (fun s q => s.gpaRead1 0 (f * 4096) q) none (linePieces u.xlSrc.toNat u.xlSlen.toNat)) with
      | (s, .waits) => s
      | (s, .fault) => s.xlEnd f 5 0
      | (s, .val text) =>
        let h := (Config.sha512 text).toNat
        let keep := fun (out : List Byte) (s : State) => if (s.func f).xlPend.isSome then s else s.updFunc f fun u => u.xcPut h out
        match if u.xcOn then u.xcCache.find? (·.1 == h) else none with
        | some e => keep e.2 (s.xlCopy f 1 e.2)
        | none =>
          match asmText text with
          | none => s.xlEnd f 3 0
          | some out => if u.xcOn then keep out (s.xlCopy f 0 out) else s.xlCopy f 6 out

/-- XC_BASE_ENABLE (R504, R506): BASE is ignored while EN = 1, and a write that sets EN empties the index. -/
def execXcBaseEnable (f : Nat) (v : BitVec 64) (s : State) : Out :=
  .next <|
    if !bitOf v.toNat 0 then s
    else s.updFunc f fun u =>
      { u with xcCache := [], xcBase := if u.xcOn then u.xcBase else BitVec.ofNat 64 (bitsOf v.toNat 18 34 * 2 ^ 18 + 1) }

end Sys2Proof.Machine
end

