-- ==== Sys2Proof/Machine/Registers.lean ====
section
/-! DEFINITION. Writes of the register windows (00:R7, 22:R483-R485 and the rule of each register). A write of fewer than eight bytes
comes with a mask of the bits it reaches; a register that a write starts is started by a write that reaches its bit 0. -/

namespace Sys2Proof.Machine

/-- What a register of which the bits `rw` can be written holds after the bits `m` of it are written. -/
def putBits (old rw v m : Nat) : Nat := (old &&& (2 ^ 64 - 1 - (rw &&& m))) ||| (v &&& rw &&& m)

/-- The same as a register. -/
def putWord (old : DWord) (rw v m : Nat) : DWord := BitVec.ofNat 64 (putBits old.toNat rw v m)

/-- A bit that writing a one clears. -/
def w1c (old : Bool) (v m i : Nat) : Bool := old && !(bitOf v i && bitOf m i)

/-- Bits `lo` to `hi` of a word. -/
def bitsFrom (hi lo : Nat) : Nat := 2 ^ (hi + 1) - 2 ^ lo

/-! ## A function's window (R484) -/

/-- A write of TLBI_CMD (R57, R58). -/
def State.writeTlbi (s : State) (f : Nat) (v : BitVec 64) : State :=
  let refused := Out.state (execTlbiCmdRefused f v s) s
  if tlbiBad f v ∨ 16 ≤ (s.func f).tlbiPend.length then refused else s.tlbi f (tlbiOp v) v

/-- The invalidation interface (R57). -/
def State.writeInval (s : State) (f off v m : Nat) : State :=
  if off = 0x080 then s.updFunc f fun u => { u with tlbiAddr := putWord u.tlbiAddr (bitsFrom 63 18) v m }
  else if off = 0x088 then (if bitOf m 0 then s.writeTlbi f (BitVec.ofNat 64 (v &&& m)) else s)
  else if off = 0x0A0 then s.updFunc f fun u => { u with tlbiFull := w1c u.tlbiFull v m 1, tlbiRefused := w1c u.tlbiRefused v m 0 }
  else s

/-- A submission queue's registers (R398, R399). -/
def State.writeQueue (s : State) (f q i v m : Nat) : State :=
  let u := (s.func f).queue q
  match i with
  | 0 => if u.on then s else s.updQueue f q fun u => { u with base := putWord u.base (bitsFrom 63 12) v m }
  | 1 => Out.state (execSqCtlEnable f q (putWord u.ctl (2 ^ 64 - 1) v m) s) s
  | 3 => Out.state (execSqTail f q (BitVec.ofNat 64 (putBits u.tail (2 ^ 64 - 1) v m)) s) s
  | 4 => if u.on then s else s.updQueue f q fun u => { u with cqBase := putWord u.cqBase (bitsFrom 63 12) v m }
  | 5 => Out.state (execCqHead f q (BitVec.ofNat 64 (putBits u.cqHead (2 ^ 64 - 1) v m)) s) s
  | 7 => s.updQueue f q fun u => { u with stat := u.stat &&& (7 - (v &&& m) % 8) }
  | _ => s

/-- The translator's registers (R504). -/
def State.writeXl (s : State) (f i v m : Nat) : State :=
  let all := 2 ^ 64 - 1
  match i with
  | 0 => s.updFunc f fun u => { u with xlSrc := putWord u.xlSrc all v m }
  | 1 => s.updFunc f fun u => { u with xlSlen := putWord u.xlSlen all v m }
  | 2 => s.updFunc f fun u => { u with xlDst := putWord u.xlDst all v m }
  | 3 => s.updFunc f fun u => { u with xlCap := putWord u.xlCap all v m }
  | 4 => if bitOf m 0 then Out.state (execTranslatorRequest f (BitVec.ofNat 64 (v &&& m)) s) s else s
  | _ => s

/-- A write of CTX_OP (R488). -/
def State.writeCtxOp (s : State) (f : Nat) (v : BitVec 64) : State :=
  let o := match v.toNat % 16 with
    | 1 => execCtxCreate f s
    | 2 => execCtxDestroy f s
    | 3 => execCtxOpEnd f s
    | _ => execCtxOpRefused f v s
  Out.state o s

/-- A lane breakpoint's word written by function `f` (R467, R490). -/
def State.writeLbp (s : State) (c i f v m : Nat) : State :=
  s.updCluster c fun k =>
    let b := k.lbp.getD (i / 2) (0, 0, 128)
    let b' : DWord × DWord × Nat :=
      if i % 2 = 0 then (putWord b.1 (bitsFrom 63 2) v m, b.2.1, f)
      else
        let w := putBits b.2.1.toNat (bitsFrom 63 8 + 1) v m
        (b.1, BitVec.ofNat 64 (if bitOf v 1 && bitOf m 1 then w &&& (2 ^ 64 - 3) else w), f)
    { k with lbp := k.lbp.set (i / 2) b' }

/-- The cluster view (R490), by offset from 0x1000. -/
def State.writeView (s : State) (f off v m : Nat) : State :=
  let c := (s.func f).cluSel
  if off = 0 then s.updFunc f fun u => { u with cluSel := putBits u.cluSel 0xFF v m }
  else if !s.viewLive f then s
  else if off = 0x10 then Out.state (execBankmodeReq f c (putWord (s.cluster c).bankReq (2 ^ 64 - 1) v m) s) s
  else if 0x100 ≤ off ∧ off < 0x200 then s.writeLbp c ((off - 0x100) / 8) f v m
  else s

/-- The MSI-X table (R492): a cleared mask bit sends what is pending. -/
def State.writeMsix (s : State) (f i v m : Nat) : State :=
  let s := s.updFunc f fun u => { u with msixTab := u.msixTab.set i (putWord (u.msixTab.getD i 0) (if i % 2 = 0 then 2 ^ 64 - 1 else 2 ^ 32 - 1) v m) }
  if i % 2 = 0 ∨ !bitOf m 32 then s
  else if bitOf v 32 then s.updFunc f fun u => { u with msixMask := u.msixMask ||| 2 ^ (i / 2) }
  else Out.state (execMsixUnmask f (i / 2) s) s

/-! ## Profiling (R471-R481) -/

/-- A write of CMD (R472). -/
def State.writeCmd (s : State) (f p r : Nat) (v : BitVec 64) : State :=
  let o := if cmdBad f v then execSessionCmdRefused f p r v s else match cmdOp v with
    | 1 => execSessionClaim f p r v s
    | 2 => execSessionRelease f p r v s
    | 3 => execSessionStart f p r v s
    | 4 => execSessionStop f p r v s
    | 5 => execSessionRestore f p r v s
    | _ => execSessionClear f p r v s
  Out.state o s

/-- SESS (R472, R475): two bits that a one clears; the physical function writes GEN, and the RUN to be restored, of a free
resource. -/
def Session.putSess (se : Session) (f v m : Nat) : Session :=
  let se := { se with reclaimed := w1c se.reclaimed v m 23, evtLost := w1c se.evtLost v m 22 }
  if f = 128 ∧ se.st = 0 then
    { se with gen := putBits (se.gen * 2 ^ 32) (bitsFrom 63 32) v m / 2 ^ 32
              data := { se.data with run := if bitOf m 21 then bitOf v 21 else se.data.run } }
  else se

/-- The selections of a session (R474, R476, R479), by resource and offset. -/
def SessData.putSel (d : SessData) (r off v m : Nat) : SessData :=
  if r < 4 then
    let rw := 0x8FFF * (1 + 2 ^ 16 + 2 ^ 32 + 2 ^ 48)
    if off = 0x10 then { d with evt := d.evt.set 0 (putWord (d.evt.getD 0 0) rw v m) }
    else if off = 0x18 then { d with evt := d.evt.set 1 (putWord (d.evt.getD 1 0) rw v m) }
    else d
  else if r = 4 then
    if off = 0x10 then { d with trBase := putWord d.trBase (bitsFrom 63 12) v m }
    else if off = 0x18 then { d with trCtl := putWord d.trCtl 0xFFF9000F v m }
    else d
  else if off = 0x10 then { d with cxLo := putWord d.cxLo (bitsFrom 63 2) v m }
  else if off = 0x18 then { d with cxHi := putWord d.cxHi (bitsFrom 63 2) v m }
  else if off = 0x20 then { d with cxCtl := putWord d.cxCtl (bitsFrom 63 51 + bitsFrom 39 0) v m }
  else d

/-- A count written for a migration (R475). -/
def SessData.putCnt (d : SessData) (off v m : Nat) : SessData :=
  if 0x20 ≤ off ∧ off < 0x60 then
    { d with cnt := d.cnt.set ((off - 0x20) / 8) (putBits (d.cnt.getD ((off - 0x20) / 8) 0) (2 ^ 64 - 1) v m) }
  else d

/-- The status bits of a session that a one clears (R476, R479). -/
def SessData.putStat (d : SessData) (r off v m : Nat) : SessData :=
  if r = 4 ∧ off = 0x20 then { d with trFault := w1c d.trFault v m 39 }
  else if r = 5 ∧ off = 0x28 then { d with abandoned := w1c d.abandoned v m 2, finished := w1c d.finished v m 0 }
  else d

/-- A write of a resource's register other than CMD (R472, R474-R476, R479): selections by the owner while RUN = 0. -/
def Session.write (se : Session) (f r off v m : Nat) : Session :=
  if off = 0 then se.putSess f v m
  else
    let idle := !se.data.run && !se.data.running
    if se.ownedBy f then
      let d := se.data.putStat r off v m
      { se with data := if idle then d.putSel r off v m else d }
    else if f = 128 ∧ se.st = 0 ∧ r < 4 then { se with data := (se.data.putSel r off v m).putCnt off v m }
    else se

/-- The profiling blocks (R471), by offset from 0x4000. -/
def State.writeProf (s : State) (f off v m : Nat) : State :=
  let p := off / 0x400
  let a := profAt (off % 0x400)
  if !s.reaches f p then s
  else if a.2 = 8 then (if bitOf m 0 then s.writeCmd f p a.1 (BitVec.ofNat 64 (v &&& m)) else s)
  else s.updPart p fun pt => { pt with prof := pt.prof.set a.1 ((pt.resource a.1).write f a.1 a.2 v m) }

/-- A capture unit (R481). -/
def State.writeHcu (s : State) (p u off v m : Nat) : State :=
  if off = 0 then
    let old := ((s.part p).hcu.getD u Hcu.reset).ctl
    Out.state (execHcuClear p u (putWord old (2 ^ 64 - 1) v m) s) s
  else s

/-- A write of a function's window (R484). -/
def State.writeWin (s : State) (f off v m : Nat) : State :=
  if off < 0x100 then s.writeInval f off v m
  else if off = 0x2C0 then s.updFunc f fun u => { u with meterSel := putBits u.meterSel 0xFFF v m }
  else if off = 0x2D8 then s.updShadow f .context fun h => { h with torn := w1c h.torn v m 16 }
  else if off < 0x400 then s
  else if off < 0x800 then s.writeQueue f ((off - 0x400) / 0x40) (off % 0x40 / 8) v m
  else if 0x900 ≤ off ∧ off < 0x940 then s.writeXl f ((off - 0x900) / 8) v m
  else if off = 0x940 then s.updFunc f fun u => { u with ctxSel := putBits u.ctxSel 0xFFF v m }
  else if off = 0x948 then (if bitOf m 0 then s.writeCtxOp f (BitVec.ofNat 64 (v &&& m)) else s)
  else if 0xA00 ≤ off ∧ off < 0xB00 then
    let w := (off - 0xA00) / 8
    let old := if w = 9 then 0 else s.descShown (s.selected f) w
    Out.state (execDescriptorWrite f w (BitVec.ofNat 64 (putBits old (2 ^ 64 - 1) v m)) s) s
  else if 0x1000 ≤ off ∧ off < 0x1200 then s.writeView f (off - 0x1000) v m
  else if 0x2000 ≤ off ∧ off < 0x2140 then s.writeMsix f ((off - 0x2000) / 8) v m
  else if 0x4000 ≤ off ∧ off < 0xE000 then s.writeProf f (off - 0x4000) v m
  else if f = 128 ∧ 0xE000 ≤ off ∧ off < 0x13000 then s.writeHcu ((off - 0xE000) / 0x200) ((off - 0xE000) / 0x80 % 4) (off % 0x80) v m
  else s

/-! ## The physical function's BAR0 (R483) -/

/-- PRQ_CTL or RSQ_CTL (R49): SIZE keeps while EN = 1. -/
def putRing (ctl : DWord) (v m : Nat) : DWord := putWord ctl (if bitOf ctl.toNat 0 then 0x101 else 0x11F) v m

/-- A translation block (R23, R49). -/
def State.writeTrans (s : State) (f i v m : Nat) : State :=
  let all := 2 ^ 64 - 1
  match i with
  | 0 => s.updFunc f fun u => if bitOf u.prqCtl.toNat 0 then u else { u with prqBase := putWord u.prqBase (bitsFrom 63 12) v m }
  -- ring room lets stalled lanes raise their requests (R50)
  | 1 => (s.updFunc f fun u => { u with prqCtl := putRing u.prqCtl v m }).wakeStalled
  | 2 => (s.updFunc f fun u => { u with prqHead := putBits u.prqHead all v m }).wakeStalled
  | 4 => s.updFunc f fun u => if bitOf u.rsqCtl.toNat 0 then u else { u with rsqBase := putWord u.rsqBase (bitsFrom 63 12) v m }
  | 5 => s.updFunc f fun u => { u with rsqCtl := putRing u.rsqCtl v m }
  | 7 => s.updFunc f fun u => { u with rsqTail := putBits u.rsqTail all v m }
  | 8 => s.updFunc f fun u =>
    let seen := w1c u.badrspSeen v m 2
    { u with badrspSeen := seen, badrsp := if bitOf v 2 && bitOf m 2 then 0 else u.badrsp, fullSeen := w1c u.fullSeen v m 1 }
  | 9 => s.updFunc f fun u => { u with s2ctl := putWord u.s2ctl (bitsFrom 51 16 + 1) v m }
  | _ => s

/-- VF_SCOPE_POL (R151): with no resident context the counts take the value written (R431). -/
def State.writeScope (s : State) (f v m : Nat) : State :=
  let s := s.updFunc f fun u =>
    { u with capTnt := if bitOf m 0 then bitOf v 0 else u.capTnt, trapOnDemote := if bitOf m 2 then bitOf v 2 else u.trapOnDemote }
  if s.ctxs.any fun c => fnOf c.1 == f && c.2.st == 2 then s.updFunc f fun u => { u with scopeDemoted := w1c u.scopeDemoted v m 1 }
  else Out.state (execMeterMigrationWrite f 0x188 (BitVec.ofNat 64 (putBits (s.func f).scopePol (2 ^ 64 - 1) v m)) s) s

/-- XC_BASE (R504, R506). -/
def State.writeXcBase (s : State) (f v m : Nat) : State :=
  let u := s.func f
  let w := putBits u.xcBase.toNat (if u.xcOn then 1 else bitsFrom 51 18 + 1) v m
  if bitOf v 0 && bitOf m 0 then Out.state (execXcBaseEnable f (BitVec.ofNat 64 w) s) s
  else s.updFunc f fun u => { u with xcBase := BitVec.ofNat 64 w }

/-- CTX_TBL (R486): BASE keeps while EN = 1, and EN stays while a context is not Free. -/
def State.writeCtxTbl (s : State) (f v m : Nat) : State :=
  let u := s.func f
  let held := s.ctxs.any fun c => fnOf c.1 == f && c.2.st != 0
  let w := putBits u.ctxTbl.toNat (if u.tblOn then 1 else bitsFrom 51 16 + 1) v m
  s.updFunc f fun u => { u with ctxTbl := BitVec.ofNat 64 (if u.tblOn && held then w ||| 1 else w) }

/-- CTX_CMD (R462): the context it names, then the operation. -/
def State.writeCtxCmd (s : State) (f v : Nat) : State :=
  let s := s.updFunc f fun u => { u with cmdCtx := v % 4096 }
  match bitsOf v 16 2 with
  | 1 => Out.state (execCtxPreempt f (v % 4096) s) s
  | 2 => Out.state (execCtxCmdEnd f (v % 4096) s) s
  | _ => s

/-- The meter block of a function's memory block (R431): LO, HI and WRAPS without a resident context, TORN always. -/
def State.writeMeter (s : State) (f o v m : Nat) : State :=
  if o = 0 then
    let s := if m % 2 ^ 32 = 0 then s else Out.state (execMeterMigrationWrite f 0x280 (BitVec.ofNat 64 v) s) s
    if m / 2 ^ 32 = 0 then s else Out.state (execMeterMigrationWrite f 0x284 (BitVec.ofNat 64 (v / 2 ^ 32)) s) s
  else
    let s := s.updShadow 128 (.function f) fun h => { h with torn := w1c h.torn v m 16 }
    if bitOf m 0 then Out.state (execMeterMigrationWrite f 0x288 (BitVec.ofNat 64 v) s) s else s

/-- A function's memory block (R483). -/
def State.writeMem (s : State) (f off v m : Nat) : State :=
  if off = 0x100 then s.updFunc f fun u => { u with l2Ways := BitVec.ofNat 32 (putBits u.l2Ways.toNat (2 ^ 32 - 1) v m) }
  else if off = 0x180 then s.updFunc f fun u => { u with fabDomain := putWord u.fabDomain (2 ^ 63 + 0xFFF) v m }
  else if off = 0x188 then s.writeScope f v m
  else if off = 0x190 then s.updFunc f fun u => if u.vOn then u else { u with vstoreBase := putWord u.vstoreBase (bitsFrom 51 18 + 1) v m }
  else if off = 0x198 then s.updFunc f fun u => if u.vOn then u else { u with vstoreGeom := putWord u.vstoreGeom (bitsFrom 63 16) v m }
  else if off = 0x1A0 then
    s.updFunc f fun u => { u with tagFull := w1c u.tagFull v m 2, poolFull := w1c u.poolFull v m 1, recFull := w1c u.recFull v m 0 }
  else if off = 0x1C0 then s.updFunc f fun u => { u with parts := putBits u.parts (2 ^ 40 - 1) v m }
  else if off = 0x1C8 then s.updFunc f fun u => { u with share := putBits u.share 0xFF v m }
  else if off = 0x1D0 then s.writeXcBase f v m
  else if off = 0x1D8 then s.updFunc f fun u => if u.xcOn then u else { u with xcPages := putBits u.xcPages 0xFFFF v m }
  else if off = 0x1E0 then s.writeCtxTbl f v m
  else if off = 0x280 then s.writeMeter f 0 v m
  else if off = 0x288 then s.writeMeter f 8 v m
  else if off = 0x290 then s.updFunc f fun u => { u with vfPeriod := putBits u.vfPeriod 0xFFFF v m }
  else if off = 0x298 then s.updFunc f fun u => { u with rateCap := putBits u.rateCap (2 ^ 32 - 1) v m }
  else if off = 0x2A0 then Out.state (execVfOpmaxWrite f (BitVec.ofNat 64 (putBits (s.memBlock f 0x2A0) 0xF0F v m)) s) s
  else if off = 0x500 then (if bitOf m 0 then s.writeCtxCmd f (v &&& m) else s)
  else if off = 0x508 then s.updFunc f fun u => { u with saveFault := w1c u.saveFault v m 3 }
  else s

/-- The energy area (R432, R443, R446). -/
def State.writeEnergy (s : State) (off v m : Nat) : State :=
  if off = 0x300 then (if m % 1024 ≠ 0 then Out.state (execCorrCtl (BitVec.ofNat 64 (putBits s.power.windowMs 0x3FF v m)) s) s else s)
  else if off = 0x450 then Out.state (execPwrAlarmWrite (BitVec.ofNat 64 (v &&& m)) s) s
  else if off = 0x460 then { s with power := { s.power with capCtl := putWord s.power.capCtl 0x800FFFFFFFF00FFF v m } }.noteBelow
  else if off = 0x468 then { s with power := { s.power with stepCtl := putWord s.power.stepCtl 0x8000FFFF0FFFFFFF v m } }
  else s

/-- FAB_PORT_STAT (R122): clearing AUTHDOWN clears AUTHFAIL. -/
def PortSt.clearDown (t : PortSt) (v m : Nat) : PortSt :=
  if bitOf v 8 && bitOf m 8 then { t with authDown := false, authFail := 0 } else t

/-- The fabric region (R106, R121, R122). -/
def State.writeFabric (s : State) (off v m : Nat) : State :=
  if off = 0 then { s with fabCtl := putWord s.fabCtl 0xFFFF0FFF v m }
  else if 0x200 ≤ off ∧ off < 0x280 then
    let p := (off - 0x200) / 8
    { s with portSt := s.portSt.set p ((s.portSt.getD p PortSt.reset).clearDown v m) }
  else if 0x400 ≤ off ∧ off < 0x500 then
    let i := (off - 0x400) / 16
    let e := s.exports.getD i (0, 0)
    let e' : DWord × DWord := if off % 16 = 0 then (putWord e.1 (bitsFrom 63 18 + 3) v m, e.2) else (e.1, putWord e.2 (bitsFrom 51 18) v m)
    { s with exports := s.exports.set i e' }
  else s

/-- SLICE_STAT (R94): clearing FILTER_FULL clears FWAITS. -/
def Slice.clearStat (k : Slice) (v m : Nat) : Slice :=
  { k with fwaits := if bitOf v 2 && bitOf m 2 then 0 else k.fwaits, filterFull := w1c k.filterFull v m 2
           missFull := w1c k.missFull v m 1, poison := w1c k.poison v m 0 }

/-- The memory-system region (R94, R98): packets are compared with a new ESC_WAIT from the next cycle on. -/
def State.writeMemSys (s : State) (off v m : Nat) : State :=
  if off < 0x20 then
    let t := s.torus.getD (off / 8) (0x20, 0)
    { s with escNew := s.escNew.set (off / 8) (putBits (s.escNew.getD (off / 8) t.1) 0xFF v m) }
  else if 0x100 ≤ off ∧ off < 0x300 then s.updSlice ((off - 0x100) / 8) fun k => k.clearStat v m
  else s

/-- SCHED_CTL (R421). -/
def State.writeSched (s : State) (v m : Nat) : State :=
  let w := putBits (s.quantum * 2 ^ 48 + s.perUs) (bitsFrom 63 48 + 0xFF) v m
  { s with quantum := w / 2 ^ 48, perUs := w % 256 }

/-- The host's commands (R496, R499), by opcode. -/
def State.writeMbxCmd (s : State) (cmd : BitVec 64) : State :=
  let body := (List.range (mbxLen cmd)).map fun i => s.mgmt.mbxBuf.getD i 0
  let o :=
    if mbxBad cmd then execBadCmd .host cmd body s
    else match mbxOp cmd with
      | 0x01 => execMbxStatus .host cmd body s
      | 0x02 => execSignedMeterReading .host cmd body s
      | 0x03 => execSpdmMessage .host cmd body s
      | 0x10 => execStageImage .host cmd body s
      | 0x11 => execActivateSlot .host cmd body s
      | 0x12 => execWriteConfigurationRecord .host cmd body s
      | 0x13 => execReadConfigurationRecord .host cmd body s
      | _ => execMbxWarmReset .host cmd body s
  Out.state o s

/-- CTRL_SEM written through the host port (R497): the operation, and TMO by the owner. -/
def State.writeSem (s : State) (v m : Nat) : State :=
  let s := if s.mgmt.owner = 1 then s.updMgmt fun g => { g with tmo := putBits (g.tmo * 2 ^ 16) (bitsFrom 31 16) v m / 2 ^ 16 } else s
  let o := match bitsOf (v &&& m) 4 4 with
    | 1 => execSemAcquire .host s
    | 2 => execSemRelease .host s
    | 3 => execSemRenew .host s
    | _ => .next s
  Out.state o s

/-- Bytes of MBX_BUF (R496). -/
def Mgmt.putBuf (g : Mgmt) (off v m : Nat) : Mgmt :=
  { g with mbxBuf := (List.range 8).foldl (fun (b : FMap Byte) i =>
      if bitOf m (8 * i) then b.set (off + i) (BitVec.ofNat 8 (v / 2 ^ (8 * i))) else b) g.mbxBuf }

/-- MBX_CMD's writable bits (R496): all but the reserved 15:8. -/
def mbxCmdBits : Nat := bitsFrom 63 16 + 0xFF

/-- The control port (R496). -/
def State.writeControl (s : State) (off v m : Nat) : State :=
  if off = 0 then
    -- the reserved byte is judged with the command (R499) and never held
    if bitOf m 0 then s.writeMbxCmd (putWord s.mgmt.mbxCmd (bitsFrom 63 0) v m)
    else s.updMgmt fun g => { g with mbxCmd := putWord g.mbxCmd mbxCmdBits v m }
  else if off = 0x10 then s.writeSem v m
  else if 0x1000 ≤ off ∧ off < 0x2000 then s.updMgmt fun g => g.putBuf (off - 0x1000) v m
  else s

/-- A PC comparator's word (R470). -/
def Cluster.writePcc (k : Cluster) (i v m : Nat) : Cluster :=
  let b := k.pcc.getD (i / 2) pccReset
  let b' : DWord × DWord :=
    if i % 2 = 0 then (putWord b.1 (bitsFrom 63 2) v m, b.2)
    else
      let w := putBits b.2.toNat (bitsFrom 63 24 + 1) v m
      (b.1, BitVec.ofNat 64 (if bitOf v 1 && bitOf m 1 then w &&& (2 ^ 64 - 3) else w))
  { k with pcc := k.pcc.set (i / 2) b' }

/-- A cluster block (R62, R456, R457, R467, R470). -/
def State.writeCluster (s : State) (c off v m : Nat) : State :=
  if off = 0 then Out.state (execBankmodeReq 128 c (putWord (s.cluster c).bankReq (2 ^ 64 - 1) v m) s) s
  else if 0x800 ≤ off ∧ off < 0xA00 then
    (if bitOf m 1 then Out.state (execGangCtl c ((off - 0x800) / 8) (BitVec.ofNat 64 (v &&& m)) s) s else s)
  else if off = 0xC00 then
    s.updCluster c fun k => { k with dbgSel := putWord k.dbgSel (bitsFrom 63 50 + bitsFrom 16 0) v m }
  else if off = 0xC08 then Out.state (execDbgDataWrite c (putWord (s.cluster c).dbgData (2 ^ 64 - 1) v m) s) s
  else if off = 0xC10 then s.updCluster c fun k => { k with dbgStat := k.dbgStat &&& (7 - (v &&& m) % 8) }
  else if 0xD00 ≤ off ∧ off < 0xE00 then s.writeLbp c ((off - 0xD00) / 8) 128 v m
  else if 0xE00 ≤ off ∧ off < 0xE80 then s.updCluster c fun k => k.writePcc ((off - 0xE00) / 8) v m
  else s

/-- A write of BAR0. -/
def State.writeBar (s : State) (off v m : Nat) : State :=
  let f := off / 0x1000 % 0x100
  let r := off % 0x1000
  if off < 0x20000 then s.writeWin 128 off v m
  else if 0x200000 ≤ off ∧ off < 0x280000 then s.writeTrans f (r / 8) v m
  else if 0x300000 ≤ off ∧ off < 0x381000 then s.writeMem f r v m
  else if 0x400000 ≤ off ∧ off < 0x410000 then s.writeEnergy (off - 0x400000) v m
  else if 0x420000 ≤ off ∧ off < 0x420290 then
    match meterAt 128 off with
    | some (n, 8) => s.updShadow 128 n fun h => { h with torn := w1c h.torn v m 16 }
    | _ => s
  else if 0x440000 ≤ off ∧ off < 0x441000 then s.writeFabric (off - 0x440000) v m
  else if 0x450000 ≤ off ∧ off < 0x451000 then s.writeMemSys (off - 0x450000) v m
  else if off = 0x460000 then s.writeSched v m
  else if 0x480000 ≤ off ∧ off < 0x484000 then s.writeControl (off - 0x480000) v m
  else if 0x1000000 ≤ off ∧ off < 0x1A00000 then s.writeCluster ((off - 0x1000000) / 0x10000) (off % 0x10000) v m
  else s

/-- A write of `len` bytes at an offset of a window, within one word of eight bytes. -/
def State.regWrite1 (s : State) (win off len v : Nat) : State :=
  let sh := 8 * (off % 8)
  let m := (2 ^ (8 * len) - 1) * 2 ^ sh
  let w := v % 2 ^ (8 * len) * 2 ^ sh
  if s.closed win off then s
  else if win = 128 then s.writeBar (off / 8 * 8) w m
  else s.writeWin win (off / 8 * 8) w m

/-- A write of a window, word by word. -/
def State.regWrite (s : State) (win off len v : Nat) : State :=
  (wordPieces off len).foldl (fun (s : State) q => s.regWrite1 win q.1 q.2 (v / 2 ^ (8 * (q.1 - off)))) s

/-- REGISTER_WRITE (R7): a write of `len` bytes at an offset of a function's window, 128 being the physical function's BAR0. -/
def execRegisterWrite (win off len : Nat) (v : BitVec 64) (s : State) : Out := .next (s.regWrite win off len v.toNat)

/-- The oldest register write of a context is performed. -/
def State.drainReg (s : State) : Option State :=
  match s.regq with
  | [] => none
  | w :: ws => some (({ s with regq := ws }).regWrite w.win w.off w.len w.val)

end Sys2Proof.Machine
end

