-- ==== Sys2Proof/Machine/System.lean ====
section
/-! DEFINITION. The system instructions: major 0x39 (17:R390-R396). -/

namespace Sys2Proof.Machine

/-- An effect that happens once per issue, only with an active lane (R390). -/
def once (c : Ctxt) (s : State) (e : Eff) : Eff := if c.act = [] then .go s [] else e

/-- trap #n (R391): the gang stops behind the instruction with a user trap. -/
def execTrap (f : Fields) (s : State) : Out :=
  issueWith (.trap f) f s fun c s => once c s <| .after s { trapOf clsUser c.act with arg := immU f }

/-- brk #n (R391): the gang stops on the instruction. -/
def execBrk (f : Fields) (s : State) : Out :=
  issueWith (.brk f) f s fun c s => once c s <| .on s { trapOf clsBreakpoint c.act with arg := immU f }

/-- The feature words (R392). -/
def feature (record : List Byte) (n : Nat) : Nat :=
  match n with
  | 0 => 0x5A400003 + (Config.revision record).toNat * 256
  | 1 => 0x00000FFF
  | 2 => 0x00000007
  | 3 => 0xC00A4200
  | 4 => 0x42080808
  | 5 => 0x00004DFF
  | _ => 0

/-- featq (R392). -/
def execFeatq (f : Fields) (s : State) : Out :=
  issueWith (.featq f) f s fun c s => .go (writeRegs s c f.vd.toNat 1 fun _ => feature s.mgmt.record (immU f)) []

/-- clock (R393): one stamp per issue for k = 2. -/
def execClock (f : Fields) (s : State) : Out :=
  issueWith (.clock f) f s fun c s => once c s <|
    let (v, s) := match immU f with
      | 0 => (s.cycles % 2 ^ 64, s)
      | 1 => (s.timeNs % 2 ^ 64, s)
      | _ => let (t, s) := s.take; (t.toNat, s)
    .go (writeRegs s c f.vd.toNat 2 fun _ => v) []

/-- emtr (R394): the context's meter, wraps and bucket level, or its partition's operating point. -/
def execEmtr (f : Fields) (s : State) : Out :=
  issueWith (.emtr f) f s fun c s =>
    let x := s.ctx c.g.ctx
    let v := match immU f with
      | 0 => x.meter.pj % 2 ^ 64
      | 1 => x.meter.wraps
      | 2 => code 64 x.level
      | _ => (s.part (partOf c.q.cl)).op % 16
    .go (writeRegs s c f.vd.toNat 2 fun _ => v) []

/-- The grant of a request for point `op` (R395). -/
def grantOf (opmax op : Nat) (alarm : Bool) : Nat :=
  let g := Nat.min op opmax
  if alarm && 13 ≤ g then 12 else g

/-- opreq (R395): bits 3:0 the grant, bit 4 set when it differs from the request. -/
def execOpreq (f : Fields) (s : State) : Out :=
  issueWith (.opreq f) f s fun c s => once c s <|
    let op := immU f
    let g := grantOf (s.func (c.g.ctx / 4096)).opmax op (s.alarm != 0)
    let s := (s.updCtx c.g.ctx fun x => { x with grant := some g }).noteBelow
    .go (writeRegs s c f.vd.toNat 1 fun _ => g + if g = op then 0 else 16) []

/-- prog (R396): progress counter k of the partition. -/
def execProg (f : Fields) (s : State) : Out :=
  issueWith (.prog f) f s fun c s => once c s <|
    let p := partOf c.q.cl
    let pt := s.part p
    let s : State := { s with parts := s.parts.set p { pt with prog := pt.prog.modify (immU f) fun n => (n + 1) % 2 ^ 64 } }
    .go (s.trace p 3 (16 * c.q.cl + c.q.slot / 16) c.q.slot c.g.ctx (immU f) c.q.addr 0 0) []

/-- sleep (R396): the active threads are ineligible for n × 64 cycles. -/
def execSleep (f : Fields) (s : State) : Out :=
  issueWith (.sleep f) f s fun c s =>
    .go (s.updIss c.q (·.updLanes c.act fun _ t =>
      { t with wait := some (.sleep (s.cycles + 64 * immU f)) })) []

end Sys2Proof.Machine
end

