-- ==== Sys2Proof/Machine/Dispatch.lean ====
section
/-! DEFINITION. One arm per constructor of Instr: its meaning. -/

namespace Sys2Proof.Machine

def exec (i : Instr) (s : State) : Host.Outcome State Fault Refusal :=
  match i with
  | .add f => Sys2Proof.Machine.execAdd f s
  | .sub f => Sys2Proof.Machine.execSub f s
  | .addc f => Sys2Proof.Machine.execAddc f s
  | .subc f => Sys2Proof.Machine.execSubc f s
  | .neg f => Sys2Proof.Machine.execNeg f s
  | .abs f => Sys2Proof.Machine.execAbs f s
  | .min f => Sys2Proof.Machine.execMin f s
  | .max f => Sys2Proof.Machine.execMax f s
  | .mul f => Sys2Proof.Machine.execMul f s
  | .mulhi f => Sys2Proof.Machine.execMulhi f s
  | .mulw f => Sys2Proof.Machine.execMulw f s
  | .mad f => Sys2Proof.Machine.execMad f s
  | .madhi f => Sys2Proof.Machine.execMadhi f s
  | .sad f => Sys2Proof.Machine.execSad f s
  | .avg f => Sys2Proof.Machine.execAvg f s
  | .clamp f => Sys2Proof.Machine.execClamp f s
  | .and f => Sys2Proof.Machine.execAnd f s
  | .or f => Sys2Proof.Machine.execOr f s
  | .xor f => Sys2Proof.Machine.execXor f s
  | .andn f => Sys2Proof.Machine.execAndn f s
  | .not f => Sys2Proof.Machine.execNot f s
  | .lop3 f => Sys2Proof.Machine.execLop3 f s
  | .shl f => Sys2Proof.Machine.execShl f s
  | .shr f => Sys2Proof.Machine.execShr f s
  | .sar f => Sys2Proof.Machine.execSar f s
  | .rotl f => Sys2Proof.Machine.execRotl f s
  | .rotr f => Sys2Proof.Machine.execRotr f s
  | .shf f => Sys2Proof.Machine.execShf f s
  | .bfe f => Sys2Proof.Machine.execBfe f s
  | .bfi f => Sys2Proof.Machine.execBfi f s
  | .brev f => Sys2Proof.Machine.execBrev f s
  | .popc f => Sys2Proof.Machine.execPopc f s
  | .clz f => Sys2Proof.Machine.execClz f s
  | .ffs f => Sys2Proof.Machine.execFfs f s
  | .div f => Sys2Proof.Machine.execDiv f s
  | .rem f => Sys2Proof.Machine.execRem f s
  | .ext f => Sys2Proof.Machine.execExt f s
  | .sat f => Sys2Proof.Machine.execSat f s
  | .pack f => Sys2Proof.Machine.execPack f s
  | .unpack f => Sys2Proof.Machine.execUnpack f s
  | .mov f => Sys2Proof.Machine.execMov f s
  | .movl f lit => Sys2Proof.Machine.execMovl f lit s
  | .sel f => Sys2Proof.Machine.execSel f s
  | .sreg f => Sys2Proof.Machine.execSreg f s
  | .lea f => Sys2Proof.Machine.execLea f s
  | .wadd f => Sys2Proof.Machine.execWadd f s
  | .xset f lit => Sys2Proof.Machine.execXset f lit s
  | .xmov f => Sys2Proof.Machine.execXmov f s
  | .xadd f => Sys2Proof.Machine.execXadd f s
  | .xget f => Sys2Proof.Machine.execXget f s
  | .icmp f => Sys2Proof.Machine.execIcmp f s
  | .icmpc f => Sys2Proof.Machine.execIcmpc f s
  | .pand f => Sys2Proof.Machine.execPand f s
  | .por f => Sys2Proof.Machine.execPor f s
  | .pxor f => Sys2Proof.Machine.execPxor f s
  | .pnot f => Sys2Proof.Machine.execPnot f s
  | .pset f => Sys2Proof.Machine.execPset f s
  | .pget f => Sys2Proof.Machine.execPget f s
  | .fadd f => Sys2Proof.Machine.execFadd f s
  | .fsub f => Sys2Proof.Machine.execFsub f s
  | .fmul f => Sys2Proof.Machine.execFmul f s
  | .fma f => Sys2Proof.Machine.execFma f s
  | .fms f => Sys2Proof.Machine.execFms f s
  | .fnma f => Sys2Proof.Machine.execFnma f s
  | .fmin f => Sys2Proof.Machine.execFmin f s
  | .fmax f => Sys2Proof.Machine.execFmax f s
  | .fabs f => Sys2Proof.Machine.execFabs f s
  | .fneg f => Sys2Proof.Machine.execFneg f s
  | .fclamp f => Sys2Proof.Machine.execFclamp f s
  | .fdot2 f => Sys2Proof.Machine.execFdot2 f s
  | .fdot4 f => Sys2Proof.Machine.execFdot4 f s
  | .fcmp f => Sys2Proof.Machine.execFcmp f s
  | .fclass f => Sys2Proof.Machine.execFclass f s
  | .fmode f lit => Sys2Proof.Machine.execFmode f lit s
  | .cvtf f => Sys2Proof.Machine.execCvtf f s
  | .cvtfi f => Sys2Proof.Machine.execCvtfi f s
  | .cvtif f => Sys2Proof.Machine.execCvtif f s
  | .frnd f => Sys2Proof.Machine.execFrnd f s
  | .fpack2 f => Sys2Proof.Machine.execFpack2 f s
  | .funpack2 f => Sys2Proof.Machine.execFunpack2 f s
  | .qscale f => Sys2Proof.Machine.execQscale f s
  | .quant f => Sys2Proof.Machine.execQuant f s
  | .dequant f => Sys2Proof.Machine.execDequant f s
  | .tepack f => Sys2Proof.Machine.execTepack f s
  | .teunpack f => Sys2Proof.Machine.execTeunpack f s
  | .fsr f => Sys2Proof.Machine.execFsr f s
  | .rcp f => Sys2Proof.Machine.execRcp f s
  | .rsqrt f => Sys2Proof.Machine.execRsqrt f s
  | .sqrt f => Sys2Proof.Machine.execSqrt f s
  | .fdiv f => Sys2Proof.Machine.execFdiv f s
  | .exp2 f => Sys2Proof.Machine.execExp2 f s
  | .log2 f => Sys2Proof.Machine.execLog2 f s
  | .sin f => Sys2Proof.Machine.execSin f s
  | .cos f => Sys2Proof.Machine.execCos f s
  | .tanh f => Sys2Proof.Machine.execTanh f s
  | .sigm f => Sys2Proof.Machine.execSigm f s
  | .erf f => Sys2Proof.Machine.execErf f s
  | .jord f => Sys2Proof.Machine.execJord f s
  | .jseed f => Sys2Proof.Machine.execJseed f s
  | .jget f => Sys2Proof.Machine.execJget f s
  | .jput f => Sys2Proof.Machine.execJput f s
  | .jzero f => Sys2Proof.Machine.execJzero f s
  | .jadd f => Sys2Proof.Machine.execJadd f s
  | .jsub f => Sys2Proof.Machine.execJsub f s
  | .jmul f => Sys2Proof.Machine.execJmul f s
  | .jfma f => Sys2Proof.Machine.execJfma f s
  | .jscale f => Sys2Proof.Machine.execJscale f s
  | .jshift f => Sys2Proof.Machine.execJshift f s
  | .jdfac f => Sys2Proof.Machine.execJdfac f s
  | .jflg f => Sys2Proof.Machine.execJflg f s
  | .jdiv f => Sys2Proof.Machine.execJdiv f s
  | .jrcp f => Sys2Proof.Machine.execJrcp f s
  | .jsqrt f => Sys2Proof.Machine.execJsqrt f s
  | .jrsqrt f => Sys2Proof.Machine.execJrsqrt f s
  | .jexp f => Sys2Proof.Machine.execJexp f s
  | .jlog f => Sys2Proof.Machine.execJlog f s
  | .jsin f => Sys2Proof.Machine.execJsin f s
  | .jcos f => Sys2Proof.Machine.execJcos f s
  | .jtanh f => Sys2Proof.Machine.execJtanh f s
  | .ld f => Sys2Proof.Machine.execLd f s
  | .ldv f => Sys2Proof.Machine.execLdv f s
  | .ldview f => Sys2Proof.Machine.execLdview f s
  | .fpop f => Sys2Proof.Machine.execFpop f s
  | .pf f => Sys2Proof.Machine.execPf f s
  | .st f => Sys2Proof.Machine.execSt f s
  | .stv f => Sys2Proof.Machine.execStv f s
  | .stflag f => Sys2Proof.Machine.execStflag f s
  | .fpush f => Sys2Proof.Machine.execFpush f s
  | .stcsg f => Sys2Proof.Machine.execStcsg f s
  | .atom f => Sys2Proof.Machine.execAtom f s
  | .cas f => Sys2Proof.Machine.execCas f s
  | .atomr f => Sys2Proof.Machine.execAtomr f s
  | .atomf f => Sys2Proof.Machine.execAtomf f s
  | .csgOpen f => Sys2Proof.Machine.execCsgOpen f s
  | .csgSeal f => Sys2Proof.Machine.execCsgSeal f s
  | .csgAbort f => Sys2Proof.Machine.execCsgAbort f s
  | .viewOpen f => Sys2Proof.Machine.execViewOpen f s
  | .viewClose f => Sys2Proof.Machine.execViewClose f s
  | .viewStamp f => Sys2Proof.Machine.execViewStamp f s
  | .fence f => Sys2Proof.Machine.execFence f s
  | .fenceSc f => Sys2Proof.Machine.execFenceSc f s
  | .wait f => Sys2Proof.Machine.execWait f s
  | .wb f => Sys2Proof.Machine.execWb f s
  | .inv f => Sys2Proof.Machine.execInv f s
  | .bra f lit => Sys2Proof.Machine.execBra f lit s
  | .brp f lit => Sys2Proof.Machine.execBrp f lit s
  | .brx f => Sys2Proof.Machine.execBrx f s
  | .call f lit => Sys2Proof.Machine.execCall f lit s
  | .callx f => Sys2Proof.Machine.execCallx f s
  | .ret f => Sys2Proof.Machine.execRet f s
  | .switch f lit => Sys2Proof.Machine.execSwitch f lit s
  | .exit f => Sys2Proof.Machine.execExit f s
  | .meet f lit => Sys2Proof.Machine.execMeet f lit s
  | .loop f lit => Sys2Proof.Machine.execLoop f lit s
  | .nop f => Sys2Proof.Machine.execNop f s
  | .yield f => Sys2Proof.Machine.execYield f s
  | .shfl f => Sys2Proof.Machine.execShfl f s
  | .vote f => Sys2Proof.Machine.execVote f s
  | .red f => Sys2Proof.Machine.execRed f s
  | .scan f => Sys2Proof.Machine.execScan f s
  | .matchLanes f => Sys2Proof.Machine.execMatchLanes f s
  | .elect f => Sys2Proof.Machine.execElect f s
  | .tidSet f lit => Sys2Proof.Machine.execTidSet f lit s
  | .tidGet f => Sys2Proof.Machine.execTidGet f s
  | .mxLdb f => Sys2Proof.Machine.execMxLdb f s
  | .mxLda f => Sys2Proof.Machine.execMxLda f s
  | .mxMma f lit => Sys2Proof.Machine.execMxMma f lit s
  | .mxZero f => Sys2Proof.Machine.execMxZero f s
  | .accWin f => Sys2Proof.Machine.execAccWin f s
  | .accPop f => Sys2Proof.Machine.execAccPop f s
  | .accLd f => Sys2Proof.Machine.execAccLd f s
  | .accSt f => Sys2Proof.Machine.execAccSt f s
  | .cpTile f => Sys2Proof.Machine.execCpTile f s
  | .cpLin f => Sys2Proof.Machine.execCpLin f s
  | .cpMcast f => Sys2Proof.Machine.execCpMcast f s
  | .cpWptr f => Sys2Proof.Machine.execCpWptr f s
  | .cpCancel f => Sys2Proof.Machine.execCpCancel f s
  | .chain f => Sys2Proof.Machine.execChain f s
  | .chainStat f => Sys2Proof.Machine.execChainStat f s
  | .barInit f => Sys2Proof.Machine.execBarInit f s
  | .barArrive f => Sys2Proof.Machine.execBarArrive f s
  | .barWait f => Sys2Proof.Machine.execBarWait f s
  | .barExpect f => Sys2Proof.Machine.execBarExpect f s
  | .barTry f => Sys2Proof.Machine.execBarTry f s
  | .gbar f => Sys2Proof.Machine.execGbar f s
  | .gridbar f => Sys2Proof.Machine.execGridbar f s
  | .trap f => Sys2Proof.Machine.execTrap f s
  | .brk f => Sys2Proof.Machine.execBrk f s
  | .featq f => Sys2Proof.Machine.execFeatq f s
  | .clock f => Sys2Proof.Machine.execClock f s
  | .emtr f => Sys2Proof.Machine.execEmtr f s
  | .opreq f => Sys2Proof.Machine.execOpreq f s
  | .prog f => Sys2Proof.Machine.execProg f s
  | .sleep f => Sys2Proof.Machine.execSleep f s
  | .headerPass c slot lane => Sys2Proof.Machine.execHeaderPass c slot lane s
  | .starvationOverride c row => Sys2Proof.Machine.execStarvationOverride c row s
  | .pcOverride c slot => Sys2Proof.Machine.execPcOverride c slot s
  | .yieldExpiry c slot lane => Sys2Proof.Machine.execYieldExpiry c slot lane s
  | .sleepExpiry c slot lane => Sys2Proof.Machine.execSleepExpiry c slot lane s
  | .registerRelease c slot => Sys2Proof.Machine.execRegisterRelease c slot s
  | .blockEnd c blk => Sys2Proof.Machine.execBlockEnd c blk s
  | .walkComplete p e => Sys2Proof.Machine.execWalkComplete p e s
  | .walkRead p e => Sys2Proof.Machine.execWalkRead p e s
  | .adUpdate p e => Sys2Proof.Machine.execAdUpdate p e s
  | .heldRequestWrite f => Sys2Proof.Machine.execHeldRequestWrite f s
  | .retry f => Sys2Proof.Machine.execRetry f s
  | .deliver f => Sys2Proof.Machine.execDeliver f s
  | .abortRsp f => Sys2Proof.Machine.execAbortRsp f s
  | .tlbiNop f cmd => Sys2Proof.Machine.execTlbiNop f cmd s
  | .tlbiRangeCtx f cmd => Sys2Proof.Machine.execTlbiRangeCtx f cmd s
  | .tlbiRangeAll f cmd => Sys2Proof.Machine.execTlbiRangeAll f cmd s
  | .tlbiCtx f cmd => Sys2Proof.Machine.execTlbiCtx f cmd s
  | .tlbiFunction f cmd => Sys2Proof.Machine.execTlbiFunction f cmd s
  | .tlbiStage2Range f cmd => Sys2Proof.Machine.execTlbiStage2Range f cmd s
  | .tlbiFunctionPf f cmd => Sys2Proof.Machine.execTlbiFunctionPf f cmd s
  | .tlbiComplete f => Sys2Proof.Machine.execTlbiComplete f s
  | .bankmodeReq f c v => Sys2Proof.Machine.execBankmodeReq f c v s
  | .bankDrain c b => Sys2Proof.Machine.execBankDrain c b s
  | .copyStep c ch => Sys2Proof.Machine.execCopyStep c ch s
  | .copyCommandBegin c ch => Sys2Proof.Machine.execCopyCommandBegin c ch s
  | .chainCommandBegin c => Sys2Proof.Machine.execChainCommandBegin c s
  | .chainElement c => Sys2Proof.Machine.execChainElement c s
  | .mxCommandBegin c => Sys2Proof.Machine.execMxCommandBegin c s
  | .mxCommandComplete c => Sys2Proof.Machine.execMxCommandComplete c s
  | .queueRowEnter c q => Sys2Proof.Machine.execQueueRowEnter c q s
  | .lineFill slice mr => Sys2Proof.Machine.execLineFill slice mr s
  | .missRegisterGrant slice => Sys2Proof.Machine.execMissRegisterGrant slice s
  | .evictionAccepted slice line => Sys2Proof.Machine.execEvictionAccepted slice line s
  | .evictionPromotion slice line => Sys2Proof.Machine.execEvictionPromotion slice line s
  | .escapeMove die pkt => Sys2Proof.Machine.execEscapeMove die pkt s
  | .promotionRequest slice line => Sys2Proof.Machine.execPromotionRequest slice line s
  | .promotionAck slice line => Sys2Proof.Machine.execPromotionAck slice line s
  | .l1Writeback c line => Sys2Proof.Machine.execL1Writeback c line s
  | .flushingReadComplete c slot lane => Sys2Proof.Machine.execFlushingReadComplete c slot lane s
  | .heartbeatTick => Sys2Proof.Machine.execHeartbeatTick s
  | .fabricCadenceTick => Sys2Proof.Machine.execFabricCadenceTick s
  | .fenceScComplete c slot lane => Sys2Proof.Machine.execFenceScComplete c slot lane s
  | .timeLockChange locked => Sys2Proof.Machine.execTimeLockChange locked s
  | .remoteAck tag stamp => Sys2Proof.Machine.execRemoteAck tag stamp s
  | .remoteResponse tag stamp data => Sys2Proof.Machine.execRemoteResponse tag stamp data s
  | .stflagDepart c slot op => Sys2Proof.Machine.execStflagDepart c slot op s
  | .remoteRequestArrival r => Sys2Proof.Machine.execRemoteRequestArrival r s
  | .refusal tag stamp => Sys2Proof.Machine.execRefusal tag stamp s
  | .requestTimeout tag => Sys2Proof.Machine.execRequestTimeout tag s
  | .invalidation pkg line => Sys2Proof.Machine.execInvalidation pkg line s
  | .exportInvalidationAck line => Sys2Proof.Machine.execExportInvalidationAck line s
  | .recall line data => Sys2Proof.Machine.execRecall line data s
  | .slotTransmit port => Sys2Proof.Machine.execSlotTransmit port s
  | .slotReceive port bytes => Sys2Proof.Machine.execSlotReceive port bytes s
  | .replayTimeout port => Sys2Proof.Machine.execReplayTimeout port s
  | .retrainComplete port => Sys2Proof.Machine.execRetrainComplete port s
  | .retrainTimeout port => Sys2Proof.Machine.execRetrainTimeout port s
  | .keyRotation port switchAt => Sys2Proof.Machine.execKeyRotation port switchAt s
  | .lineHomeStcsg c slot op lane => Sys2Proof.Machine.execLineHomeStcsg c slot op lane s
  | .sealRecord c slot cs => Sys2Proof.Machine.execSealRecord c slot cs s
  | .sealNotice csgid mrec sealT => Sys2Proof.Machine.execSealNotice csgid mrec sealT s
  | .sealNoticeAck f rec pkg stamp => Sys2Proof.Machine.execSealNoticeAck f rec pkg stamp s
  | .restoreTags csgid mrec => Sys2Proof.Machine.execRestoreTags csgid mrec s
  | .abortComplete c slot cs => Sys2Proof.Machine.execAbortComplete c slot cs s
  | .lwmReport dom => Sys2Proof.Machine.execLwmReport dom s
  | .lwmBroadcast dom => Sys2Proof.Machine.execLwmBroadcast dom s
  | .lwmReceive dom lwm stamp => Sys2Proof.Machine.execLwmReceive dom lwm stamp s
  | .tagSweep f entry => Sys2Proof.Machine.execTagSweep f entry s
  | .sqTail f q v => Sys2Proof.Machine.execSqTail f q v s
  | .launch f q => Sys2Proof.Machine.execLaunch f q s
  | .signalEntry f q => Sys2Proof.Machine.execSignalEntry f q s
  | .dependenceRead f q => Sys2Proof.Machine.execDependenceRead f q s
  | .entryComplete f q => Sys2Proof.Machine.execEntryComplete f q s
  | .cqHead f q v => Sys2Proof.Machine.execCqHead f q v s
  | .dispatchSelect => Sys2Proof.Machine.execDispatchSelect s
  | .coopWaitLimit f ctx => Sys2Proof.Machine.execCoopWaitLimit f ctx s
  | .fairnessPreempt => Sys2Proof.Machine.execFairnessPreempt s
  | .slewBatch => Sys2Proof.Machine.execSlewBatch s
  | .clusterAdmit c => Sys2Proof.Machine.execClusterAdmit c s
  | .tick => Sys2Proof.Machine.execTick s
  | .correctionWindow => Sys2Proof.Machine.execCorrectionWindow s
  | .corrCtl v => Sys2Proof.Machine.execCorrCtl v s
  | .sharedUncoreCharge => Sys2Proof.Machine.execSharedUncoreCharge s
  | .vfMeterUpdate f => Sys2Proof.Machine.execVfMeterUpdate f s
  | .meterLoRead win m => Sys2Proof.Machine.execMeterLoRead win m s
  | .meterHiRead win m => Sys2Proof.Machine.execMeterHiRead win m s
  | .meterRead64 win m => Sys2Proof.Machine.execMeterRead64 win m s
  | .meterMigrationWrite f off v => Sys2Proof.Machine.execMeterMigrationWrite f off v s
  | .opTransition p => Sys2Proof.Machine.execOpTransition p s
  | .voltageRampDone p => Sys2Proof.Machine.execVoltageRampDone p s
  | .clockSwitchDone p => Sys2Proof.Machine.execClockSwitchDone p s
  | .powerCheck watts => Sys2Proof.Machine.execPowerCheck watts s
  | .pkgOc => Sys2Proof.Machine.execPkgOc s
  | .partOc p => Sys2Proof.Machine.execPartOc p s
  | .undervolt rail => Sys2Proof.Machine.execUndervolt rail s
  | .overtemp => Sys2Proof.Machine.execOvertemp s
  | .slewAlarm => Sys2Proof.Machine.execSlewAlarm s
  | .alarmActionEnd cause unit => Sys2Proof.Machine.execAlarmActionEnd cause unit s
  | .pwrAlarmWrite v => Sys2Proof.Machine.execPwrAlarmWrite v s
  | .demandSend avgWatts => Sys2Proof.Machine.execDemandSend avgWatts s
  | .demandReceive pkg floor demand stamp seq => Sys2Proof.Machine.execDemandReceive pkg floor demand stamp seq s
  | .grantCompute => Sys2Proof.Machine.execGrantCompute s
  | .grantReceive src seq watts stamp => Sys2Proof.Machine.execGrantReceive src seq watts stamp s
  | .grantLapse => Sys2Proof.Machine.execGrantLapse s
  | .stepStart unit => Sys2Proof.Machine.execStepStart unit s
  | .trapRingRetry c => Sys2Proof.Machine.execTrapRingRetry c s
  | .gangCtl c slot v => Sys2Proof.Machine.execGangCtl c slot v s
  | .dbgDataRead c => Sys2Proof.Machine.execDbgDataRead c s
  | .dbgDataWrite c v => Sys2Proof.Machine.execDbgDataWrite c v s
  | .userHandler c => Sys2Proof.Machine.execUserHandler c s
  | .handlerTimeout c => Sys2Proof.Machine.execHandlerTimeout c s
  | .ctxPreempt f ctx => Sys2Proof.Machine.execCtxPreempt f ctx s
  | .ctxCmdEnd f ctx => Sys2Proof.Machine.execCtxCmdEnd f ctx s
  | .contextSave f ctx => Sys2Proof.Machine.execContextSave f ctx s
  | .contextResume f ctx => Sys2Proof.Machine.execContextResume f ctx s
  | .sessionClaim f p res cmd => Sys2Proof.Machine.execSessionClaim f p res cmd s
  | .sessionRelease f p res cmd => Sys2Proof.Machine.execSessionRelease f p res cmd s
  | .sessionStart f p res cmd => Sys2Proof.Machine.execSessionStart f p res cmd s
  | .sessionStop f p res cmd => Sys2Proof.Machine.execSessionStop f p res cmd s
  | .sessionRestore f p res cmd => Sys2Proof.Machine.execSessionRestore f p res cmd s
  | .sessionClear f p res cmd => Sys2Proof.Machine.execSessionClear f p res cmd s
  | .pcSample c row => Sys2Proof.Machine.execPcSample c row s
  | .trialEnd p => Sys2Proof.Machine.execTrialEnd p s
  | .captureSample p u v => Sys2Proof.Machine.execCaptureSample p u v s
  | .hcuClear p u v => Sys2Proof.Machine.execHcuClear p u v s
  | .ctxCreate f => Sys2Proof.Machine.execCtxCreate f s
  | .ctxDestroy f => Sys2Proof.Machine.execCtxDestroy f s
  | .ctxOpEnd f => Sys2Proof.Machine.execCtxOpEnd f s
  | .descriptorWrite f word v => Sys2Proof.Machine.execDescriptorWrite f word v s
  | .coldReset => Sys2Proof.Machine.execColdReset s
  | .warmReset => Sys2Proof.Machine.execWarmReset s
  | .hotReset => Sys2Proof.Machine.execHotReset s
  | .functionLevelReset f => Sys2Proof.Machine.execFunctionLevelReset f s
  | .boot found => Sys2Proof.Machine.execBoot found s
  | .msixUnmask f vec => Sys2Proof.Machine.execMsixUnmask f vec s
  | .mbxStatus port cmd body => Sys2Proof.Machine.execMbxStatus port cmd body s
  | .signedMeterReading port cmd body => Sys2Proof.Machine.execSignedMeterReading port cmd body s
  | .spdmMessage port cmd body => Sys2Proof.Machine.execSpdmMessage port cmd body s
  | .stageImage port cmd body => Sys2Proof.Machine.execStageImage port cmd body s
  | .activateSlot port cmd body => Sys2Proof.Machine.execActivateSlot port cmd body s
  | .writeConfigurationRecord port cmd body => Sys2Proof.Machine.execWriteConfigurationRecord port cmd body s
  | .readConfigurationRecord port cmd body => Sys2Proof.Machine.execReadConfigurationRecord port cmd body s
  | .mbxWarmReset port cmd body => Sys2Proof.Machine.execMbxWarmReset port cmd body s
  | .semAcquire port => Sys2Proof.Machine.execSemAcquire port s
  | .semRelease port => Sys2Proof.Machine.execSemRelease port s
  | .semRenew port => Sys2Proof.Machine.execSemRenew port s
  | .semTimeout => Sys2Proof.Machine.execSemTimeout s
  | .translatorRequest f v => Sys2Proof.Machine.execTranslatorRequest f v s
  | .translatorDone f => Sys2Proof.Machine.execTranslatorDone f s
  | .hostWrite pa bytes => Sys2Proof.Machine.execHostWrite pa bytes s
  | .registerWrite win off len v => Sys2Proof.Machine.execRegisterWrite win off len v s
  | .illegalInstruction => Sys2Proof.Machine.execIllegalInstruction s
  | .localAccessResponse c slot op data => Sys2Proof.Machine.execLocalAccessResponse c slot op data s
  | .softError place dbl => Sys2Proof.Machine.execSoftError place dbl s
  | .patrolScrubbing slice line => Sys2Proof.Machine.execPatrolScrubbing slice line s
  | .functionLevelResetEnd f => Sys2Proof.Machine.execFunctionLevelResetEnd f s
  | .vfOpmaxWrite f v => Sys2Proof.Machine.execVfOpmaxWrite f v s
  | .tlbiCmdRefused f cmd => Sys2Proof.Machine.execTlbiCmdRefused f cmd s
  | .badCmd port cmd body => Sys2Proof.Machine.execBadCmd port cmd body s
  | .recordRead f rec csgid snap asker => Sys2Proof.Machine.execRecordRead f rec csgid snap asker s
  | .recordReadAnswer line word0 sealT stamp => Sys2Proof.Machine.execRecordReadAnswer line word0 sealT stamp s
  | .sqCtlEnable f q v => Sys2Proof.Machine.execSqCtlEnable f q v s
  | .xcBaseEnable f v => Sys2Proof.Machine.execXcBaseEnable f v s
  | .sessionCmdRefused f p res cmd => Sys2Proof.Machine.execSessionCmdRefused f p res cmd s
  | .ctxOpRefused f v => Sys2Proof.Machine.execCtxOpRefused f v s

end Sys2Proof.Machine
end

