-- ==== Sys2Proof/Machine/Step.lean ====
section
/-! DEFINITION. The step of the package: a register write that a context has made, else the selected issue, else the event that is due, else what the machine does on its
own (log 1, DESIGN CHOICE). -/

namespace Sys2Proof.Machine

/-- One step. -/
def step (s : State) : Host.Outcome State Fault Refusal :=
  match s.drainReg with
  | some s' => .next s'
  | none =>
  match s.sels with
  | q :: _ =>
    match s.select q with
    | .run i s' => exec i s'
    | .halt s' => .next s'
    | .drop => .next s.dropSel
  | [] =>
    match s.due with
    | some (i, s') => if Instr.isEvent i then exec i s' else .fault .notAnEvent
    | none => .next s.advance

/-- The state with an instruction's words in the clause of a gang whose issue is selected (log 2, DESIGN CHOICE): the next step decodes and
runs it. Bits of `w` from `nbits` on count as zero, up to the longest instruction, three words. -/
def State.withFetchWord (s : State) (nbits w : Nat) : State := s.place (wordsOfBytes (toBytes 12 (w % 2 ^ nbits)))

end Sys2Proof.Machine
end

