-- ==== Sys2Proof/Safety.lean ====
section
/-! DEFINITION. What counts as a safe run: states that the package can be in, and steps that end in a state; and what an issue that
is performed leaves alone. -/

namespace Sys2Proof.Machine

/-- The agenda holds events only. -/
def State.eventsOnly (s : State) : Bool := s.inputs.all fun a => Instr.isEvent a.ev

/-- Memory in its canonical form and an agenda of events. -/
def State.Inv (s : State) : Bool := Memory.wf s.mem && s.eventsOnly

/-- A step that ends in a state. -/
def State.steps (s t : State) : Prop := step s = .next t

/-- A step neither faults nor refuses. -/
def State.safe (s : State) : Prop := ∃ t, s.steps t

/-! ## Frames

An issue charges tolls (R243), which move meters, buckets, counters, traces and stamps, and can stop a context for want of energy
(R438); it is itself the pick of its gang (R200). Everything else that an instruction leaves alone is said with these. -/

/-- A thread without its pending wake (R419). -/
def Thread.still (t : Thread) : Thread := { t with wake := false }

/-- A gang without what energy and the front end's timing change in it: pending wakes, the energy stop, the cycle of its last pick, a
trial's delay. -/
def Gang.strip (g : Gang) : Gang := { g with delayed := 0, picked := 0, estop := false, threads := g.threads.map Thread.still }

/-- A context but for its meter and bucket. -/
def Ctx.still (c : Ctx) : Ctx := { c with meter := .zero, level := 0, stopped := false, uncore := 0 }

/-- A function but for its meter. -/
def Func.still (f : Func) : Func := { f with meter := .zero }

/-- A partition but for its meters and what its profiling resources have counted and recorded. -/
def Part.still (p : Part) : Part := { p with meter := .zero, raw := 0, prof := [], sseq := [], trbuf := [] }

/-- A cluster but for its gangs, the user handler's gang and the wake it waits for. -/
def Cluster.still (k : Cluster) : Cluster := { k with gangs := [], handler := none, wakePend := false }

/-- The user handler but for its gang. -/
def Handler.rest (h : Handler) : Nat × TrapRec × FMap Byte × Nat × Option Nat := (h.slot, h.record, h.mem, h.began, h.verdict)

/-- The package but for clusters, partitions, functions and contexts, said apart, and its meters and clock stamp. -/
def State.still (s : State) : State :=
  { s with clusters := [], parts := [], funcs := [], ctxs := [], pkgMeter := .zero, uncoreRaw := 0, uncoreSum := 0, hlc := 0, wakes := [] }

/-- Two states that differ in the gangs of the slots `w` names, in meters and in profiling data alone. -/
structure State.Same (w : Nat → Nat → Prop) (s t : State) : Prop where
  still : t.still = s.still
  clusters : ∀ c, (t.cluster c).still = (s.cluster c).still
  handlers : ∀ c, (t.cluster c).handler.map Handler.rest = (s.cluster c).handler.map Handler.rest
  parts : ∀ p, (t.part p).still = (s.part p).still
  funcs : ∀ f, (t.func f).still = (s.func f).still
  ctxs : ∀ x, (t.ctx x).still = (s.ctx x).still
  gangs : ∀ c k, ¬ w c k → (t.gang? c k).map Gang.strip = (s.gang? c k).map Gang.strip

/-- The slot of an issue. -/
def Issue.owns (q : Issue) (c k : Nat) : Prop := c = q.cl ∧ k = q.gangSlot

/-- What a meaning reads of an issue: the active lanes are those whose guard is true (R243). -/
def ctxtOf (q : Issue) (g : Gang) (f : Fields) : Ctxt := { q, g, f, act := q.lanes.filter fun l => guardTrue f (g.thread l) }

/-- An issue is ready for an instruction: it is in progress, its gang stands there, and the operand judgements pass (R246). -/
structure Ready (i : Instr) (f : Fields) (s : State) (q : Issue) (g : Gang) : Prop where
  cur : s.cur = some q
  gang : s.issGang? q = some g
  judged : judgeOperands (ctxtOf q g f) (shape i) = none

/-- The state with no issue in progress. -/
abbrev State.idle (s : State) : State := { s with cur := none }

/-- `exec i` answers a next state in which the issue is done, the issuing gang is `g` with the PCs moved on (the lanes of `ts`
transfer, the others advance past the instruction), and everything else stands as in `s1` but for meters and profiling data:
memory, caches, scratchpads, accumulators, registers of the package and all other gangs. -/
def PerformsFrom (i : Instr) (s s1 : State) (q : Issue) (g : Gang) (ts : List (Nat × DWord)) : Prop :=
  ∃ t, exec i s = .next t ∧ State.Same q.owns s1 t ∧
    (t.issGang? q).map Gang.strip = some (g.issued q (encode i).length ts).strip

/-- `PerformsFrom` with nothing changed outside the issuing gang. -/
def Performs (i : Instr) (s : State) (q : Issue) (g : Gang) (ts : List (Nat × DWord)) : Prop := PerformsFrom i s s.idle q g ts

/-- The issuing gang with `n` registers from VD on written in the active lanes. -/
def Ctxt.writes (c : Ctxt) (n : Nat) (v : Nat → Nat) : Gang := c.g.updLanes c.act fun l t => t.setRegs c.f.vd.toNat n (v l)

/-- The issuing gang with predicate `p` written in the active lanes; p0 discards the write (R179). -/
def Ctxt.writesPred (c : Ctxt) (p : Nat) (v : Nat → Bool) : Gang := c.g.updLanes c.act fun l t => t.setPred p (v l)

/-- Every instruction of a constructor, on every operand that passes the operand judgements, writes `n` registers of VD in each
active lane and changes nothing else: its value in a lane is `v`. -/
def LaneRegs (i : Fields → Instr) (n : Fields → Nat) (v : Ctxt → Nat → Nat) : Prop :=
  ∀ f s q g, Ready (i f) f s q g → Performs (i f) s q ((ctxtOf q g f).writes (n f) (v (ctxtOf q g f))) []

/-- As `LaneRegs`, for an instruction that writes the predicate `p`. -/
def LanePred (i : Fields → Instr) (p : Fields → Nat) (v : Ctxt → Nat → Bool) : Prop :=
  ∀ f s q g, Ready (i f) f s q g → Performs (i f) s q ((ctxtOf q g f).writesPred (p f) (v (ctxtOf q g f))) []

/-- The integers the typed sources of a lane stand for (R259). -/
def Ctxt.ia (c : Ctxt) (l : Nat) : Int := tyVal (tyOf c.f) (c.a (tyRegs (tyOf c.f)) l)
/-- The second source. -/
def Ctxt.ib (c : Ctxt) (l : Nat) : Int := tyVal (tyOf c.f) (c.b (tyRegs (tyOf c.f)) l)
/-- The third source. -/
def Ctxt.ic (c : Ctxt) (l : Nat) : Int := tyVal (tyOf c.f) (c.c3 (tyRegs (tyOf c.f)) l)
/-- The low w bits of the first source. -/
def Ctxt.ua (c : Ctxt) (l : Nat) : Nat := c.a (tyRegs (tyOf c.f)) l % 2 ^ tyWidth (tyOf c.f)
/-- The low w bits of the second source. -/
def Ctxt.ub (c : Ctxt) (l : Nat) : Nat := c.b (tyRegs (tyOf c.f)) l % 2 ^ tyWidth (tyOf c.f)

/-- An instruction of a type writes the exact integer `v`, wrapped to the type, or saturated where `sat` says so (R259). -/
def IntOp (i : Fields → Instr) (sat : Fields → Bool) (v : Ctxt → Nat → Int) : Prop :=
  LaneRegs i (fun f => tyRegs (tyOf f)) fun c l => tyFit (tyOf c.f) (sat c.f) (v c l)

/-- Never saturated. -/
def wraps (_ : Fields) : Bool := false

/-- The issuing gang after a floating-point effect: results, SEEDs and FPFLAGS (R218). -/
def Ctxt.writesFloat (c : Ctxt) (n : Nat) (r : Nat → LaneRes) : Gang :=
  let g := c.g.updLanes c.act fun l t => { t.setRegs c.f.vd.toNat n (r l).v with seed := BitVec.ofNat 32 (r l).seed }
  { g with fpflags := g.fpflags ||| orLanes c fun l => (r l).fl }

/-- Every instruction of a constructor, when it raises no enabled flag, writes the results `r` and ORs its flags. -/
def LaneFloat (i : Fields → Instr) (n : Fields → Nat) (r : Ctxt → Nat → LaneRes) : Prop :=
  ∀ f s q g, Ready (i f) f s q g → orLanes (ctxtOf q g f) (fun l => (r (ctxtOf q g f) l).fl) &&& fpEnables (ctxtOf q g f).mode = 0 →
    Performs (i f) s q ((ctxtOf q g f).writesFloat (n f) (r (ctxtOf q g f))) []

/-- As `LaneFloat`, for a special function: the unit has served the issuing row for its cycles (R296). -/
def LaneSfu (i : Fields → Instr) (n : Fields → Nat) (r : Ctxt → Nat → LaneRes) : Prop :=
  ∀ f s q g, Ready (i f) f s q g → orLanes (ctxtOf q g f) (fun l => (r (ctxtOf q g f) l).fl) &&& fpEnables (ctxtOf q g f).mode = 0 →
    PerformsFrom (i f) s (sfuServed s.idle q (sfuCycles (ftA f))) q ((ctxtOf q g f).writesFloat (n f) (r (ctxtOf q g f))) []

/-- The issuing gang after a jet effect (R229, R302). -/
def Ctxt.writesJet (c : Ctxt) (r : Nat → JAcc) : Gang :=
  let g := c.writes (jetG c.g.jord) fun l => groupWord c.g.jord (r l).cs
  { g with jflags := g.jflags ||| orLanes c fun l => (r l).fl }

/-- Every jet instruction of a constructor, when its groups pass R299 and it raises no enabled flag, writes the group `r`. Of the gang's
order it makes `p` roundings and has `sf` special functions evaluated (R303), for whose cycles the row's unit serves it (R304). -/
def LaneJet (i : Fields → Instr) (p sf : Nat → Nat) (r : Ctxt → Nat → JAcc) : Prop :=
  ∀ f s q g, Ready (i f) f s q g → jetBad (ctxtOf q g f) (shape (i f)) = false →
    jEnabled (ctxtOf q g f).mode (orLanes (ctxtOf q g f) fun l => (r (ctxtOf q g f) l).fl) = 0 →
    PerformsFrom (i f) s (jetHold s.idle q (p g.jord) (sf g.jord)) q ((ctxtOf q g f).writesJet (r (ctxtOf q g f))) []

/-! ## Events -/

/-- `exec` answers a next state of which `P` holds. -/
def Goes (i : Instr) (s : State) (P : State → Prop) : Prop := ∃ t, exec i s = .next t ∧ P t

/-- The group of an operation's ready lanes on one line of one package and of one memory type (R30), for context `x`. -/
def Gang.groupOn (g : Gang) (c slot x : Nat) (o : Op) (a : Acc) (k : Option Nat × Nat × Nat) : Group :=
  { cl := c, slot, o, a, x, far := k.1, line := k.2.1, mt := k.2.2
    lanes := ((g.readyLanes o a).filter fun r => r.key == k).map fun r => (r.la, r.pa, r.cg) }

/-- `exec i` performs an operation from `s0` on, when its ready lanes form one group: once the copies that a store to another package makes
stale are dropped (R108) and a consignment store's lanes are counted (R165), its lanes end as `serveGroup` tells (R128), and what leaves the
cluster enters the torus. -/
def Serves (i : Instr) (s s0 : State) (c slot id : Nat) : Prop :=
  ∀ g0 o0 a, s0.gang? c slot = some g0 → g0.op? id = some o0 → accOf o0.instr = some a →
    let s1 := (s0.dropCopies o0 a).countLanes c slot o0 a g0.ctx
    ∀ g o k, s1.gang? c slot = some g → g.op? id = some o → ((g.readyLanes o a).map (·.key)).eraseDups = [k] →
    let G := g.groupOn c slot g0.ctx o a k
    ∀ s2 es, s1.serveGroup G g.ownIds false = (s2, es) →
      exec i s = .next (((if leaves false es then s2.groupPacket G else s2).endLanes c slot a o es).closeOp c slot id)

/-- A request that is answered has gone, and the counter of its store has fallen (R111). -/
def State.dropSent (s : State) (tag : Nat) (r : RemoteSent) : State :=
  let s := { s with remotes := s.remotes.del tag }
  if r.store then s.updGang r.cl r.slot fun g =>
    { g with dests := g.dests.map fun d => if d.1 == r.far then (d.1, d.2.modify r.plane (· - 1)) else d } else s

/-- The lanes of an answered request end; a home beyond the H-die sends its answer over the bridge (R96; log 140). -/
def State.endSent (s : State) (r : RemoteSent) (G : Group) (es : List (Nat × LaneEnd)) : State :=
  let acks := r.store || G.a.kind == .flag || G.a.kind == .csg
  ((s.hostAnswer G.cl (if acks then 1 else 3) (if acks then 2 else 1) (G.mt == 3) G.who).endLanes G.cl G.slot G.a G.o es).closeOp
    G.cl G.slot G.o.id

/-- The same for the request of a unit of a cluster. -/
def State.unitAnswered (s : State) (k : FarAsk) : State :=
  s.hostAnswer k.cl (if k.write then 1 else 3) (if k.write then 2 else 1) false (unitRef k.cl (k.pa / 128))

/-! ## Issues that end otherwise -/

/-- `exec i` ends the issue with the effect `e`: `finishIssue` says what each kind of effect leaves. -/
def Ends (i : Instr) (s : State) (c : Ctxt) (e : Eff) : Prop :=
  exec i s = .next (finishIssue c (encode i).length e s.idle)

/-- `exec i` answers a next state with the same memory in which the gang of `q` is `g`, stopped with TSTOP and HALT, and one trap record
has entered the cluster's ring, or waits for room there, after all earlier ones (R454, R456); `P` holds of it, and it names the gang. -/
def StopsWith (i : Instr) (s : State) (q : Issue) (g : Gang) (P : TrapRec → Prop) : Prop :=
  ∃ t r, exec i s = .next t ∧ t.mem = s.mem ∧
    (t.issGang? q).map Gang.strip = some { g.strip with tstop := true, halt := true } ∧
    (t.cluster q.cl).ring ++ (t.cluster q.cl).held = (s.cluster q.cl).ring ++ (s.cluster q.cl).held ++ [r] ∧
    r.gang = q.slot ∧ r.cluster = q.cl ∧ r.ctxid = g.ctx % 4096 ∧ r.iaddr = q.addr ∧ P r

/-- The command that an instruction hands to an engine, with the number it has there. -/
def Ctxt.cmd (c : Ctxt) (i : Instr) (args : List Nat) (seq : Nat) : Cmd :=
  { slot := c.q.gangSlot, ctx := c.g.ctx, blk := c.g.blk, op := c.g.nextOp, iaddr := c.q.addr, cmdseq := seq, instr := i, args
    fpmode := c.g.fpmode, begun := false, done := 0, entry := [], fault := none, asked := none }

/-- The issuing gang with the operation of an engine's command. -/
def Ctxt.withCmd (c : Ctxt) (i : Instr) (k : Ctr) (dests : List Nat) (seq : Nat) : Gang :=
  c.g.addOp i c.q c.act [k] [] dests [] seq false

/-- A command at the end of a copy channel's queue, with the context's next number (R368). -/
def State.withCopy (s : State) (c : Ctxt) (i : Instr) (args : List Nat) : State :=
  let seq := ((s.cluster c.q.cl).chan c.g.ctx (chanOf c.f)).next
  s.updCluster c.q.cl fun k =>
    { k.updChan c.g.ctx (chanOf c.f) fun r => { r with next := (seq + 1) % 2 ^ 24 } with
      chanq := k.chanq.modify (chanOf c.f) (· ++ [c.cmd i args seq]) }

/-- A command at the end of the matrix queue; the `n` rows from `first` on, which it writes, are busy (R82, R350). -/
def State.withMatrix (s : State) (c : Ctxt) (i : Instr) (args : List Nat) (first n : Nat) : State :=
  s.updCluster c.q.cl fun k =>
    { k with mxq := k.mxq ++ [c.cmd i args k.mxSeq], mxSeq := (k.mxSeq + 1) % 2 ^ 24
             busy := k.busy ++ (List.range n).map fun j => ⟨first + j, c.q.gangSlot, c.g.nextOp⟩ }

/-- The new operation of a memory instruction: one access for each active lane, started (R53, R137). -/
def State.withOp (s : State) (i : Instr) (c : Ctxt) (a : Acc) (va data cmp : Nat → Nat) : State :=
  (s.updIss c.q fun g => g.addOp i c.q c.act (s.classes c a (c.act.map va))
    (c.act.map fun l => ({ lane := l, va := va l, data := data l, cmp := cmp l, st := .fresh } : LaneAcc))
    (if a.regs = 0 then [] else destRegs c.f a.regs) [] 0 (c.act = [])).startOp c.q.cl c.q.gangSlot c.g.nextOp

/-- The access of a load, store or atomic: its data and comparand by lane. -/
def memForms (f : Fields) (c : Ctxt) : List (Instr × Acc × Bool × (Nat → Nat) × (Nat → Nat)) :=
  let zero := fun _ : Nat => 0
  let at' := fun (k : AccKind) ret => atomAcc f k ret
  let flag : Acc := { kind := .flag, bytes := szBytes (szOf f) }
  [(.ld f, memAcc f .load false, true, zero, zero), (.ldv f, memAcc f .load true, true, zero, zero),
   (.st f, memAcc f .store false, true, c.stData (memAcc f .store false), zero),
   (.stv f, memAcc f .store true, true, c.stData (memAcc f .store true), zero),
   (.stflag f, flag, true, c.stData flag, zero),
   (.atom f, at' .atom true, false, c.b (if (at' .atom true).wide then 2 else 1), zero),
   (.atomr f, at' .atom false, false, c.b (if (at' .atom false).wide then 2 else 1), zero),
   (.atomf f, at' .atomf (auxBit f 7), false, c.b 1, zero),
   (.cas f, at' .cas true, false, c.d (if (at' .cas true).wide then 2 else 1), c.b (if (at' .cas true).wide then 2 else 1))]

/-- The address that a lane's access is made at: a constant load's counts from its block's constants (R16). -/
def Ctxt.accAddr (c : Ctxt) (s : State) (a : Acc) (off : Bool) (l : Nat) : Nat :=
  if a.sp = 2 then (s.constBase c + c.laneAddr a off l) % 2 ^ 64 else c.laneAddr a off l

/-- A memory instruction's access passes the conditions that come before it, from `s` to `s2`: its lanes' addresses (R16, R315), its scope
(R152), earlier acquires (R130), and what a release or an ordered-flag store waits for (R111, R129). -/
def State.passes (s s2 : State) (c : Ctxt) (a : Acc) (off : Bool) : Prop :=
  (∀ l ∈ c.act, s.laneCause c a (c.laneAddr a off l) = 0) ∧
    (s.scopeOf c a.named ≠ a.named → (s.func (fnOf c.g.ctx)).trapOnDemote = false) ∧ c.g.openAcquires c.act = [] ∧
    ∃ s1, (if a.isRel then s.releaseGate c (if a.sp = 1 then 2 else if a.named = 0 then a.sc else s.scopeOf c a.named)
      else if a.kind = .flag then s.flagGate c (c.act.map (c.laneAddr a off)) else (s, none)) = (s1, none) ∧ s2 = s1.demoted c a.named

end Sys2Proof.Machine
end

