-- ==== Sys2Proof/Certificates/Slice0/Obligations.lean ====
section
/-! DEFINITION. The statements for the provers. -/

section Statements

open Sys2Proof Sys2Proof.Machine

/-! ## Integer instructions -/

/-- R262, R259: the sums, differences, products, minima, maxima, clamps and averages of a type: the exact integer, wrapped, or saturated
where SAT says so; `mulw` writes the whole product of two singles. -/
def Obligations.IntegerArithmetic : Prop :=
  IntOp .add satOf (fun c l => c.ia l + c.ib l) ∧ IntOp .sub satOf (fun c l => c.ia l - c.ib l) ∧
  IntOp .neg satOf (fun c l => -c.ia l) ∧ IntOp .abs satOf (fun c l => ((c.ia l).natAbs : Int)) ∧
  IntOp .min wraps (fun c l => min (c.ia l) (c.ib l)) ∧ IntOp .max wraps (fun c l => max (c.ia l) (c.ib l)) ∧
  IntOp .sad wraps (fun c l => ((c.ia l - c.ib l).natAbs : Int) + c.ic l) ∧
  IntOp .avg wraps (fun c l => (c.ia l + c.ib l + 1) / 2) ∧
  IntOp .clamp wraps (fun c l => min (max (c.ia l) (c.ib l)) (c.ic l)) ∧
  IntOp .mul satOf (fun c l => c.ia l * c.ib l) ∧
  IntOp .mulhi wraps (fun c l => c.ia l * c.ib l / (2 ^ tyWidth (tyOf c.f) : Nat)) ∧
  LaneRegs .mulw (fun f => if tyOf f ≤ 1 then 2 else 1)
    (fun c l => code (2 * tyWidth (tyOf c.f)) (tyVal (tyOf c.f) (c.a 1 l) * tyVal (tyOf c.f) (c.b 1 l))) ∧
  IntOp .mad satOf (fun c l => c.ia l * c.ib l + c.ic l) ∧
  IntOp .madhi wraps (fun c l => c.ia l * c.ib l / (2 ^ tyWidth (tyOf c.f) : Nat) + c.ic l)

/-- R269: division rounds toward zero and the remainder has the sign of the dividend; a zero divisor gives all ones and the dividend. -/
def Obligations.IntegerDivision : Prop :=
  IntOp .div wraps (fun c l => if c.ib l = 0 then -1 else (c.ia l).tdiv (c.ib l)) ∧
  IntOp .rem wraps (fun c l => if c.ib l = 0 then c.ia l else c.ia l - c.ib l * (c.ia l).tdiv (c.ib l))

/-- R263: addition and subtraction with a carry: the code of the exact sum or difference of the unsigned operands and the carry-in,
and the carry-out or borrow in the predicate that AUX bits 6:4 name. -/
def Obligations.CarryChains : Prop :=
  ∀ f s q g, let c := ctxtOf q g f
    let ci := fun l => if auxBit f 10 && (g.thread l).pred (auxBits f 7 3) then 1 else 0
    (Ready (.addc f) f s q g →
      Performs (.addc f) s q ((c.writes (tyRegs (tyOf f)) fun l => (c.ua l + c.ub l + ci l) % 2 ^ tyWidth (tyOf f)).updLanes c.act
        fun l t => t.setPred (auxBits f 4 3) (decide (2 ^ tyWidth (tyOf f) ≤ c.ua l + c.ub l + ci l))) []) ∧
    (Ready (.subc f) f s q g →
      Performs (.subc f) s q ((c.writes (tyRegs (tyOf f)) fun l => code (tyWidth (tyOf f)) ((c.ua l : Int) - c.ub l - ci l)).updLanes c.act
        fun l t => t.setPred (auxBits f 4 3) (decide (c.ua l < c.ub l + ci l))) [])

/-- R264-R266: bitwise operations, shifts and rotations. A shift by the width or more leaves no bit of the operand, or sign bits; the funnel shift takes 32 bits of b and a side by side, shifted by min(c, 32). -/
def Obligations.BitOperations : Prop :=
  IntOp .and wraps (fun c l => (c.ua l &&& c.ub l : Nat)) ∧ IntOp .or wraps (fun c l => (c.ua l ||| c.ub l : Nat)) ∧
  IntOp .xor wraps (fun c l => (c.ua l ^^^ c.ub l : Nat)) ∧
  IntOp .andn wraps (fun c l => (c.ua l &&& (2 ^ tyWidth (tyOf c.f) - 1 - c.ub l) : Nat)) ∧
  IntOp .not wraps (fun c l => (2 ^ tyWidth (tyOf c.f) - 1 - c.ua l : Nat)) ∧
  IntOp .shl wraps (fun c l => (c.ua l * 2 ^ c.b 1 l : Nat)) ∧ IntOp .shr wraps (fun c l => (c.ua l / 2 ^ c.b 1 l : Nat)) ∧
  IntOp .sar wraps (fun c l => sgn (tyWidth (tyOf c.f)) (c.ua l) / (2 ^ c.b 1 l : Nat)) ∧
  IntOp .rotl wraps (fun c l => let w := tyWidth (tyOf c.f)
    (c.ua l * 2 ^ (c.b 1 l % w) + c.ua l / 2 ^ (w - c.b 1 l % w) : Nat)) ∧
  IntOp .rotr wraps (fun c l => let w := tyWidth (tyOf c.f)
    (c.ua l / 2 ^ (c.b 1 l % w) + c.ua l * 2 ^ (w - c.b 1 l % w) : Nat)) ∧
  LaneRegs .shf (fun _ => 1) (fun c l => let k := min (c.c3 1 l) 32
    if auxBit c.f 3 then (c.b 1 l * 2 ^ 32 + c.a 1 l) / 2 ^ k % 2 ^ 32 else (c.b 1 l * 2 ^ 32 + c.a 1 l) * 2 ^ k / 2 ^ 32 % 2 ^ 32) ∧
  LaneRegs .lop3 (fun _ => 1) (fun c l => maskOf ((List.range 32).filter fun j =>
    bitOf (if bitOf (c.d 1 l) j then auxBits c.f 4 4 else auxBits c.f 0 4) (2 * b2n (bitOf (c.a 1 l) j) + b2n (bitOf (c.b 1 l) j))))

/-- R264, R267, R268: bit fields, bit reversal and counts. -/
def Obligations.BitFields : Prop :=
  LaneRegs .bfe (fun f => tyRegs (tyOf f)) (fun c l => bfeVal (tyOf c.f) (c.a (tyRegs (tyOf c.f)) l) (c.b 1 l) (c.c3 1 l)) ∧
  LaneRegs .bfi (fun f => tyRegs (tyOf f))
    (fun c l => bfiVal (tyOf c.f) (c.a (tyRegs (tyOf c.f)) l) (c.b 1 l) (c.c3 1 l) (c.d (tyRegs (tyOf c.f)) l)) ∧
  IntOp .brev wraps (fun c l => (maskOf ((List.range (tyWidth (tyOf c.f))).filter fun i =>
    bitOf (c.ua l) (tyWidth (tyOf c.f) - 1 - i)) : Nat)) ∧
  LaneRegs .popc (fun _ => 1) (fun c l => ((List.range (tyWidth (tyOf c.f))).filter (bitOf (c.ua l))).length) ∧
  LaneRegs .clz (fun _ => 1) (fun c l => tyWidth (tyOf c.f) - if c.ua l = 0 then 0 else Nat.log2 (c.ua l) + 1) ∧
  LaneRegs .ffs (fun _ => 1) (fun c l => (((List.range (tyWidth (tyOf c.f))).filter (bitOf (c.ua l))).head?).getD 0xFFFFFFFF)

/-- R268, R270-R273: extensions, clamps, packing, moves, selections, special registers and addresses. -/
def Obligations.MovesAndAddresses : Prop :=
  IntOp .ext wraps (fun c l => if tySigned (tyOf c.f) then sgn (immU c.f) (c.a (tyRegs (tyOf c.f)) l)
    else ((c.a (tyRegs (tyOf c.f)) l % 2 ^ immU c.f : Nat) : Int)) ∧
  IntOp .sat wraps (fun c l => satBits (tyOf c.f) (immU c.f) (c.ia l)) ∧
  LaneRegs .pack (fun _ => 1) (fun c l => packVal (tyOf c.f) (satOf c.f) (c.a 1 l) (c.b 1 l)) ∧
  LaneRegs .unpack (fun _ => 1) (fun c l => unpackVal (tyOf c.f) (b2n (satOf c.f)) (c.a 1 l)) ∧
  LaneRegs .mov (fun f => tyRegs (tyOf f)) (fun c l => c.a (tyRegs (tyOf c.f)) l) ∧
  (∀ lit, LaneRegs (fun f => .movl f lit) (fun f => tyRegs (tyOf f)) (fun _ _ => (lit.signExtend 64).toNat)) ∧
  LaneRegs .sel (fun f => tyRegs (tyOf f)) (fun c l =>
    if (c.g.thread l).pred (auxBits c.f 4 3) = auxBit c.f 3 then c.b (tyRegs (tyOf c.f)) l else c.a (tyRegs (tyOf c.f)) l) ∧
  LaneRegs .lea (fun _ => 2) (fun c l =>
    code 64 (c.a 2 l + (if auxBit c.f 3 then sgn 32 (c.c3 1 l) else c.c3 1 l) * (2 ^ auxBits c.f 0 3 : Nat) + immS c.f)) ∧
  LaneRegs .wadd (fun _ => 2) (fun c l => code 64 (c.a 2 l + tyVal (tyOf c.f) (c.b 1 l))) ∧
  LaneRegs .xget (fun _ => 1) (fun c l => (c.g.thread l).xreg c.f.vs0.toNat) ∧
  (∀ f s q g, Ready (.sreg f) f s q g →
    Performs (.sreg f) s q ((ctxtOf q g f).writes 1 (sregVal s (ctxtOf q g f) (immU f))) [])

/-- R274, R275: index registers are written with bit 16 zero; `xmov` writes the register the window names, when every issuing
lane's window element is in range. -/
def Obligations.IndexRegisters : Prop :=
  ∀ f s q g, let c := ctxtOf q g f
    (∀ lit : BitVec 32, Ready (.xset f lit) f s q g →
      Performs (.xset f lit) s q (g.updLanes c.act fun _ t =>
        { t with xregs := t.xregs.set f.vd.toNat (BitVec.ofNat 32 (setBits lit.toNat 16 1 0)) }) []) ∧
    (Ready (.xadd f) f s q g →
      Performs (.xadd f) s q (g.updLanes c.act fun l t => { t with xregs := t.xregs.set f.vd.toNat (BitVec.ofNat 32
        (setBits (setBits ((g.thread l).xreg f.vd.toNat) 0 16 (code 16 (sgn 16 ((g.thread l).xreg f.vd.toNat) + immS f))) 16 1 0)) }) []) ∧
    (Ready (.xmov f) f s q g → (∀ l ∈ q.lanes, (g.thread l).winOk g.usable (f.vd.toNat % 4) (f.vd.toNat / 4) 1 1 = true) →
      Performs (.xmov f) s q (g.updLanes c.act fun l t =>
        t.setReg ((g.thread l).winReg (f.vd.toNat % 4) (f.vd.toNat / 4) 0) (c.a 1 l)) [])

/-- R276: compares and predicate logic write one predicate in each active lane; `pget` reads all eight. -/
def Obligations.Predicates : Prop :=
  let vd8 := fun f : Fields => f.vd.toNat % 8
  let pa := fun (c : Ctxt) l => (c.g.thread l).pred c.f.vs0.toNat ^^ auxBit c.f 0
  let pb := fun (c : Ctxt) l => (c.g.thread l).pred c.f.vs1.toNat ^^ auxBit c.f 1
  LanePred .icmp vd8 (fun c l => cmpInt (auxBits c.f 4 3) (c.ia l) (c.ib l)) ∧
  LanePred .icmpc vd8 (fun c l => if auxBit c.f 10 then cmpInt (auxBits c.f 4 3) (c.ia l) (c.ib l) || (c.g.thread l).pred (auxBits c.f 7 3)
    else cmpInt (auxBits c.f 4 3) (c.ia l) (c.ib l) && (c.g.thread l).pred (auxBits c.f 7 3)) ∧
  LanePred .pand vd8 (fun c l => pa c l && pb c l) ∧ LanePred .por vd8 (fun c l => pa c l || pb c l) ∧
  LanePred .pxor vd8 (fun c l => pa c l ^^ pb c l) ∧
  LanePred .pnot vd8 (fun c l => !(c.g.thread l).pred c.f.vs0.toNat) ∧
  LanePred .pset vd8 (fun c l => (c.a 1 l).testBit (immU c.f)) ∧
  LaneRegs .pget (fun _ => 1) (fun c l => maskOf ((List.range 8).filter fun p => (c.g.thread l).pred p)) ∧
  (∀ a b : Int, cmpInt 0 a b = decide (a = b) ∧ cmpInt 1 a b = decide (a ≠ b) ∧ cmpInt 2 a b = decide (a < b) ∧
    cmpInt 3 a b = decide (a ≤ b) ∧ cmpInt 4 a b = decide (a > b) ∧ cmpInt 5 a b = decide (a ≥ b))

/-- R259, R208: a result placed in a register reads back as the exact value wrapped to the type, in range of the type; a saturated one
is the nearest value of the type. -/
def Obligations.TypedResults : Prop :=
  ∀ t, t < 8 → ∀ v : Int,
    tyVal t (tyFit t false v) % (2 ^ tyWidth t : Nat) = v % (2 ^ tyWidth t : Nat) ∧
    tyMin t ≤ tyVal t (tyFit t false v) ∧ tyVal t (tyFit t false v) ≤ tyMax t ∧
    tyVal t (tyFit t true v) = max (tyMin t) (min (tyMax t) v) ∧
    tyFit t false v < 2 ^ (32 * tyRegs t)

/-! ## Floating-point, conversion, special-function and jet instructions -/

/-- R280: sums, products, fused multiply-adds and dot products of a floating-point type, element by element: one rounding of the exact
value in the mode of the instruction, SEED unchanged. -/
def Obligations.FloatArithmetic : Prop :=
  (let two := fun (i : Fields → Instr) (op : Fmt → Nat → Nat → FV → FV → FR) =>
    LaneFloat i (fun f => ftRegs (ftA f)) fun c l =>
      let m := fmtOf (ftA c.f)
      noDraw c l (mapElems m (ftElems (ftA c.f)) fun j => op m c.mode (noSr (modeA c))
        (m.read c.mode (elem m (c.a (ftRegs (ftA c.f)) l) j)) (m.read c.mode (elem m (c.b (ftRegs (ftA c.f)) l) j)))
  two .fadd (fun m md rm a b => m.add md rm a b) ∧ two .fsub (fun m md rm a b => m.add md rm a b.negate) ∧
  two .fmul (fun m md rm a b => m.mul md rm a b)) ∧
  (let three := fun (i : Fields → Instr) (op : Fmt → Nat → Nat → FV → FV → FV → FR) =>
    LaneFloat i (fun f => ftRegs (ftB f)) fun c l =>
      let m := fmtOf (ftB c.f)
      let n := ftRegs (ftB c.f)
      noDraw c l (mapElems m (ftElems (ftB c.f)) fun j => op m c.mode (modeB c) (m.read c.mode (elem m (c.a n l) j))
        (m.read c.mode (elem m (c.b n l) j)) (m.read c.mode (elem m (c.c3 n l) j)))
  three .fma (fun m md rm a b d => m.fma md rm a b d) ∧ three .fms (fun m md rm a b d => m.fma md rm a b d.negate) ∧
  three .fnma (fun m md rm a b d => m.fma md rm a.negate b d) ∧
  LaneFloat .fdot2 (fun _ => 1) (fun c l =>
    noDraw c l (dotVal (fmtOf (ftB c.f)) (fmtOf (ftB c.f)) 2 c.mode (modeB c) (c.a 1 l) (c.b 1 l) (c.c3 1 l))) ∧
  LaneFloat .fdot4 (fun _ => 1) (fun c l =>
    noDraw c l (dotVal (dot4Fmts (ftB c.f)).1 (dot4Fmts (ftB c.f)).2 4 c.mode (modeB c) (c.a 1 l) (c.b 1 l) (c.c3 1 l))))

/-- R281: minima, maxima, clamps, and changes of the sign bits alone. -/
def Obligations.FloatSelections : Prop :=
  let one := fun (i : Fields → Instr) (ft : Fields → Nat) (op : Ctxt → Fmt → Nat → (Nat → Nat) → FR) =>
    LaneFloat i (fun f => ftRegs (ft f)) fun c l =>
      let m := fmtOf (ft c.f)
      noDraw c l (mapElems m (ftElems (ft c.f)) fun j => op c m l fun n => elem m n j)
  one .fmin ftA (fun c m l e => m.pick c.mode false (e (c.a (ftRegs (ftA c.f)) l)) (e (c.b (ftRegs (ftA c.f)) l))) ∧
  one .fmax ftA (fun c m l e => m.pick c.mode true (e (c.a (ftRegs (ftA c.f)) l)) (e (c.b (ftRegs (ftA c.f)) l))) ∧
  one .fabs ftA (fun c m l e => ⟨e (c.a (ftRegs (ftA c.f)) l) % 2 ^ (m.fb + m.eb), 0⟩) ∧
  one .fneg ftA (fun c m l e => ⟨(e (c.a (ftRegs (ftA c.f)) l)) ^^^ 2 ^ (m.fb + m.eb), 0⟩) ∧
  one .fclamp ftB (fun c m l e => m.clamp c.mode (e (c.a (ftRegs (ftB c.f)) l)) (e (c.b (ftRegs (ftB c.f)) l))
    (e (c.c3 (ftRegs (ftB c.f)) l)))

/-- R283-R285, R295: compares, classes, the mode word and the SEED. `fmode` gives each active lane the old word and changes FPMODE
or FPFLAGS once, with reserved bits of FPMODE left zero. -/
def Obligations.FloatControl : Prop :=
  (∀ f s q g, Ready (.fcmp f) f s q g → let c := ctxtOf q g f
    let r := fun l => (fmtOf (ftB f)).compare c.mode (auxBits f 4 3) (c.a (ftRegs (ftB f)) l) (c.b (ftRegs (ftB f)) l)
    orLanes c (fun l => (r l).2) &&& fpEnables c.mode = 0 →
    Performs (.fcmp f) s q { c.writesPred f.vd.toNat (fun l => (r l).1) with fpflags := g.fpflags ||| orLanes c fun l => (r l).2 } []) ∧
  LaneRegs .fclass (fun _ => 1) (fun c l => (List.range (ftElems (immU c.f))).foldl (fun a j =>
    a + (fmtOf (immU c.f)).classMask (elem (fmtOf (immU c.f)) (c.a (ftRegs (immU c.f)) l) j) * 2 ^ (16 * j)) 0) ∧
  (∀ f lit s q g, Ready (.fmode f lit) f s q g → let c := ctxtOf q g f
    let g1 := c.writes 1 fun _ => if auxBits f 0 2 ≤ 1 then c.mode else g.fpflags
    Performs (.fmode f lit) s q (if c.act = [] then g else match auxBits f 0 2 with
      | 0 => { g1 with fpmode := BitVec.ofNat 32 (fpmodeFix (c.mode ||| lit.toNat)) }
      | 1 => { g1 with fpmode := BitVec.ofNat 32 (fpmodeFix (c.mode &&& notBits 32 lit.toNat)) }
      | 2 => { g1 with fpflags := g.fpflags &&& notBits 7 lit.toNat }
      | _ => g1) []) ∧
  LaneFloat .fsr (fun _ => 1) (fun c l => ⟨c.seed l, 0, if auxBit c.f 0 then c.seed l else c.a 1 l⟩)

/-- R287-R290: conversions between formats and integers; under stochastic rounding each narrowing conversion steps SEED once. -/
def Obligations.Conversions : Prop :=
  LaneFloat .cvtf (fun f => ftRegs (auxBits f 7 3)) (fun c l =>
    let dt := fmtOf (auxBits c.f 7 3)
    let st := fmtOf (auxBits c.f 4 3)
    let r := withDraw (modeA c) (c.seed l) fun draw =>
      dt.convert c.mode (modeA c) draw (st.read c.mode (elem st (c.a (ftRegs (auxBits c.f 4 3)) l) (bitsOf c.f.vs1.toNat 3 3)))
    ⟨putElem dt (c.d (ftRegs (auxBits c.f 7 3)) l) (bitsOf c.f.vs1.toNat 0 3) r.1.v, r.1.fl, r.2⟩) ∧
  LaneFloat .cvtfi (fun f => tyRegs (auxBits f 4 3)) (fun c l =>
    let st := fmtOf (auxBits c.f 7 3)
    let t := auxBits c.f 4 3
    let r := toInteger (modeA c) (tyMin t) (tyMax t)
      (st.read c.mode (elem st (c.a (ftRegs (auxBits c.f 7 3)) l) (bitsOf c.f.vs1.toNat 3 3)))
    ⟨tyPlace t r.1, r.2, c.seed l⟩) ∧
  LaneFloat .cvtif (fun f => ftRegs (auxBits f 7 3)) (fun c l =>
    let dt := fmtOf (auxBits c.f 7 3)
    let t := auxBits c.f 4 3
    let r := withDraw (modeA c) (c.seed l) fun draw => dt.roundInt c.mode (modeA c) draw false (tyVal t (c.a (tyRegs t) l)) 0
    ⟨putElem dt (c.d (ftRegs (auxBits c.f 7 3)) l) (bitsOf c.f.vs1.toNat 0 3) r.1.v, r.1.fl, r.2⟩) ∧
  LaneFloat .frnd (fun f => ftRegs (ftA f)) (fun c l =>
    noDraw c l (mapElems (fmtOf (ftA c.f)) (ftElems (ftA c.f)) fun j =>
      (fmtOf (ftA c.f)).integral c.mode (modeA c) (elem (fmtOf (ftA c.f)) (c.a (ftRegs (ftA c.f)) l) j))) ∧
  LaneFloat .fpack2 (fun _ => 1) (fun c l =>
    let m := fmtOf (ftA c.f)
    let x := withDraw (modeA c) (c.seed l) fun d => m.convert c.mode (modeA c) d ((fmtOf 0).read c.mode (c.a 1 l))
    let y := withDraw (modeA c) x.2 fun d => m.convert c.mode (modeA c) d ((fmtOf 0).read c.mode (c.b 1 l))
    ⟨x.1.v + 2 ^ 16 * y.1.v, x.1.fl ||| y.1.fl, y.2⟩) ∧
  LaneFloat .funpack2 (fun _ => 2) (fun c l => noDraw c l (mapElems (fmtOf 0) 2 fun j =>
    (fmtOf 0).convert c.mode 0 0 ((fmtOf (ftA c.f)).read c.mode (elem (fmtOf (ftA c.f)) (c.a 1 l) j))))

/-- R291-R294: quantisation. The tiered blocks are packed and unpacked when both groups lie below U. -/
def Obligations.Quantisation : Prop :=
  LaneFloat .qscale (fun _ => 1) (fun c l => noDraw c l (qscale c.mode (qEmax (auxBits c.f 0 2)) (c.a 1 l))) ∧
  LaneFloat .quant (fun _ => 1) (fun c l =>
    let dt := fmtOf (auxBits c.f 5 3)
    let r := withDraw (modeA c) (c.seed l) fun d =>
      dt.div c.mode (modeA c) d ((fmtOf 0).read c.mode (c.a 1 l)) ((fmtOf 0).read c.mode (c.b 1 l))
    ⟨putElem dt (c.d 1 l) (auxBits c.f 8 3) r.1.v, r.1.fl, r.2⟩) ∧
  LaneFloat .dequant (fun _ => 1) (fun c l =>
    noDraw c l (dequantVal c.mode (auxBits c.f 3 3) (elem (fmtOf (auxBits c.f 3 3)) (c.a 1 l) (auxBits c.f 0 3)) (c.b 1 l % 256))) ∧
  (∀ f s q g, let c := ctxtOf q g f
    let tb := auxBits f 4 2
    let pk := fun l : Nat =>
      let vs := (List.range 16).map fun j => (fmtOf 0).read c.mode (bitsOf (c.a 16 l) (32 * j) 32)
      let ds := if modeA c = 4 then seedDraws 16 (c.seed l) else ([], c.seed l)
      let b := tePack tb (modeA c) vs ds.1
      (⟨b.1, b.2, ds.2⟩ : LaneRes)
    let un := fun l : Nat =>
      noDraw c l (mapElems (fmtOf 0) 16 fun j => (fmtOf 0).convert c.mode 0 0 (teElem tb (c.a (teRegs tb) l) j))
    (Ready (.tepack f) f s q g → teBad c (teRegs tb) 16 = false → orLanes c (fun l => (pk l).fl) &&& fpEnables c.mode = 0 →
      Performs (.tepack f) s q (c.writesFloat (teRegs tb) pk) []) ∧
    (Ready (.teunpack f) f s q g → teBad c 16 (teRegs tb) = false → orLanes c (fun l => (un l).fl) &&& fpEnables c.mode = 0 →
      Performs (.teunpack f) s q (c.writesFloat 16 un) []))

/-- R296, R297: the special functions, element by element. Results that are not correctly rounded lie within the table's bound and
are otherwise free (log 7, DESIGN CHOICE). -/
def Obligations.SpecialFunctions : Prop :=
  let one := fun (i : Fields → Instr) (op : Ctxt → Fmt → Nat → FR) =>
    LaneSfu i (fun _ => 1) fun c l =>
      let m := fmtOf (ftA c.f)
      noDraw c l (mapElems m (ftElems (ftA c.f)) fun j => op c m (elem m (c.a 1 l) j))
  one .rcp (fun c m n => m.div c.mode (noSr (modeA c)) 0 (.fin false 1 0) (m.read c.mode n)) ∧
  one .rsqrt (fun c m n => m.rsqrtFn c.mode n) ∧ one .sqrt (fun c m n => m.sqrt c.mode (noSr (modeA c)) (m.read c.mode n)) ∧
  LaneSfu .fdiv (fun _ => 1) (fun c l => noDraw c l (mapElems (fmtOf (ftA c.f)) (ftElems (ftA c.f)) fun j =>
    (fmtOf (ftA c.f)).div c.mode (noSr (modeA c)) 0 ((fmtOf (ftA c.f)).read c.mode (elem (fmtOf (ftA c.f)) (c.a 1 l) j))
      ((fmtOf (ftA c.f)).read c.mode (elem (fmtOf (ftA c.f)) (c.b 1 l) j)))) ∧
  one .exp2 (fun c m n => m.expFn c.mode (noSr (modeA c)) false (ulpBound (ftA c.f) 2) n) ∧
  one .log2 (fun c m n => m.logFn c.mode false (ulpBound (ftA c.f) 2) n) ∧
  one .sin (fun c m n => m.trigFn c.mode false (ulpBound (ftA c.f) 2) n) ∧
  one .cos (fun c m n => m.trigFn c.mode true (ulpBound (ftA c.f) 2) n) ∧
  one .tanh (fun c m n => m.oddFn c.mode false (ulpBound (ftA c.f) 2) n) ∧
  one .sigm (fun c m n => m.sigmFn c.mode (ulpBound (ftA c.f) 2) n) ∧
  one .erf (fun c m n => m.oddFn c.mode true (ulpBound (ftA c.f) 2) n)

/-- R218, R223: a floating-point sum that raises an enabled flag is performed and then stops its gang with an arithmetic-exception
trap whose ARG holds the flags raised. -/
def Obligations.EnabledFlagTraps : Prop :=
  ∀ f s q g, Ready (.fadd f) f s q g → q.scalar = false → q.slot ≠ handlerSlot → let c := ctxtOf q g f
    let r := fun l => noDraw c l (mapElems (fmtOf (ftA f)) (ftElems (ftA f)) fun j =>
      (fmtOf (ftA f)).add c.mode (noSr (modeA c)) ((fmtOf (ftA f)).read c.mode (elem (fmtOf (ftA f)) (c.a (ftRegs (ftA f)) l) j))
        ((fmtOf (ftA f)).read c.mode (elem (fmtOf (ftA f)) (c.b (ftRegs (ftA f)) l) j)))
    orLanes c (fun l => (r l).fl) &&& fpEnables c.mode ≠ 0 →
    ∃ t, exec (.fadd f) s = .next t ∧
      (t.issGang? q).map Gang.strip =
        some { ((c.writesFloat (ftRegs (ftA f)) r).issued q (encode (.fadd f)).length []).strip with tstop := true, halt := true } ∧
      ∃ rec : TrapRec, (t.cluster q.cl).ring ++ (t.cluster q.cl).held = (s.cluster q.cl).ring ++ (s.cluster q.cl).held ++ [rec] ∧
        rec.cls = clsArith ∧ rec.arg = orLanes c (fun l => (r l).fl) ∧ rec.iaddr = q.addr ∧ rec.actmask = maskOf c.act ∧
        rec.gang = q.slot ∧ rec.cluster = q.cl

/-- R303, R305-R308: jet instructions that move bits, and the jet state of the gang; first, what a group's registers hold: coefficient i
in register i, and zero above the order. -/
def Obligations.JetMoves : Prop :=
  (∀ k cs i, k ≤ 7 → (∀ x ∈ cs, x < 2 ^ 32) → bitsOf (groupWord k cs) (32 * i) 32 = if i ≤ k then co cs i else 0) ∧
  ∀ f s q g, let c := ctxtOf q g f
    let k := g.jord
    let moves := fun (i : Instr) (cs : Nat → List Nat) => Ready i f s q g → jetBad c (shape i) = false →
      Performs i s q (c.writes (jetG k) fun l => groupWord k (cs l)) []
    moves (.jseed f) (fun l => [c.a 1 l, if auxBit f 0 then codeOne else c.b 1 l]) ∧
    (immU f ≤ k → moves (.jput f) (fun l => (group c .ident f.vd l).set (immU f) (c.a 1 l))) ∧
    moves (.jzero f) (fun _ => []) ∧
    moves (.jshift f) (fun l => (List.range (k + 1)).map fun n : Nat =>
      if 0 ≤ (n : Int) + immS f ∧ (n : Int) + immS f ≤ k then co (group c f.perm0 f.vs0 l) ((n : Int) + immS f).toNat else 0) ∧
    (Ready (.jget f) f s q g → jetBad c (shape (.jget f)) = false →
      Performs (.jget f) s q (c.writes 1 fun l => if immU f ≤ k then co (group c f.perm0 f.vs0 l) (immU f) else 0) []) ∧
    (Ready (.jord f) f s q g → Performs (.jord f) s q (if c.act = [] then g else { g with jord := immU f }) []) ∧
    (Ready (.jflg f) f s q g →
      Performs (.jflg f) s q (let g1 := c.writes 2 fun _ => g.jflags
        if c.act = [] ∨ auxBit f 0 = false then g1 else { g1 with jflags := g.jflags &&& notBits 40 (c.a 2 c.low) }) [])

/-- R230, R303, R304, R307-R310: jet arithmetic, coefficient by coefficient, and the jet functions: the head by its special function, the
other coefficients by the recurrence of the function; with the roundings of each, for which the row's unit serves it. Heads that are not correctly rounded are free within their bound (log 7, DESIGN CHOICE). -/
def Obligations.JetArithmetic : Prop :=
  (let k := fun c : Ctxt => c.g.jord
  let z := fun _ : Nat => 0
  let each := fun n : Nat => n + 1
  let cauchy := fun n : Nat => (n + 1) * (n + 2) / 2
  LaneJet .jadd each z (fun c l => jetMap (k c) fun n => f32.add c.mode 0 (jval (co (c.ja l) n)) (jval (co (c.jb l) n))) ∧
  LaneJet .jsub each z (fun c l => jetMap (k c) fun n => f32.add c.mode 0 (jval (co (c.ja l) n)) (jval (co (c.jb l) n)).negate) ∧
  LaneJet .jmul cauchy z (fun c l => jetMul c.mode (k c) (c.ja l) (c.jb l)) ∧
  LaneJet .jfma cauchy z (fun c l => jetFma c.mode (k c) (c.ja l) (c.jb l) (c.jc l)) ∧
  LaneJet .jscale each z (fun c l => jetMap (k c) fun n => f32.mul c.mode 0 (jval (co (c.ja l) n)) (f32.read c.mode (c.b 1 l))) ∧
  LaneJet .jdfac each z (fun c l => jetMap (k c) fun n =>
    let x := jval (co (c.ja l) n)
    if auxBit c.f 0 then f32.div c.mode 0 0 x (.fin false (fact n) 0) else f32.mul c.mode 0 x (.fin false (fact n) 0))) ∧
  (let fn := fun (i : Fields → Instr) (p : Nat → Nat) (n : Nat) (r : Nat → Nat → List Nat → JAcc) =>
    LaneJet i p (fun _ => n) fun c l => r c.mode c.g.jord (c.ja l)
  let series := fun n : Nat => n * (n + 1) / 2 + n
  let chains := fun n : Nat => n * (n + 1) + 2 * n
  LaneJet .jdiv series (fun _ => 1) (fun c l => jetDiv c.mode c.g.jord (co (c.ja l)) (c.jb l)
    (f32.div c.mode 0 0 (jval (co (c.ja l) 0)) (jval (co (c.jb l) 0)))) ∧
  fn .jrcp series 1 (fun md k a => jetDiv md k (fun _ => 0) a (f32.rcpFn md 0 (co a 0))) ∧
  fn .jsqrt (fun n => n * (n + 1) / 2) 1 (fun md k a => jetSqrt md k a (f32.sqrtFn md 0 (co a 0))) ∧
  fn .jrsqrt series 1 (fun md k a => jetRsqrt md k a (f32.rsqrtFn md (co a 0))) ∧
  fn .jexp series 1 (fun md k a => jetExp md k a (f32.expFn md 0 true 2 (co a 0))) ∧
  fn .jlog series 1 (fun md k a => jetLog md k a (f32.logFn md true 2 (co a 0))) ∧
  fn .jsin chains 2 (fun md k a => jetSinCos md k a (f32.trigFn md false 2 (co a 0)) (f32.trigFn md true 2 (co a 0))) ∧
  fn .jcos chains 2 (fun md k a => let j := jetSinCos md k a (f32.trigFn md false 2 (co a 0)) (f32.trigFn md true 2 (co a 0))
    { j with cs := j.ws }) ∧
  fn .jtanh (fun n => n * (n + 2)) 1 (fun md k a => jetTanh md k a (f32.oddFn md false 2 (co a 0))))
/-! ## Cross-lane, system and control-flow instructions -/

/-- R346-R349: values moved, combined and compared among the active lanes. -/
def Obligations.CrossLane : Prop :=
  LaneRegs .shfl (fun _ => 1) (fun c l =>
    match shflSource (auxBits c.f 0 2) (cellSize (auxBits c.f 2 3)) c.act (c.b 1) l with
    | some m => if c.q.scalar then c.a 1 l else (c.g.thread m).reg c.f.vs0.toNat
    | none => if auxBit c.f 5 then 0 else c.a 1 l) ∧
  (∀ f s q g, Ready (.vote f) f s q g → let c := ctxtOf q g f
    let v := c.act.filter fun l => (g.thread l).pred f.vs0.toNat != auxBit f 2
    Performs (.vote f) s q (match auxBits f 0 2 with
      | 0 => c.writes 1 fun _ => maskOf v
      | 1 => c.writes 1 fun _ => v.length
      | 2 => c.writesPred f.vd.toNat fun _ =>
          if auxBits f 4 6 = 33 then v.length == c.act.length else decide (auxBits f 4 6 ≤ v.length)
      | _ => c.writesPred f.vd.toNat fun _ => v.length == 0 || v.length == c.act.length) []) ∧
  LaneFloat .red (fun _ => 1) (fun c l =>
    let ps := prefixes (redTy c.f) (auxBits c.f 0 3) c.mode (c.act.map (c.a 1 ·))
    ⟨(ps.getLast?.getD ⟨0, 0⟩).v, ps.foldl (fun a r => a ||| r.fl) 0, c.seed l⟩) ∧
  LaneFloat .scan (fun _ => 1) (fun c l =>
    let ps := prefixes (redTy c.f) (auxBits c.f 0 3) c.mode (c.act.map (c.a 1 ·))
    let j := c.act.idxOf l
    ⟨if auxBit c.f 5 then if j = 0 then redIdentity (redTy c.f) (auxBits c.f 0 3) else (ps.getD (j - 1) ⟨0, 0⟩).v
      else (ps.getD j ⟨0, 0⟩).v, ps.foldl (fun a r => a ||| r.fl) 0, c.seed l⟩) ∧
  LaneRegs .matchLanes (fun _ => 1) (fun c l =>
    maskOf (c.act.filter fun m => c.a (if auxBit c.f 0 then 2 else 1) m == c.a (if auxBit c.f 0 then 2 else 1) l)) ∧
  LanePred .elect (fun f => f.vd.toNat) (fun c l => l == c.act.headD 0)

/-- R391, R454, R456: `trap` and `brk` stop their gang with a record: `trap` behind the instruction, `brk` on it; without an active
lane they do nothing. -/
def Obligations.UserTraps : Prop :=
  ∀ f s q g, q.scalar = false → q.slot ≠ handlerSlot → let c := ctxtOf q g f
    (Ready (.trap f) f s q g → c.act ≠ [] →
      StopsWith (.trap f) s q (g.issued q (encode (.trap f)).length []) fun r =>
        r.cls = 0x11 ∧ r.arg = immU f ∧ r.pc = (g.issued q (encode (.trap f)).length []).pcOf q.lanes ∧
        r.lanemask = maskOf c.act ∧ r.actmask = maskOf c.act) ∧
    (Ready (.brk f) f s q g → c.act ≠ [] →
      StopsWith (.brk f) s q g fun r => r.cls = 0x0F ∧ r.arg = immU f ∧ r.pc = q.addr ∧ r.actmask = maskOf c.act) ∧
    (Ready (.trap f) f s q g → c.act = [] → Performs (.trap f) s q g []) ∧
    (Ready (.brk f) f s q g → c.act = [] → Performs (.brk f) s q g [])

/-- R392-R396: the feature words, the clocks and the meters, read into registers; `opreq` grants what OPMAX and an alarm allow and says
whether that is what was asked; `prog` counts once; `sleep` holds its threads. FEATURES' revision byte is the package's own (log 9, DESIGN CHOICE). -/
def Obligations.SystemRegisters : Prop :=
  (∀ f s q g, let c := ctxtOf q g f
    (Ready (.featq f) f s q g → Performs (.featq f) s q (c.writes 1 fun _ => match immU f with
      | 0 => 0x5A400003 + (Config.revision s.mgmt.record).toNat * 256
      | 1 => 0x00000FFF
      | 2 => 0x00000007
      | 3 => 0xC00A4200
      | 4 => 0x42080808
      | 5 => 0x00004DFF
      | _ => 0) []) ∧
    (Ready (.clock f) f s q g → Performs (.clock f) s q (c.writes 2 fun _ => match immU f with
      | 0 => s.cycles % 2 ^ 64
      | 1 => s.timeNs % 2 ^ 64
      | _ => s.take.1.toNat) []) ∧
    (Ready (.emtr f) f s q g → Performs (.emtr f) s q (c.writes 2 fun _ => match immU f with
      | 0 => (s.ctx g.ctx).meter.pj % 2 ^ 64
      | 1 => (s.ctx g.ctx).meter.wraps
      | 2 => code 64 (s.ctx g.ctx).level
      | _ => (s.part (partOf q.cl)).op % 16) [])) ∧
  (∀ f s q g, let c := ctxtOf q g f
    let m := min (immU f) (s.func (g.ctx / 4096)).opmax
    let gr := if s.alarm ≠ 0 ∧ 13 ≤ m then 12 else m
    (Ready (.opreq f) f s q g → c.act ≠ [] →
      PerformsFrom (.opreq f) s ((s.idle.updCtx g.ctx fun x => { x with grant := some gr }).noteBelow) q
        (c.writes 1 fun _ => gr + if gr = immU f then 0 else 16) []) ∧
    (Ready (.prog f) f s q g → c.act ≠ [] →
      PerformsFrom (.prog f) s { s.idle with parts := s.parts.set (partOf q.cl) { s.part (partOf q.cl) with
        prog := (s.part (partOf q.cl)).prog.modify (immU f) fun n => (n + 1) % 2 ^ 64 } } q g []) ∧
    (Ready (.sleep f) f s q g →
      Performs (.sleep f) s q (g.updLanes c.act fun _ t => { t with wait := some (.sleep (s.cycles + 64 * immU f)) }) []) ∧
    (c.act = [] → (Ready (.opreq f) f s q g → Performs (.opreq f) s q g []) ∧ (Ready (.prog f) f s q g → Performs (.prog f) s q g [])))

/-- R336-R339, R344: branches send each active lane to its target; `brx` and `callx` when every target is canonical and a multiple of 4.
A call pushes the header behind its clause when no thread's stack is full, `ret` pops one, and an empty stack stops the gang. `nop`
changes nothing, and `yield` has its threads wait, with the PC of their next instruction and for 32 cycles at most. -/
def Obligations.BranchesAndCalls : Prop :=
  (∀ f lit s q g, let c := ctxtOf q g f
    (Ready (.bra f lit) f s q g → Performs (.bra f lit) s q g (c.act.map fun l => (l, q.addr + lit.signExtend 64))) ∧
    (Ready (.brp f lit) f s q g → Performs (.brp f lit) s q g (c.act.map fun l =>
      (l, q.addr + BitVec.ofInt 64 (4 * if (g.thread l).pred (f.vd.toNat % 8) = bitOf f.vd.toNat 3
        then sgn 16 (lit.toNat % 2 ^ 16) else sgn 16 (lit.toNat / 2 ^ 16))))) ∧
    (Ready (.brx f) f s q g → (∀ l ∈ c.act, canonical (c.a 2 l) = true ∧ c.a 2 l % 4 = 0) →
      Performs (.brx f) s q g (c.act.map fun l => (l, BitVec.ofNat 64 (c.a 2 l)))) ∧
    (Ready (.nop f) f s q g → Performs (.nop f) s q g []) ∧
    (Ready (.yield f) f s q g → Performs (.yield f) s q (g.updLanes c.act fun _ t => { t with
      wait := some (.yield (t.nextInstr (encode (.yield f)).length) (s.cycles + 32)) }) [])) ∧
  ((∀ f s q g, Ready (.ret f) f s q g → q.scalar = false → q.slot ≠ handlerSlot →
    (∃ l ∈ (ctxtOf q g f).act, (g.thread l).scnt = 0) →
    StopsWith (.ret f) s q g fun r => r.cls = 0x0B ∧ r.pc = q.addr) ∧
  ∀ f lit s q g, let c := ctxtOf q g f
    let pushed := g.updLanes c.act fun _ t => t.push g.usable (stackEntry 0 g.entry c.nextHeader)
    ((∀ l ∈ c.act, (g.thread l).scnt < g.depth) → (c.act = [] ∨ pushOk g.entry c.nextHeader = true) →
      (Ready (.call f lit) f s q g →
        Performs (.call f lit) s q pushed (c.act.map fun l => (l, q.addr + lit.signExtend 64))) ∧
      (Ready (.callx f) f s q g → (∀ l ∈ c.act, canonical (c.a 2 l) = true ∧ c.a 2 l % 4 = 0) →
        Performs (.callx f) s q pushed (c.act.map fun l => (l, BitVec.ofNat 64 (c.a 2 l))))) ∧
    (Ready (.ret f) f s q g →
      (∀ l ∈ c.act, (g.thread l).scnt ≠ 0 ∧ ((g.thread l).reg (g.usable + (g.thread l).scnt - 1)) / 2 ^ 30 ≠ 1 ∧
        ((g.thread l).reg (g.usable + (g.thread l).scnt - 1)) / 2 ^ 30 ≠ 2) →
      Performs (.ret f) s q (g.updLanes c.act fun _ t => { t with scnt := t.scnt - 1 })
        (c.act.map fun l => (l, g.entry + BitVec.ofInt 64 (4 * sgn 30 ((g.thread l).reg (g.usable + (g.thread l).scnt - 1)))))))

/-- R181, R338, R340-R342: the case a value selects is the first that equals it, and 0 when none does; `meet` pushes MR and sets it, `loop` sets a level up, `switch` sends lanes to the clauses behind it, and
`exit` ends threads; in scalar mode `exit` gives the handler's verdict (R459). -/
def Obligations.MeetLoopSwitchExit : Prop :=
  (∀ f lit a, let v := fun i : Nat => code 32 (sgn 8 (auxBits f 3 8) + bitsOf lit.toNat (4 * i) 4)
    (switchCase f lit a = 0 ↔ ∀ i, i ≤ auxBits f 0 3 → a ≠ v i) ∧
    (∀ i, switchCase f lit a = i + 1 → a = v i ∧ i ≤ auxBits f 0 3 ∧ ∀ j, j < i → a ≠ v j)) ∧
  ∀ f lit s q g, let c := ctxtOf q g f
    let own := fun l => match (g.thread l).clause with | some k => k.hdr | none => q.addr
    let none64 := BitVec.allOnes 64
    (Ready (.meet f lit) f s q g → (∀ l ∈ c.act, (g.thread l).scnt < g.depth) →
      (∀ l ∈ c.act, (g.thread l).mr = none64 ∨ pushOk g.entry (g.thread l).mr = true) →
      Performs (.meet f lit) s q (g.updLanes c.act fun l t =>
        { t.push g.usable (if (g.thread l).mr = none64 then 2 * 2 ^ 30 else stackEntry 1 g.entry (g.thread l).mr) with
          mr := q.addr + lit.signExtend 64 }) []) ∧
    (Ready (.loop f lit) f s q g → (∀ l ∈ c.act, c.a 1 l ≠ 0) →
      Performs (.loop f lit) s q (g.updLanes c.act fun l t =>
        setLoop t f.vd.toNat (c.a 1 l) (q.addr + lit.signExtend 64) c.nextHeader (q.addr + lit.signExtend 64) (own l)) []) ∧
    (Ready (.loop f lit) f s q g → g.tstop = false → (∃ l ∈ c.act, c.a 1 l = 0) → ∀ s1 hs,
      headerWalk q g.ctx g.ownIds 1 (q.addr + lit.signExtend 64) s.idle [] = (s1, hs, none) → s1.issGang? q = some g →
      PerformsFrom (.loop f lit) s s1 q (g.updLanes c.act fun l t =>
        setLoop t f.vd.toNat (c.a 1 l) (q.addr + lit.signExtend 64) c.nextHeader (hs.getD 1 (q.addr + lit.signExtend 64)) (own l)) []) ∧
    (Ready (.switch f lit) f s q g → g.tstop = false → ∀ s1 hs,
      headerWalk q g.ctx g.ownIds ((c.act.map fun l => switchCase f lit (c.a 1 l)).foldl Nat.max 0) c.nextHeader s.idle [] = (s1, hs, none) →
      s1.issGang? q = some g →
      PerformsFrom (.switch f lit) s s1 q g (c.act.map fun l => (l, hs.getD (switchCase f lit (c.a 1 l)) c.nextHeader))) ∧
    (Ready (.exit f) f s q g → q.scalar = false →
      Performs (.exit f) s q (g.updLanes c.act fun _ t => { t with live := false }) []) ∧
    (Ready (.exit f) f s q g → q.scalar = true → c.act = [] → Performs (.exit f) s q g []) ∧
    (Ready (.exit f) f s q g → q.scalar = true → c.act ≠ [] → ∃ t, exec (.exit f) s = .next t ∧ t.mem = s.mem ∧
      (t.cluster q.cl).handler.map (·.verdict) = some (some (min 2 ((g.thread 0).reg 1))))
/-! ## Memory, atomic, consignment, view and ordering instructions -/

/-- R16, R53, R137, R152, R317-R328: a load, store or atomic of the global space whose conditions pass becomes an operation of its gang
with one access for each active lane, at the lane's address and with its data, counted in its classes, and is started; one of the
constant space likewise, at the block's constants; one of the scratchpad is performed there at once, in ascending lane order. A store
needs room in the gang's destination table (R111). -/
def Obligations.GlobalAccesses : Prop :=
  (∀ f s q g, let c := ctxtOf q g f
    ∀ x ∈ memForms f c, Ready x.1 f s q g → ∀ s2, s.idle.passes s2 c x.2.1 x.2.2.1 → x.2.1.sp = 1 →
      Ends x.1 s c (scratchAccess x.1 c s2 x.2.1 (c.laneAddr x.2.1 x.2.2.1) x.2.2.2.1 x.2.2.2.2
        (if x.2.1.kind = .load then [.ld] else [.st]))) ∧
  ∀ f s q g, let c := ctxtOf q g f
    ∀ x ∈ memForms f c, Ready x.1 f s q g → ∀ s2, s.idle.passes s2 c x.2.1 x.2.2.1 → x.2.1.sp ≠ 1 →
      let va := c.accAddr s.idle x.2.1 x.2.2.1
      g.full (s2.classes c x.2.1 (c.act.map va)) = false →
      (x.2.1.kind = .store → x.2.1.sp = 0 →
        destTakes g.dests ((c.act.filterMap fun l => s2.knownFar c x.2.1 (va l)).eraseDups) = true) →
      Ends x.1 s c (.go (s2.withOp x.1 c x.2.1 va x.2.2.2.1 x.2.2.2.2) [])

/-- R71, R128: bytes written inside the scratchpad read back, and all others read as before; a relaxed scratchpad store of a gang with room in its counter: the bytes of the scratchpad afterwards are those before
with each active lane's bytes put at its address in ascending lane order; no byte of HBM4 or of the host window changes, and no
other cluster's scratchpad. -/
def Obligations.ScratchpadStores : Prop :=
  (∀ (k : Cluster) (o : Nat) (bs : List Byte), o + bs.length ≤ 65536 * k.scratchBanks.length →
    (∀ j, j < bs.length → (k.scratchWrite o bs).scratchByte (o + j) = bs.getD j 0) ∧
    ∀ b, b < 65536 * k.scratchBanks.length → (b < o ∨ o + bs.length ≤ b) → (k.scratchWrite o bs).scratchByte b = k.scratchByte b) ∧
  ∀ f s q g, let c := ctxtOf q g f
    ∀ row, let a := memAcc f .store row
    let i : Instr := if row then .stv f else .st f
    Ready i f s q g → q.scalar = false → a.sp = 1 → a.ord = 0 → g.openAcquires c.act = [] → g.full [.st] = false →
    (∀ l ∈ c.act, s.laneCause c a (c.laneAddr a true l) = 0) →
    ∃ t, exec i s = .next t ∧ t.mem = s.mem ∧
      (∀ o, (t.cluster q.cl).scratchByte o = (c.act.foldl (fun k l =>
        k.scratchWrite (s.scratchBase c + c.laneAddr a true l) (toBytes a.bytes (c.stData a l))) (s.cluster q.cl)).scratchByte o) ∧
      (∀ d, d ≠ q.cl → ∀ o, (t.cluster d).scratchByte o = (s.cluster d).scratchByte o)

/-- R319, R321, R323, R325, R334, R335: the other accesses of the global space: view loads of an open slot, prefetches, ordered flags
consignment stores of an open slot, and write-backs and drops of lines. -/
def Obligations.SpecialAccesses : Prop :=
  ∀ f s q g, let c := ctxtOf q g f
    let line := fun (a : Acc) l => c.laneAddr a true l / 128 * 128
    let zero := fun _ : Nat => 0
    let view : Acc := { kind := .view, bytes := szBytes (szOf f), sext := szOf f == 4 || szOf f == 6, regs := szRegs (szOf f)
                        slot := auxBits f 4 1 }
    let flag : Acc := { kind := .flag, bytes := szBytes (szOf f) }
    let csg : Acc := { kind := .csg, bytes := szBytes (szOf f), slot := auxBits f 4 2 }
    let pf : Acc := { kind := .pf, bytes := 128, slot := b2n (auxBit f 0) }
    let wb : Acc := { kind := .wb, bytes := 128, slot := b2n (auxBit f 1) }
    let inv : Acc := { kind := .inv, bytes := 128 }
    let pass := fun (a : Acc) s2 => s.idle.passes s2 c a true ∧
      g.full (s2.classes c a (c.act.map (c.laneAddr a true))) = false
    (Ready (.ldview f) f s q g → q.scalar = false → (g.views.getD view.slot ⟨false, 0, false⟩).isOpen = true →
      ∀ s2, pass view s2 → Ends (.ldview f) s c (.go (s2.withOp (.ldview f) c view (c.laneAddr view true) zero zero) [])) ∧
    (Ready (.stflag f) f s q g → ∀ s2, pass flag s2 → Ends (.stflag f) s c (.go (s2.withOp (.stflag f) c flag
      (c.laneAddr flag true) (c.stData flag) zero) [])) ∧
    (Ready (.stcsg f) f s q g → q.scalar = false → (g.slotAt csg.slot).st = 1 →
      ∀ s2, pass csg s2 → Ends (.stcsg f) s c (.go (s2.withOp (.stcsg f) c csg (c.laneAddr csg true) (c.stData csg) zero) [])) ∧
    (Ready (.pf f) f s q g → let c' := { c with act := c.act.filter fun l => canonical (line pf l) }
      Ends (.pf f) s c (.go (s.idle.withOp (.pf f) c' pf (line pf) zero zero) [])) ∧
    ((∀ l ∈ c.act, canonical (line wb l) = true) → Ready (.wb f) f s q g → auxBit f 0 = false →
      g.full (s.idle.classes c wb (c.act.map (line wb))) = false →
      Ends (.wb f) s c (.go (s.idle.withOp (.wb f) c wb (line wb) zero zero) [])) ∧
    ((∀ l ∈ c.act, canonical (line inv l) = true) → Ready (.inv f) f s q g → auxBit f 0 = false →
      Ends (.inv f) s c (.go (s.idle.withOp (.inv f) c inv (line inv) zero zero) [])) ∧
    (Ready (.inv f) f s q g → auxBit f 0 = true → c.act ≠ [] →
      PerformsFrom (.inv f) s (s.idle.updL1 q.cl fun m => (m.filter fun e => e.2.ctx == g.ctx).foldl (fun m e => dropClean m e.1) m)
        q g [])

/-- R320, R324, R74: a pop takes the oldest entry of a FIFO the gang's context owns, and a push adds one, zero in lanes that are not
active. -/
def Obligations.FifoAccesses : Prop :=
  ∀ f s q g, let c := ctxtOf q g f
    let b := immU f
    let r := (s.cluster q.cl).fifos.getD b ⟨none, 0, 0⟩
    q.scalar = false → c.act ≠ [] → g.openAcquires c.act = [] → s.fifoOk c b = true →
    (Ready (.fpop f) f s q g → r.fill ≠ 0 → g.full [.ld] = false →
      (∀ l ∈ c.act, (s.cluster q.cl).sramPoison.getD (wordIndex b (r.head % 512) l) false = false) →
      PerformsFrom (.fpop f) s ((s.idle.charge (partOf q.cl) g.ctx 9 1).updCluster q.cl fun k => { k with fifos := k.fifos.set b { r with head := (r.head + 1) % 1024 } }) q
        ((c.writes 1 fun l => ((s.cluster q.cl).sram.getD (wordIndex b (r.head % 512) l) 0).toNat).addOp (.fpop f) q c.act
          [.ld] [] [] [] 0 true) []) ∧
    (Ready (.fpush f) f s q g → r.fill ≠ 512 → g.full [.st] = false →
      PerformsFrom (.fpush f) s ((s.idle.charge (partOf q.cl) g.ctx 9 1).updCluster q.cl fun k =>
        let k := (List.range 32).foldl (fun (k : Cluster) l =>
          { k with sram := k.sram.set (wordIndex b (r.tail % 512) l) (if c.act.contains l then BitVec.ofNat 32 (c.d 1 l) else 0)
                   sramPoison := k.sramPoison.del (wordIndex b (r.tail % 512) l) }) k
        { k with fifos := k.fifos.set b { r with tail := (r.tail + 1) % 1024 } }) q
        (g.addOp (.fpush f) q c.act [.st] [] [] [] 0 true) []) ∧
    (Ready (.fpop f) f s q g → r.fill = 0 → Ends (.fpop f) s c (.wait s.idle (.fifoData b))) ∧
    (Ready (.fpush f) f s q g → r.fill = 512 → Ends (.fpush f) s c (.wait s.idle (.fifoRoom b)))

/-- R157-R169, R172-R174: consignments and views. An open takes the least free record of its function, writes the record at its home and gives a
free slot a new identifier; a seal or an abort closes an open slot and counts in oc.rm. Both need every live thread of the gang (R158).
A view that opens in a free slot, once the gang's operations are performed, drops clean lines and takes a snapshot stamp; a close frees
the slot and says whether it had not expired; the stamp can be read. -/
def Obligations.Consignments : Prop :=
  (∀ f s q g, let c := ctxtOf q g f
    let cs := immU f
    let fn := g.ctx / 4096
    let u := s.func fn
    q.scalar = false → c.act = g.liveLanes →
    (Ready (.csgOpen f) f s q g → (g.slotAt cs).st = 0 → fn ≠ 128 → u.vOn = true →
      ∀ r, lowestFree 0 (min u.recCount (u.recUsed.length + 1)) u.recUsed = some r → s.openCsgs g.ctx < 4096 →
      let id := s.pkgId * 2 ^ 38 + fn * 2 ^ 31 + u.csgNext
      let s1 := s.idle.updFunc fn fun u =>
        { u with recUsed := u.recUsed ++ [r], csgNext := if u.csgNext + 1 = 2 ^ 31 then 1 else u.csgNext + 1 }
      let s2 := (s1.charge (partOf q.cl) g.ctx 17 1).writeSeal (partOf q.cl) g.ctx fn r 0 id 0
      let s3 := (s2.zeroRange ((s2.func fn).recAt r + 16) 48).zeroRange ((s2.func fn).recAt r + 4160) 4032
      Ends (.csgOpen f) s c (.go (writeRegs (s3.updIss q fun g => { g with slots := g.slots.set cs ⟨1, id, r, [], [], 0⟩ }) c
          f.vd.toNat 2 fun _ => id) [])) ∧
    (∀ x ∈ [(Instr.csgSeal f, 2, destRegs f 2), (Instr.csgAbort f, 3, [])], Ready x.1 f s q g → (g.slotAt cs).st = 1 →
      g.full [.rm] = false →
      Performs x.1 s q (Gang.addOp { g with slots := g.slots.modify cs fun y => { y with st := x.2.1 } } x.1 q c.act [.rm] [] x.2.2 [] 0 false) [])) ∧
  ∀ f s q g, let c := ctxtOf q g f
    let v := g.views.getD (immU f) ⟨false, 0, false⟩
    q.scalar = false →
    (Ready (.viewOpen f) f s q g → v.isOpen = false → c.act = g.liveLanes → g.pendingOps c.act = [] →
      let d := s.idle.acquireDrop q.cl
      PerformsFrom (.viewOpen f) s d.take.2 q { g with views := g.views.set (immU f) ⟨true, d.take.1, false⟩ } []) ∧
    (Ready (.viewClose f) f s q g → v.isOpen = true → c.act = g.liveLanes →
      (∀ o ∈ g.ops, ∀ a, accOf o.instr = some a → a.kind = .view → a.slot = immU f → o.complete = true) →
      Performs (.viewClose f) s q { c.writesPred (f.vd.toNat % 8) (fun _ => !v.expired) with
        views := g.views.set (immU f) ⟨false, 0, false⟩ } []) ∧
    (Ready (.viewStamp f) f s q g → v.isOpen = true → Performs (.viewStamp f) s q (c.writes 2 fun _ => v.stamp.toNat) [])

/-- R143-R145, R152, R243, R332-R334: fences. A fence whose release part has nothing to wait for, or whose earlier loads are bound where it
has none, completes, at the scope it is demoted to; at device scope and wider its acquire part drops the clean lines of its cluster; without
an active lane it changes nothing. `fence.sc` completes at gang and cluster scope, and else
holds its threads for the cadence. `wait` holds its threads until the counter is low enough. `wb.all` completes when the context's
dirty lines are written back and none of them is on its way to another package. -/
def Obligations.Fences : Prop :=
  ∀ f s q g, let c := ctxtOf q g f
    let ord := auxBits f 3 2
    let sc := auxBits f 0 3
    let at_ := s.scopeOf c sc
    ((at_ ≠ sc → (s.func (g.ctx / 4096)).trapOnDemote = false) →
      (Ready (.fence f) f s q g → c.act ≠ [] → ∀ s1, (ord = 1 ∧ g.openLoads c.act = [] ∧ s1 = s.idle ∨
          ord ≠ 1 ∧ s.idle.releaseGate c at_ = (s1, none)) →
        Ends (.fence f) s c (.go (if ord ≠ 2 ∧ wideScope at_ then (s1.demoted c sc).acquireDrop q.cl else s1.demoted c sc) [])) ∧
      (Ready (.fenceSc f) f s q g → c.act ≠ [] → g.ops = [] → (at_ = 4 → g.flushed = true) →
        ∀ s1, s.idle.releaseGate c at_ = (s1, none) →
        Ends (.fenceSc f) s c (if !wideScope at_ then .go (s1.demoted c sc) []
          else .split (s1.demoted c sc) true c.act (.fenceSc at_ (s1.demoted c sc).timeNs none)))) ∧
    (c.act = [] → ∀ i ∈ [Instr.fence f, .fenceSc f], Ready i f s q g → Performs i s q g []) ∧
    (Ready (.wait f) f s q g → g.count (ctrOf f.vd.toNat) ≤ immU f → Performs (.wait f) s q g []) ∧
    (Ready (.wait f) f s q g → immU f < g.count (ctrOf f.vd.toNat) →
      Ends (.wait f) s c (.wait s.idle (.counter f.vd.toNat (immU f)))) ∧
    (Ready (.wb f) f s q g → auxBit f 0 = true → c.act ≠ [] → g.pendingOps c.act = [] → g.full [.st] = false →
      ∀ s1, State.writeOutList q.cl (auxBit f 1 && g.ctx / 4096 == 128) (s.idle.dirtyLines q.cl (· == g.ctx)) s.idle = (s1, none) →
      s1.wbLost g.ctx = none → s1.wbAway g.ctx = false →
      Ends (.wb f) s c (.go (s1.updIss q fun g => g.addOp (.wb f) q c.act [.st] [] [] [] 0 true) []))

/-- R137, R315, R344: how an issue ends. A performed effect that raised no record of its own leaves everything but the issuing gang,
meters and profiling data as the effect left it, and moves the gang on; a wait changes the waits of the issuing threads alone; a trap changes no memory. -/
def Obligations.IssueEnds : Prop :=
  ∀ (c : Ctxt) len (s0 s1 : State) g1, s1.issGang? c.q = some g1 →
    (g1.tstop = false ∨ ((s1.cluster c.q.cl).ring = (s0.cluster c.q.cl).ring ∧ (s1.cluster c.q.cl).held = (s0.cluster c.q.cl).held) →
      ∀ ts, State.Same c.q.owns s1 (finishIssue c len (.go s1 ts) s0) ∧
      ((finishIssue c len (.go s1 ts) s0).issGang? c.q).map Gang.strip = some (g1.issued c.q len ts).strip) ∧
    (∀ w, finishIssue c len (.wait s1 w) s0 =
      s1.updIss c.q fun g => g.updLanes c.q.lanes fun _ t => { t with wait := some w }) ∧
    (∀ r, (finishIssue c len (.trap r) s1).mem = s1.mem ∧ (finishIssue c len (.stop s1 r) s0).mem = s1.mem ∧
      (finishIssue c len (.after s1 r) s0).mem = s1.mem ∧ (finishIssue c len (.on s1 r) s0).mem = s1.mem)

/-! ## Barriers, matrix, copy and chain instructions -/

/-- R77, R78, R384-R387: barrier objects. A phase ends exactly when all arrivals and bytes are in, and a record that is well-formed reads
back from its bytes. The offset in the lowest active lane names 16 bytes of the block's scratchpad; an object that
is well-formed takes arrivals and byte counts, and a phase completes when its conditions hold. -/
def Obligations.BlockBarriers : Prop :=
  (∀ b : Bar, (b.arrived = b.expect ∧ b.exp ≤ b.rcv → b.settle.phase = !b.phase ∧ b.settle.arrived = 0 ∧ b.settle.exp = 0 ∧
      b.settle.rcv + b.exp = b.rcv ∧ b.settle.expect = b.expect) ∧
    (¬(b.arrived = b.expect ∧ b.exp ≤ b.rcv) → b.settle = b) ∧
    (b.arrived < 4096 → b.expect < 4096 → b.exp < 2 ^ 32 → b.rcv < 2 ^ 32 → b.bad = false → barOf b.num = b)) ∧
  ∀ f s q g, let c := ctxtOf q g f
    let o := s.scratchBase c + c.barOff
    let b := (s.cluster q.cl).bar o
    let n := if auxBit f 1 then c.b 1 c.low else if auxBit f 0 then c.act.length else 1
    q.scalar = false → c.act ≠ [] → g.openAcquires c.act = [] → s.barAddr c = none →
    (Ready (.barInit f) f s q g → c.b 1 c.low ≠ 0 → c.b 1 c.low ≤ 2048 →
      PerformsFrom (.barInit f) s ((chargeBar s.idle c).updCluster q.cl fun k =>
        k.scratchWrite o (toBytes 16 (2 + c.b 1 c.low * 2 ^ 48))) q g []) ∧
    (b.refused = false → (s.cluster q.cl).scratchPoison o 16 = false →
      (Ready (.barArrive f) f s q g → 1 ≤ n → n ≤ 2048 → b.arrived + n ≤ b.expect → g.pendingOps c.act = [] →
        let s1 := (chargeBar s.idle c).barArrive q g.blk o fun b => { b with arrived := b.arrived + n }
        ∀ g1, s1.issGang? q = some g1 →
        PerformsFrom (.barArrive f) s s1 q (g1.updLanes c.act fun _ t => t.setRegs f.vd.toNat 1 (b2n b.phase)) []) ∧
      (Ready (.barExpect f) f s q g → (auxBit f 0 = true → b.arrived + 1 ≤ b.expect ∧ g.pendingOps c.act = []) →
        let s1 := (chargeBar s.idle c).barArrive q g.blk o fun d =>
          { d with exp := min 0xFFFFFFFF (d.exp + c.b 1 c.low), arrived := d.arrived + b2n (auxBit f 0) }
        ∀ g1, s1.issGang? q = some g1 → PerformsFrom (.barExpect f) s s1 q g1 []) ∧
      (Ready (.barWait f) f s q g → g.openLoads c.act = [] → (∀ l ∈ c.act, bitOf (c.b 1 l) 0 ≠ b.phase) →
        (∀ l ∈ c.act, ∀ o p, (g.thread l).wait ≠ some (.phase o p)) → Performs (.barWait f) s q g []) ∧
      (Ready (.barTry f) f s q g → g.openLoads (c.act.filter fun l => b.phase != bitOf (c.b 1 l) 0) = [] →
        Performs (.barTry f) s q (c.writesPred (f.vd.toNat % 8) fun l => b.phase != bitOf (c.b 1 l) 0) []))

/-- R388, R389: a group barrier of which the issuing block is a member, reached by threads that do not come back from it, when their
release has nothing to wait for: the gang counts once in the group's entry and its threads wait for the phase, or the last one starts
the next phase and frees all that wait. -/
def Obligations.GroupAndGridBarriers : Prop :=
  ∀ f s q g, let c := ctxtOf q g f
    q.scalar = false → c.act ≠ [] →
    (∀ l ∈ c.act, ∀ h p, (g.thread l).wait ≠ some (.group h p) ∧ (g.thread l).wait ≠ some (.grid p)) →
    ∀ s1, s.idle.releaseGate c 0 = (s1, none) →
    (Ready (.gbar f) f s q g → let h := auxBits f 0 8
      (∃ b, s.blockOf q g = some b ∧ b.groups.contains h = true) →
      let e := (s1.ctx g.ctx).groups.getD h ⟨1, 0, 0⟩
      (e.arrived + 1 < e.members → Ends (.gbar f) s c (.split (s1.updCtx g.ctx fun x =>
        { x with groups := x.groups.set h { e with arrived := e.arrived + 1 } }) true c.act (.group h e.phase))) ∧
      (e.members ≤ e.arrived + 1 → Ends (.gbar f) s c (.split ((s1.updCtx g.ctx fun x =>
        { x with groups := x.groups.set h { e with arrived := 0, phase := e.phase + 1 } }).releaseAll q c.act (fun h => h.ctx == g.ctx)
          (fun w => match w with | .group i _ => i == h | _ => false)) true c.act (.group h e.phase)))) ∧
    (Ready (.gridbar f) f s q g → ∀ b n, s.blockOf q g = some b → s.launches.find? b.launch = some n → n.coop = true →
      (n.arrived + 1 < n.gridX * n.gridY * n.gridZ →
        Ends (.gridbar f) s c (.split { s1 with launches := s1.launches.set b.launch { n with arrived := n.arrived + 1 } } true c.act
          (.grid n.phase))) ∧
      (n.gridX * n.gridY * n.gridZ ≤ n.arrived + 1 →
        let next : Launch := { n with arrived := 0, phase := n.phase + 1 }
        let s2 : State := { s1 with launches := s1.launches.set b.launch next }
        Ends (.gridbar f) s c (.split (s2.releaseAll q c.act (fun h => h.blk / 2 ^ 32 == b.launch)
          (fun w => match w with | .grid _ => true | _ => false)) true c.act (.grid n.phase))))

/-- R350-R358, R362, R363: a matrix instruction of all 32 threads of a gang, with room in its counter, enters the matrix queue with what
it samples; those that name accumulator rows need them inside the gang's window and not busy for it. -/
def Obligations.MatrixCommands : Prop :=
  ∀ f lit s q g, let c := ctxtOf q g f
    c.act.length = 32 → g.full [.mx] = false →
    let seq := (s.cluster q.cl).mxSeq
    let org := [c.a 2 0 % 2 ^ 32, c.a 2 0 / 2 ^ 32]
    let enters := fun (i : Instr) args first n dests => Ready i f s q g →
      PerformsFrom i s (s.idle.withMatrix c i args first n) q (c.withCmd i .mx dests seq) []
    let rows := fun (i : Instr) args rel n w => g.accbase + rel + n ≤ g.acclim →
      (s.cluster q.cl).rowsBusy q.gangSlot (g.accbase + rel) n = false →
      enters i ((g.accbase + rel) :: args) (g.accbase + rel) (if w then n else 0) []
    let o := (c.a 1 0 + lit.toNat) % 2 ^ 32
    let m := mmaOf lit
    (o % 32 = 0 → ∀ b, s.blockOf q g = some b → o + 32 ≤ b.csize →
      enters (.tidSet f lit) [(b.cbase.toNat + o) % 2 ^ 64] 0 0 []) ∧
    enters (.tidGet f) [] 0 0 (destRegs f 8) ∧ enters (.mxLdb f) org 0 0 [] ∧
    ((immU f + 1) * (auxBits f 0 3 + 1) ≤ 32 → enters (.mxLda f) org 0 0 []) ∧
    ((m.q = true → bitOf g.qmask m.qn = true) → rows (.mxMma f lit) [] (m.d + if auxBit f 0 then c.a 1 0 else 0) m.rows true) ∧
    rows (.mxZero f) [] (c.a 1 0) (immU f + 1) true ∧ rows (.accLd f) org (c.c3 1 0) (immU f + 1) true ∧
    rows (.accSt f) org (c.c3 1 0) (immU f + 1) false

/-- R364, R365: the leader's `acc_win` sets the window and queue mask of the gang it names, or of its whole block, inside the block's
rows; a row outside the gang's window traps; `acc_pop` gives lane l four columns of the oldest row of a queue the gang may use. -/
def Obligations.AccumulatorAccess : Prop :=
  (∀ f s q g, Ready (.mxZero f) f s q g → q.scalar = false → q.slot ≠ handlerSlot → (ctxtOf q g f).act.length = 32 →
    g.acclim < g.accbase + (ctxtOf q g f).a 1 0 + (immU f + 1) →
    StopsWith (.mxZero f) s q g fun r => r.cls = 0x0D ∧ r.pc = q.addr) ∧
  ∀ f s q g, let c := ctxtOf q g f
    c.act ≠ [] →
    (Ready (.accWin f) f s q g → q.scalar = false → g.index = 0 → ∀ b, s.blockOf q g = some b →
      let vb := c.a 1 c.low
      let vl := c.b 1 c.low
      vb + vl ≤ b.accRows → auxBits f 4 6 < b.gangs.length →
      (∀ k ∈ bitList 4 (auxBits f 0 4), ∀ o, ((s.cluster q.cl).rowqs.getD k (none, [])).1 = some o →
        o = g.blk ∨ (s.cluster q.cl).blocks.has o = false) →
      Ends (.accWin f) s c (.go ((if auxBit f 10 then b.gangs.filterMap id else (b.gangs.getD (auxBits f 4 6) none).toList).foldl
        (fun s t => s.updGang q.cl t fun g => { g with qmask := auxBits f 0 4, accbase := b.accBase + vb, acclim := b.accBase + vb + vl })
        ((chargeLanes s.idle c 1 1).updCluster q.cl fun k => { k with rowqs := (bitList 4 (auxBits f 0 4)).foldl (fun r j =>
          r.modify j fun e => if e.1 = some g.blk then e else (some g.blk, [])) k.rowqs })) [])) ∧
    (Ready (.accPop f) f s q g → bitOf g.qmask (immU f) = true → ∀ row rest,
      ((s.cluster q.cl).rowqs.getD (immU f) (none, [])).2 = row :: rest →
      PerformsFrom (.accPop f) s (s.idle.updCluster q.cl fun k => { k with rowqs := k.rowqs.modify (immU f) fun e => (e.1, rest) }) q
        (c.writes 4 fun l => (row.getD (4 * l) 0).toNat + (row.getD (4 * l + 1) 0).toNat * 2 ^ 32 +
          (row.getD (4 * l + 2) 0).toNat * 2 ^ 64 + (row.getD (4 * l + 3) 0).toNat * 2 ^ 96) [])

/-- R368-R374, R376, R381: copy and chain instructions whose conditions pass put one command at the end of their queue with what they
sample from the lowest active lane; the write pointer and the chain counts can be read; a cancel empties the context's part of a
channel's queue, once no step of it is in course. -/
def Obligations.CopyAndChainCommands : Prop :=
  ∀ f s q g, let c := ctxtOf q g f
    let r4 := fun j => reg32 (c.b 4 c.low) j
    let a4 := fun j => reg32 (c.a 4 c.low) j
    let enters := fun (i : Instr) args => Ready i f s q g → g.full [.cp] = false → c.act ≠ [] →
      PerformsFrom i s (s.idle.withCopy c i args) q
        (c.withCmd i .cp [] ((s.cluster q.cl).chan g.ctx (chanOf f)).next) []
    let len := c.b 1 c.low
    let src := if auxBits f 7 2 = 2 then a4 0 else c.a 4 c.low % 2 ^ 64
    (r4 2 % 2 ^ 16 ≠ 0 → r4 2 / 2 ^ 16 ≠ 0 → r4 0 % 16 = 0 → r4 3 % 16 = 0 → (auxBit f 0 = true → r4 1 % 16 = 0) →
      enters (.cpTile f) [auxBits f 5 6, r4 0, r4 1, r4 2 % 2 ^ 16, r4 2 / 2 ^ 16, r4 3, reg32 (c.a 2 c.low) 0, reg32 (c.a 2 c.low) 1]) ∧
    (len ≠ 0 → len % 4 = 0 → a4 2 + len ≤ s.scratchSize c → (auxBits f 7 2 = 2 → src + len ≤ s.scratchSize c) →
      (auxBit f 3 = true → a4 3 + 16 ≤ s.scratchSize c ∧ a4 3 % 16 = 0) → src % 4 = 0 → a4 2 % 4 = 0 →
      enters (.cpLin f) [src, a4 2, a4 3, len]) ∧
    (∀ b n, s.blockOf q g = some b → b.groups.contains (auxBits f 3 8) = true → s.launchOf g.blk = some n →
      let p := fun j => reg32 (c.b 2 c.low) j
      a4 3 ≠ 0 → a4 3 < 2 ^ (n.members (auxBits f 3 8)).length → p 0 ≠ 0 → p 0 % 4 = 0 → c.a 4 c.low % 4 = 0 → a4 2 % 4 = 0 → p 1 % 16 = 0 →
      enters (.cpMcast f) [c.a 4 c.low % 2 ^ 64, a4 2, p 1, p 0, a4 3, auxBits f 3 8]) ∧
    (Ready (.cpWptr f) f s q g → Performs (.cpWptr f) s q (c.writes 1 fun _ => ((s.cluster q.cl).chan g.ctx (immU f)).wptr) []) ∧
    (Ready (.cpCancel f) f s q g → c.act ≠ [] → s.inStep q.cl g.ctx (4 + immU f) = true →
      Ends (.cpCancel f) s c (.wait s.idle (.retry (s.cycles + 1)))) ∧
    (Ready (.cpCancel f) f s q g → c.act ≠ [] → s.inStep q.cl g.ctx (4 + immU f) = false →
      let mine := ((s.cluster q.cl).chanq.getD (immU f) []).filter (·.ctx == g.ctx)
      let s1 := s.idle.updCluster q.cl fun k => { k with chanq := k.chanq.modify (immU f) fun x => x.filter (·.ctx != g.ctx) }
      let s2 := mine.foldl (fun s d => (if auxBit f 0 then s.credit q.cl d else s).endCmd q.cl d) s1
      Ends (.cpCancel f) s c (.go (s2.updCluster q.cl fun k => k.updChan g.ctx (immU f) fun r => { r with st := 3 }) [])) ∧
    (Ready (.chain f) f s q g → c.act ≠ [] → c.a 2 c.low % 128 = 0 → g.full [.ch] = false →
      PerformsFrom (.chain f) s (s.idle.updCluster q.cl fun k =>
        { k with chainq := k.chainq ++ [c.cmd (.chain f) [c.a 2 c.low] k.chainSeq], chainSeq := (k.chainSeq + 1) % 2 ^ 24 }) q
        (c.withCmd (.chain f) .ch [] (s.cluster q.cl).chainSeq) []) ∧
    (Ready (.chainStat f) f s q g → Performs (.chainStat f) s q (c.writes 1 fun _ => if immU f = 0 then g.chainsDone
      else match (s.cluster q.cl).chainq with
        | h :: _ => if h.ctx = g.ctx ∧ h.begun then h.done else 0
        | [] => 0) [])

/-! ## Decoding, the step, traps of the operand judgements, reset and invariants -/

/-- R204, R238-R248: words of the spec's own worked encodings, and what they stand for. -/
def Obligations.DecodedWords : Prop :=
  let plain := fun vd vs0 vs1 : Nat => ({ x := false, guard := ⟨false, false, 0⟩, perm0 := .ident, perm1 := .ident, aux := 0
                                          vd := BitVec.ofNat 7 vd, vs0 := BitVec.ofNat 7 vs0, vs1 := BitVec.ofNat 7 vs1 } : Fields)
  let x := fun (aux vd vs0 vs1 : Nat) => { plain vd vs0 vs1 with x := true, aux := BitVec.ofNat 11 aux }
  decode [0x06020206, 0x99180000] =
    .ok (.add { x 0 8 4 6 with guard := ⟨true, false, 3⟩, perm0 := .rot 3 }, []) ∧
  decode [0x0D224000, 0x000003E8] = .ok (.movl (plain 9 0 0) 1000, []) ∧
  decode [0x16008205, 0x00000021] = .ok (.icmp (x 0x21 2 4 5), []) ∧
  decode [0x42620205, 0x00000063] = .ok (.fma (x 0x63 8 4 5), []) ∧
  decode [0x54820200] = .ok (.jexp (plain 8 4 0), []) ∧
  decode [0x82020504, 0x0000001A] = .ok (.ld (x 0x1A 8 10 4), []) ∧
  decode [0x8600C67E, 0x0000004A] = .ok (.st (x 0x4A 3 12 0x7E), []) ∧
  decode [0x88014506] = .ok (.atom (plain 5 10 6), []) ∧
  decode [0x8C050001] = .ok (.csgOpen (plain 20 0 1), []) ∧
  decode [0x9040C000] = .ok (.wait (plain 3 0 0), []) ∧
  decode [0xB0204000, 0x00200010] = .ok (.brp (plain 1 0 0) 0x00200010, []) ∧
  decode [0xC0800000, 0x28080C10] = .ok (.mxMma (plain 0 0 0) 0x28080C10, []) ∧
  decode [0xD0624002] = .ok (.cpWptr (plain 9 0 2), [])

/-- R238, R241: every well-formed instruction, with every operand at every value its encoding admits, is read back from its words, and
what follows them is left. -/
def Obligations.DecodeEncode : Prop :=
  ∀ i f, fieldsOf i = some f → i.wf = true → ∀ rest, decode (encode i ++ rest) = .ok (i, rest)

/-- R238-R245: whatever words are decoded, they are the words of a well-formed instruction: no bit of an accepted word is ignored. -/
def Obligations.EncodeDecode : Prop :=
  ∀ ws i rest, decode ws = .ok (i, rest) → encode i ++ rest = ws ∧ i.wf = true ∧ Instr.isEvent i = false

/-- R247, R248: the majors and minors that are assigned, with their classes; every other word is refused. -/
def Obligations.AssignedOpcodes : Prop :=
  let table : List (Nat × Nat × Nat) :=
    [(0x01, 0, 16), (0x02, 0, 16), (0x03, 0, 14), (0x04, 0, 4), (0x05, 0, 8), (0x10, 0, 16), (0x11, 0, 12), (0x12, 1, 11), (0x14, 0, 13),
     (0x15, 1, 9), (0x20, 2, 5), (0x21, 2, 5), (0x22, 2, 4), (0x23, 2, 6), (0x24, 2, 5), (0x2C, 0, 12), (0x2D, 0, 6), (0x30, 3, 10),
     (0x34, 4, 5), (0x35, 5, 2), (0x38, 6, 7), (0x39, 6, 8)]
  (table.map (·.2.2)).sum = 194 ∧
  (∀ w rest, (∀ r ∈ table, majorOf w = r.1 → r.2.2 ≤ minorOf w) → decode (w :: rest) = .error .unassigned) ∧
  (∀ i f, fieldsOf i = some f → ∃ M m, codeOf i = some (M, m) ∧
    ∃ r ∈ table, M = r.1 ∧ m < r.2.2 ∧ classOf M m = if M = 0x30 ∧ (m = 6 ∨ m = 7) then 0 else r.2.1)

/-- R195, R196, R245, log 1, DESIGN CHOICE: a step with an issue selected runs the instruction that the words at the PC of its first eligible thread
decode to, with the eligible threads that hold the same words, when no breakpoint stops it; a refused word runs as the
illegal-instruction trap. With no issue selected, the event that is due runs. -/
def Obligations.StepRunsDecoded : Prop :=
  ∀ s, s.regq = [] →
    (∀ q qs g l ls, s.sels = q :: qs → s.issGang? q = some g → g.exempt = none →
      (q.lanes.filter fun l => (g.thread l).pc == q.addr && (s.eligibles q.cl q.gangSlot g).contains l) = l :: ls →
      let q1 := { q with lanes := l :: ls.filter fun m => (g.thread m).words == (g.thread l).words }
      let s1 := { s with sels := qs, cur := some q1 }
      (∀ i rest f, decode (g.thread l).words = .ok (i, rest) → fieldsOf i = some f →
        s.dropSel.judgeBreak q1 g (q1.lanes.filter fun m => guardTrue f (g.thread m)) = none → step s = exec i s1) ∧
      (∀ r, decode (g.thread l).words = .error r → s.dropSel.judgeBreak q1 g q1.lanes = none →
        step s = exec .illegalInstruction s1)) ∧
    (s.sels = [] → ∀ a rest, s.inputs = a :: rest → a.cyc ≤ s.cycles → Instr.isEvent a.ev = true →
      step s = exec a.ev { s with inputs := rest, timeNs := max s.timeNs a.ns })

/-- R245, R454, R456: a refused word stops its gang with an illegal-instruction trap whose PC stays on the word, and changes no memory. -/
def Obligations.IllegalInstructions : Prop :=
  ∀ s q g, s.cur = some q → s.issGang? q = some g → q.scalar = false → q.slot ≠ handlerSlot →
    StopsWith .illegalInstruction s q g fun r => r.cls = 1 ∧ r.pc = q.addr ∧ r.lanemask = maskOf q.lanes

/-- R246, R454: an illegal register operand, or an indexed operand outside its window, stops the gang before the instruction is
performed, for every instruction alike; the first condition is reported before the second. -/
def Obligations.OperandTraps : Prop :=
  ∀ i f s q g, fieldsOf i = some f → s.cur = some q → s.issGang? q = some g → q.scalar = false → q.slot ≠ handlerSlot →
    let c := ctxtOf q g f
    (operandBad g.usable (shape i) f = true →
      StopsWith i s q g fun r => r.cls = 3 ∧ r.pc = q.addr ∧ r.lanemask = maskOf c.act ∧ r.actmask = maskOf c.act) ∧
    (operandBad g.usable (shape i) f = false →
      indexBad g q.lanes (shape i).vs0 f.perm0 ++ indexBad g q.lanes (shape i).vs1 f.perm1 ≠ [] →
      StopsWith i s q g fun r => r.cls = 4 ∧ r.pc = q.addr ∧
        r.lanemask = maskOf (indexBad g q.lanes (shape i).vs0 f.perm0 ++ indexBad g q.lanes (shape i).vs1 f.perm1))

/-- R459: a user handler that takes any trap ends with the verdict 2; nothing is reported to the ring, and memory stays. -/
def Obligations.HandlerTraps : Prop :=
  (∀ (c : Ctxt) len (s0 s1 : State) r, c.q.scalar = true → (s1.cluster c.q.cl).handler.isSome = true →
    ∀ t ∈ [finishIssue c len (.trap r) s1, finishIssue c len (.stop s1 r) s0, finishIssue c len (.after s1 r) s0, finishIssue c len (.on s1 r) s0],
      t.mem = s1.mem ∧ (t.cluster c.q.cl).handler.map (·.verdict) = some (some 2) ∧
      (t.cluster c.q.cl).ring = (s1.cluster c.q.cl).ring ∧ (t.cluster c.q.cl).held = (s1.cluster c.q.cl).held) ∧
  ∀ f s q g, q.scalar = true → ∀ i ∈ [Instr.trap f, .brk f], Ready i f s q g → (ctxtOf q g f).act ≠ [] →
    Goes i s fun t => t.mem = s.mem ∧ (t.cluster q.cl).handler.map (·.verdict) = some (some 2)

/-- From every state whose agenda holds only events, a step ends in a state: nothing that the package can do faults or is refused. -/
def Obligations.Progress : Prop := ∀ s : State, s.eventsOnly = true → s.safe

/-- Reset leaves memory in its canonical form and no event on the agenda. -/
def Obligations.InvariantAtReset : Prop := State.reset.Inv = true

/-- Every step keeps memory in its canonical form and an agenda of events alone. -/
def Obligations.InvariantKept : Prop := ∀ s t : State, s.Inv = true → s.steps t → t.Inv = true

/-! ## Events of the front end, of translation and of memory -/

/-- R180, R195-R200, R234, R236, R344, R396, R417, R418: what the front end's events do when their conditions hold. A thread passes a header
with its clause whole, once its condition holds, and else waits; an overdue gang is picked, and a passed-over thread of the gang that is picked issues; a yield and a sleep
end; an ended gang gives its slot back, and an ended block its place. -/
def Obligations.FrontEndEvents : Prop :=
  ∀ (s : State) (cl slot l : Nat),
    (∀ g, s.gang? cl slot = some g → s.atHeader cl slot g l = true →
      ∀ s1 h s2 ws, fetchWords s cl g.ctx g.ownIds (g.thread l).pc.toNat 1 = (s1, .words [h]) → headerBad h = false →
      fetchWords s1 cl g.ctx g.ownIds (g.thread l).pc.toNat (bitsOf h.toNat 18 6 + 1) = (s2, .words ws) → ws.head? = some h →
      clauseBad (bitsOf h.toNat 24 4) (bitsOf h.toNat 14 4) 47 0 ws.tail = false → roleBad g (slot == handlerSlot) (bitsOf h.toNat 24 4) = false →
      ∀ g2, s2.gang? cl slot = some g2 → g2.thread l = g.thread l →
      let wc := bitsOf h.toNat 10 4
      let holds := wc = 0 ∨ g.count (ctrOf wc) ≤ bitsOf h.toNat 5 5
      (holds → Goes (.headerPass cl slot l) s fun t => t.mem = s2.mem ∧ t.gang? cl slot = some (g2.updThread l fun t =>
        { t with clause := some ⟨(g.thread l).pc, ws⟩, pc := (g.thread l).target.getD ((g.thread l).pc + 4), wait := none, target := none })) ∧
      (¬holds → Goes (.headerPass cl slot l) s fun t => t.mem = s2.mem ∧ t.gang? cl slot = some (g2.updThread l fun t =>
        { t with wait := some (.counter wc (bitsOf h.toNat 5 5)) }))) ∧
    (∀ row c, overdue s.cycles ((s.candidates cl row).filter fun c => c.2.1.delayed ≤ s.cycles) = some c →
      64 ≤ s.cycles - c.2.1.picked ∧
      Goes (.starvationOverride cl row) s fun t => t.mem = s.mem ∧ t.sels = s.sels ++ issuesOf cl c.1 c.2.1 c.2.2) ∧
    (∀ c, s.choice cl (if slot = handlerSlot then 4 else slot / 16) = some c →
      (c.1 ≠ slot → exec (.pcOverride cl slot) s = .next s) ∧
      (c.1 = slot → (∃ l ∈ c.2.2, 32 ≤ (c.2.1.thread l).passed) →
      Goes (.pcOverride cl slot) s fun t => t.mem = s.mem ∧ ∃ q qs, t.sels = s.sels ++ q :: qs ∧ q.slot = slot ∧ q.portB = false ∧
        ∃ l ∈ c.2.2, 32 ≤ (c.2.1.thread l).passed ∧ q.addr = (c.2.1.thread l).pc ∧
          ∀ m ∈ c.2.2, 32 ≤ (c.2.1.thread m).passed → q.addr.toNat ≤ (c.2.1.thread m).pc.toNat)) ∧
    (∀ g, s.gang? cl slot = some g →
      (∀ a till, (g.thread l).wait = some (.yield a till) → till ≤ s.cycles → Goes (.yieldExpiry cl slot l) s fun t =>
        t.mem = s.mem ∧ t.gang? cl slot = some (g.updThread l fun t => { t with wait := none })) ∧
      (∀ till, (g.thread l).wait = some (.sleep till) → till ≤ s.cycles → Goes (.sleepExpiry cl slot l) s fun t =>
        t.mem = s.mem ∧ t.gang? cl slot = some (g.updThread l fun t => { t with wait := none }))) ∧
    (∀ g, FMap.sorted (s.cluster cl).gangs = true → (s.cluster cl).gangs.find? slot = some g → slot < 64 → g.liveLanes = [] →
      g.settledAll = true → g.finished = true →
      Goes (.registerRelease cl slot) s fun t => t.mem = s.mem ∧ t.gang? cl slot = none ∧
        (∀ d k, d ≠ cl → t.gang? d k = s.gang? d k) ∧ ∀ k, k ≠ slot → t.gang? cl k = s.gang? cl k) ∧
    (∀ key b, FMap.sorted (s.cluster cl).blocks = true → (s.cluster cl).blocks.find? key = some b → (∀ x ∈ b.gangs, x = none) →
      (s.cluster cl).cmdsOf key = [] → (s.cluster cl).rowWait = [] →
      Goes (.blockEnd cl key) s fun t => t.mem = s.mem ∧ (t.cluster cl).blocks.find? key = none ∧
        t.launches.find? b.launch = (s.launches.find? b.launch).map fun n => { n with ended := n.ended + 1 })

/-- R34, R37, R38, R43, R48-R59: table reads, A and D updates and the ends of walks; held requests; the responses RETRY, DELIVER and
ABORT, and those for a saved context; invalidation commands, which drop every entry they name and no other, their refusal and their
completion. -/
def Obligations.TranslationEvents : Prop :=
  ∀ (s : State) (p e f : Nat),
    (∀ w, (s.part p).walks.find? e = some w →
      (∀ stage level addr, w.next = some (stage, level, addr) →
        (inHbm addr = false → exec (.walkRead p e) s = .next (s.setWalk p e (w.tableOutside s stage level addr))) ∧
        (inHbm addr = true → (s.unitWaits w.cl w.ctx (addr / 128) false false).2 = false →
          ∀ s1 tg, s.resolve p w.ctx (addr / 128 * 128) [] none = (s1, .inPlace, tg) →
          let s2 := (s1.unitTrip w.cl addr false).l2Access p w.ctx ⟨addr, 8⟩ false
          let v := fromBytes (((readBytes s1.mem (addr / 128 * 128) 128).drop (addr % 128)).take 8)
          let bad := spanBad (halfMask (s1.badHalves (addr / 128))) (addr % 128) 8
          (bad = false → exec (.walkRead p e) s = .next (s2.setWalk p e
            (if stage = 2 then w.judge2 s2 level addr v else w.judge1 s2 p level addr v))) ∧
          (bad = true → exec (.walkRead p e) s = .next (s2.setWalk p e { w with result := some (.inr
            { kind := 1, stage, level, gpa := 0, tbl := stage = 2, atype := w.at', trap := some 3 }) })))) ∧
      (∀ u us, w.next = none → w.upd = u :: us → (s.unitWaits w.cl w.ctx (u.addr / 128) true false).2 = false →
        ∀ s1, s.writeGate p w.ctx (u.addr / 128 * 128) = (s1, .go) →
        let s2 := (s1.unitTrip w.cl u.addr true).l2Access p w.ctx ⟨u.addr, 8⟩ true
        (s2.readNum u.addr 8 = u.old →
          exec (.adUpdate p e) s = .next ((s2.store u.addr (toBytes 8 u.new)).setWalk p e { w with upd := us })) ∧
        (s2.readNum u.addr 8 ≠ u.old → let s3 := s2.dropLeaf p u.addr
          exec (.adUpdate p e) s = .next (s3.setWalk p e (Walk.begin s3 p w.cl w.ctx w.va w.at')))) ∧
      (∀ x, w.result = some (.inl x) → w.upd = [] → s.lanesWhere (fun _ _ _ l => l.st == .walking) = [] →
        FMap.sorted (s.part p).walks = true →
        Goes (.walkComplete p e) s fun t => t.mem = s.mem ∧ x ∈ (t.cluster w.cl).tlb ∧ x ∈ (t.part p).tlb2 ∧
          (t.part p).missq = (s.part p).missq.tail ∧ ((s.part p).missq = [] → (t.part p).walks.find? e = none))) ∧
    (∀ r, (s.func f).live.find? (·.held) = some r → f ≠ 128 → (s.func f).prqRoom = true → s.lanesWhere (fun _ _ _ l => l.st == .stalled) = [] →
      s.exportSt.getD (((s.func f).prqBase.toNat / 4096 * 4096 + 32 * ((s.func f).prqTail % ringSize (s.func f).prqCtl)) / 128) 0 ≠ 2 →
      Goes (.heldRequestWrite f) s fun t =>
        t.mem = writeBytes s.mem ((s.func f).prqBase.toNat / 4096 * 4096 + 32 * ((s.func f).prqTail % ringSize (s.func f).prqCtl))
          (((r.words (r.ctx % 4096)).map (toBytes 8)).flatten) ∧
        (t.func f).prqTail = ((s.func f).prqTail + 1) % ringSize (s.func f).prqCtl ∧
        (t.func f).live = (s.func f).live.map fun q => if q.seq == r.seq then { q with held := false } else q) ∧
    (∀ w0 r c, s.nextResponse f = some (w0, 0) → w0 / 2 ^ 36 = 0 → bitsOf w0 32 4 = c → (s.func f).live.find? (·.seq == w0 % 2 ^ 32) = some r →
      ∀ i, (c = 0 ∧ i = .retry f ∨ c = 1 ∧ i = .deliver f ∨ c = 2 ∧ i = .abortRsp f) →
      let s1 := s.updFunc f fun u =>
        { u with rsqHead := (u.rsqHead + 1) % ringSize u.rsqCtl, live := u.live.filter (·.seq != w0 % 2 ^ 32) }
      ((s1.ctx r.ctx).st ≠ 3 → exec i s = .next (match c with
        | 0 => (s1.retryReq f (w0 % 2 ^ 32)).wakeStalled
        | 1 => (s1.deliverReq f (w0 % 2 ^ 32) r).wakeStalled
        | _ => (s1.endContext r.ctx).wakeStalled)) ∧
      ((s.ctx r.ctx).st = 3 → ∀ s2, s.recordResponse r c = (s2, true) → exec i s = .next (s2.updFunc f fun u =>
        { u with rsqHead := (u.rsqHead + 1) % ringSize u.rsqCtl, live := u.live.filter (·.seq != w0 % 2 ^ 32) }))) ∧
    (∀ v, s.shut f = false →
      (tlbiBad f v = false → (s.func f).tlbiPend.length < 16 → ∀ i ∈ [Instr.tlbiNop f v, .tlbiRangeCtx f v, .tlbiRangeAll f v, .tlbiCtx f v,
          .tlbiFunction f v, .tlbiStage2Range f v, .tlbiFunctionPf f v].zipIdx, tlbiOp v = i.2 →
        Goes i.1 s fun t => t.mem = s.mem ∧ (t.func f).tlbiIssued = ((s.func f).tlbiIssued + 1) % 2 ^ 32 ∧
          (t.func f).tlbiPend.map (·.1) = (s.func f).tlbiPend.map (·.1) ++ [v] ∧
          let nop := i.2 = 0 ∨ (tlbiCount v = 0 ∧ (i.2 = 1 ∨ i.2 = 2 ∨ i.2 = 5))
          ∀ c x, x ∈ (t.cluster c).tlb ↔ x ∈ (s.cluster c).tlb ∧
            (nop ∨ x.fn ≠ tlbiTarget f v ∨ tlbiHits i.2 (tlbiCtxid v) ((s.func f).tlbiAddr.toNat / 2 ^ 18) (tlbiCount v) x = false)) ∧
      (tlbiBad f v = true → exec (.tlbiCmdRefused f v) s = .next (s.updFunc f fun u => { u with tlbiRefused := true })) ∧
      (tlbiBad f v = false → 16 ≤ (s.func f).tlbiPend.length →
        exec (.tlbiCmdRefused f v) s = .next (s.updFunc f fun u => { u with tlbiFull := true }))) ∧
    (∀ v ls rest, (s.func f).tlbiPend = (v, ls) :: rest → (∀ r ∈ ls, s.stillBound r = false) →
      Goes (.tlbiComplete f) s fun t => t.mem = s.mem ∧ (t.func f).tlbiPend = rest ∧
        (t.func f).tlbiDone = ((s.func f).tlbiDone + 1) % 2 ^ 32)

/-- R28: an entry whose V is 0 gives a translation fault at its stage and level, whatever its other bits are. Where a stage-1 leaf before it
has refused an atomic or a consignment store, that leaf's fault is the first in walk order (R34, R35). -/
def Obligations.InvalidEntries : Prop :=
  ∀ (s : State) (p level addr e : Nat) (w : Walk), inHbm addr = true → e % 2 = 0 →
    (w.refused = none →
      (w.judge1 s p level addr e).result = some (.inr { kind := 0, stage := 1, level, gpa := 0, tbl := false, atype := w.at', trap := none }) ∧
      (w.judge2 s level addr e).result =
        some (.inr { kind := 0, stage := 2, level, gpa := w.gpa, tbl := w.s1 != 4, atype := w.at', trap := none })) ∧
    (∀ l, w.refused = some l → let first := some (.inr { kind := 1, stage := 1, level := l.level, gpa := 0, tbl := false, atype := w.at', trap := none })
      (w.judge1 s p level addr e).result = first ∧ (w.judge2 s level addr e).result = first)

/-- R66: a change of a bank away from FIFO mode is refused, with FIFO_BUSY, while the FIFO is owned. -/
def Obligations.FifoBanks : Prop :=
  ∀ (s : State) (f c b : Nat) (v : BitVec 64), b < 32 → s.shut f = false → (f = 128 ∨ s.holder (partOf c) = some f) →
    (s.cluster c).bmCode ≠ 1 → (s.cluster c).mode b = 2 →
    modeAt v.toNat b ≠ 2 → (((s.cluster c).fifos.getD b ⟨none, 0, 0⟩).owner.isSome) = true →
    Goes (.bankmodeReq f c v) s fun t => (t.cluster c).mode b = 2 ∧ (t.cluster c).fifoBusy = true ∧ bitOf (t.cluster c).refmask b = true ∧
      (t.cluster c).fifos.find? b = (s.cluster c).fifos.find? b

/-- R63, R64, R80, R89-R93, R98, R128, R140, R142, R144, R146, R148, R461: what happens in the SRAM, the caches and at the homes on its
own: bank modes, soft errors, fills and grants of miss registers, evictions and promotions, write-backs, scrubbing, the flushing read,
the ticks of the cadence and the end of `fence.sc`, writes of the host, and the performance of a line of an operation at its home. -/
def Obligations.MemoryEvents : Prop :=
  ∀ (s : State) (c slice line slot lane : Nat),
    (∀ f v, s.shut f = false → (f = 128 ∨ s.holder (partOf c) = some f) →
      exec (.bankmodeReq f c v) s = .next (s.updCluster c (·.requestBanks v)) ∧
      ((s.cluster c).bmCode = 1 → exec (.bankmodeReq f c v) s = .next (s.updCluster c fun k => { k with bmCode := 3 }))) ∧
    (∀ b, b < 32 → (s.cluster c).drains.contains b = true → (∀ e ∈ (s.cluster c).l1, e.2.way ≠ b) →
      Goes (.bankDrain c b) s fun t => t.mem = s.mem ∧ (t.cluster c).drains.contains b = false ∧
        (t.cluster c).mode b = modeAt (s.cluster c).bankReq.toNat b ∧ ∀ w ∈ (t.cluster c).sram, w.1 / 16384 ≠ b) ∧
    (∀ bank w half place, exec (.softError place false) s = .next s ∧
      (Goes (.softError (.scratchWord c bank w) true) s fun t =>
        t.mem = s.mem ∧ (t.cluster c).sramPoison.getD (bank * 16384 + w % 16384) false = true) ∧
      (Goes (.softError (.hbmHalf line half) true) s fun t =>
        t.mem = s.mem ∧ t.poison.getD (line * 2 + half % 2) false = true ∧ (t.slice (homeSlice ((line * 2 + half % 2) * 64))).poison = true) ∧
      (∀ L, s.l1Find c line = some L → L.dirty = 0 →
        exec (.softError (.l1Line c line) true) s = .next (s.updL1 c (·.del line)))) ∧
    (∀ mr m w, FMap.sorted (s.slice slice).mrs = true → (s.slice slice).mrs.find? mr = some m → m.joined = [] → (s.slice slice).waits = [] →
      (m.write && bitsOf m.ways 0 32 == 0) = false → freeWay m.ways (s.l2.getD (setKey (m.line * 128)) []) = some w →
      Goes (.lineFill slice mr) s fun t => t.mem = s.mem ∧ (t.slice slice).mrs.find? mr = none ∧ (t.l2Find none (m.line * 128)).isSome = true) ∧
    (∀ i w, (∀ v ∈ (s.slice slice).waits, (s.slice slice).accepts v = true ∧ s.l2Find none (v.line * 128) = none) →
      (s.slice slice).freeReg = some i →
      (s.slice slice).waits.find? (fun w => !(s.slice slice).mrs.any fun m => m.2.line == w.line) = some w →
      Goes (.missRegisterGrant slice) s fun t => t.mem = s.mem ∧ ∃ r, (t.slice slice).mrs.find? i = some r ∧ r.line = w.line ∧ r.ctx = w.ctx ∧
        r.ways = s.waysOf w.fn ∧ r.joined.length ≤ 16 ∧ w.who ∈ r.joined) ∧
    ((s.slice slice).waits = [] → line ∈ (s.slice slice).filter →
      exec (.evictionAccepted slice line) s = .next (s.updSlice slice fun k => { k with filter := k.filter.erase line })) ∧
    (homeSlice (line * 128) = slice → ∀ L, s.l2Find none (line * 128) = some L →
      (∀ k f s1, L.rel = some (k, f) →
        (s.promote k f = (s1, true) → exec (.evictionPromotion slice line) s =
          .next (s1.updLine none (line * 128) fun l => { l with rel := none, promoted := [] })) ∧
        (s.promote k f = (s1, false) → exec (.evictionPromotion slice line) s = .next s1) ∧
        (∀ f2, ((s.promoters line).map (·.2)).eraseDups = [f2] →
          (s.promote k f2 = (s1, true) → exec (.promotionRequest slice line) s =
            .next (s1.updLine none (line * 128) fun l => { l with promoted := f2 :: l.promoted })) ∧
          (s.promote k f2 = (s1, false) → exec (.promotionRequest slice line) s = .next s1))) ∧
      (L.promoted ≠ [] → ((∀ r ∈ s.promoters line, r.2 ∈ L.promoted) →
          let s1 := s.updLine none (line * 128) fun l => { l with rel := none, promoted := [] }
          exec (.promotionAck slice line) s = .next (s1.serveRefs ((s1.promoters line).map (·.1)))) ∧
        ((∃ r ∈ s.promoters line, r.2 ∉ L.promoted) → exec (.promotionAck slice line) s = .next s)) ∧
      (Goes (.patrolScrubbing slice line) s fun t => t.mem = s.mem ∧ t.l2Find none (line * 128) = some { L with dirty := false })) ∧
    (∀ L, s.l1Find c line = some L → L.pinned = false → L.dirty ≠ 0 → L.poison = 0 →
      ∀ s1 x s2, s.translate c L.ctx L.va atWrite = (s1, .ok x) → x.far = none → inHbm x.pa = true →
      (s1.unitWaits c L.ctx (x.pa / 128) true (L.dirty == fullMask)).2 = false → s1.writeGate (partOf c) L.ctx x.pa = (s2, .go) → Memory.wf s2.mem = true →
      Goes (.l1Writeback c line) s fun t => ∀ a, readByte t.mem a =
        if a / 128 = x.pa / 128 ∧ bitOf L.dirty (a % 128) = true then L.data.getD (a % 128) 0 else readByte s2.mem a) ∧
    (∀ die pkt p, s.net.find? pkt = some p → let wait := max 1 (s.torus.getD die (0x20, 0)).1
      (p.blocked < wait → exec (.escapeMove die pkt) s = .next s) ∧
      (p.die = die → die ≠ hDie → p.chan < 2 → p.busy = 0 → s.pktHead p = true → wait ≤ p.blocked → p.here ≠ p.target →
        ∀ d, escapeDir p.x p.y p.target.x p.target.y = some d → let q := p.here.next d
        s.linkBusy q d = false → s.inBuf q d p.cls 2 = 0 →
        Goes (.escapeMove die pkt) s fun t => t.mem = s.mem ∧
          t.net.find? pkt = some { p with x := q.x, y := q.y, inp := d, chan := 2, busy := p.flits, blocked := 0, order := s.nextPkt } ∧
          (t.torus.getD die (0x20, 0)).2 = ((s.torus.getD die (0x20, 0)).2 + 1) % 2 ^ 32)) ∧
    (∀ g, s.gang? c slot = some g →
      (lane ≠ 32 → (g.thread lane).hostWrote.isSome = true → (g.thread lane).wait = some (.flushing false) →
        Goes (.flushingReadComplete c slot lane) s fun t => t.mem = s.mem ∧
          (t.gang? c slot).map Gang.strip = some (g.updThread lane fun t => { t with hostWrote := none }).strip) ∧
      (g.engWrote.isSome = true → (∃ l ∈ g.liveLanes, (g.thread l).wait = some (.flushing true)) →
        Goes (.flushingReadComplete c slot 32) s fun t => t.mem = s.mem ∧
          (t.gang? c slot).map Gang.strip = some { g.strip with engWrote := none }) ∧
      (∀ sc d n, (g.thread lane).wait = some (.fenceSc sc d (some n)) → n + (if sc = 0 then 32 else 1000) ≤ s.timeNs →
        (sc ≠ 0 → s.timeLocked = true) →
        Goes (.fenceScComplete c slot lane) s fun t => t.mem = s.mem ∧ (t.cluster c).l1 = ((s.acquireDrop c).cluster c).l1 ∧
          t.gang? c slot = some (g.updThread lane fun th => { th with wait := none }.advance th.wordsHere))) ∧
    ((32 < s.timeNs % 256 ∨ s.beats = s.timeNs / 256 + 1) → exec .heartbeatTick s = .next s) ∧
    (s.timeNs % 256 ≤ 32 → s.beats ≠ s.timeNs / 256 + 1 → Goes .heartbeatTick s fun t => t.mem = s.mem ∧ t.beats = s.timeNs / 256 + 1 ∧ ∀ k q, q ≠ handlerSlot →
      t.gang? k q = (s.gang? k q).map fun g => { g with threads := g.threads.map fun th => match th.wait with
        | some (.fenceSc 0 d none) => { th with wait := some (.fenceSc 0 d (some s.timeNs)) }
        | _ => th }) ∧
    ((s.timeLocked = false → exec .fabricCadenceTick s = .next s) ∧
      (s.timeLocked = true → Goes .fabricCadenceTick s fun t => t.mem = s.mem ∧ ∀ k q, q ≠ handlerSlot →
        t.gang? k q = (s.gang? k q).map fun g => { g with threads := g.threads.map fun th => match th.wait with
          | some (.fenceSc sc d none) =>
            let n := (d / 4000 + 1) * 4000
            if sc = 3 ∨ sc = 4 then { th with wait := some (.fenceSc sc d (if n ≤ s.timeNs then some n else none)) } else th
          | _ => th })) ∧
    (∀ b, exec (.timeLockChange b) s = .next { s with timeLocked := b }) ∧
    (∀ pa bs, inHbm pa = true → s.exportSt.getD (pa / 128) 0 ≠ 2 → s.exportSt.getD ((pa + bs.length - 1) / 128) 0 ≠ 2 →
      Memory.wf s.mem = true → Goes (.hostWrite pa bs) s fun t => (∀ i, i < bs.length → readByte t.mem (pa + i) = bs.getD i 0) ∧
        ∀ a, (a < pa ∨ pa + bs.length ≤ a) → readByte t.mem a = readByte s.mem a) ∧
    (∀ id bs, (∀ g o, s.gang? c slot = some g → g.op? id = some o →
        ∀ l ∈ o.lanes, ∀ far pa mt cg, l.st = .ready far pa mt cg → inHost pa = false) →
      Serves (.localAccessResponse c slot id bs) s (s.netDone c slot id) c slot id) ∧
    (∀ id, Serves (.stflagDepart c slot id) s s c slot id)

/-- R95-R97, R99: the torus of a C-die. Its clusters, slices, bridges and service stops are the 64 stops of the grid, each once. An output
is a minimal one exactly when it takes a packet one stop nearer, and the escape output is the first of x and then of y. A packet at the
head of its buffer that goes to another stop of its die moves one stop nearer into a buffer with room, of the escape channel only over
the escape output and into a new ring only with room for two; else it stays, and an adaptive channel counts the refused cycle. -/
def Obligations.TorusMoves : Prop :=
  (∀ d, d < 4 → let stops := (List.range 40).map (fun c => clusterStop (40 * d + c)) ++ (List.range 16).map (fun k => sliceStop (16 * d + k)) ++
      (List.range 4).map (bridgeStop d) ++ (List.range 4).map (serviceStop d)
    stops.Nodup ∧ ∀ p : Stop, p ∈ stops ↔ p.die = d ∧ p.x < 8 ∧ p.y < 8) ∧
  (∀ d e, d < 4 → e < 4 → d ≠ e → bridgeTo d e = (e + 4 - d) % 4 ∧ bridgeTo e d = (d + 4 - e) % 4 ∧ bridgeTo d hDie = 0) ∧
  ∀ (s : State) (n : Nat) (p : Packet), let dist := fun q t : Stop => ringDist q.x t.x + ringDist q.y t.y
    p.x < 8 → p.y < 8 → p.target.x < 8 → p.target.y < 8 →
    (∀ k, k ∈ p.dirs ↔ k < 4 ∧ dist (p.here.next k) p.target + 1 = dist p.here p.target) ∧
    (∀ k, escapeDir p.x p.y p.target.x p.target.y = some k → k ∈ p.dirs ∧ (k < 2 ↔ p.x ≠ p.target.x)) ∧
    (FMap.sorted s.net = true → s.net.find? n = some p → s.pktHead p = true → p.die ≠ hDie → p.toDie = p.die → p.here ≠ p.final →
      let t := s.pktMove n p
      t.mem = s.mem ∧ (∀ m, m ≠ n → t.net.find? m = s.net.find? m) ∧ ∃ q, t.net.find? n = some q ∧
        (q = { p with blocked := if p.chan = 2 then p.blocked else p.blocked + 1 } ∨
          (q.inp ∈ p.dirs ∧ q.here = p.here.next q.inp ∧ q.busy = p.flits ∧ q.blocked = 0 ∧ q.final = p.final ∧ s.linkBusy q.here q.inp = false ∧
            s.inBuf q.here q.inp p.cls q.chan < 2 ∧ (p.chan = 2 ↔ q.chan = 2) ∧
            (q.chan = 2 → escapeDir p.x p.y p.target.x p.target.y = some q.inp ∧ (p.inp ≠ q.inp → s.inBuf q.here q.inp p.cls 2 = 0)))))
/-! ## Events of the engines and of the fabric -/

/-- R75, R76, R83, R350, R359, R361, R365, R367-R382: a copy command at the head of its channel begins with what it samples, and a step of
`cp.lin` writes its bytes at their swizzled places and advances WPTR; a chain command begins with its descriptor and runs element by
element; a matrix command begins with its tensor entry and is performed; a row that waits enters its queue. -/
def Obligations.EngineEvents : Prop :=
  ∀ (s : State) (cl ch : Nat) (c : Cmd),
    (∀ cs, (s.cluster cl).chanq.getD ch [] = c :: cs →
      (c.begun = false → s.cmdReady cl c = true → ∀ e,
        (match c.instr with
          | .cpTile f => (s.cluster cl).tileBad c (tileBar f) (s.cmdBlock cl c).2 = none ∧ e = (s.cluster cl).tensor c.ctx (c.arg 0)
          | .cpLin f => linDir f ≠ 2 ∧ e = []
          | .cpMcast _ => e = s.receivers c
          | _ => False) →
        Goes (.copyCommandBegin cl ch) s fun t => t.mem = s.mem ∧
          (t.cluster cl).chanq.getD ch [] = { c with begun := true, entry := e } :: cs ∧ ((t.cluster cl).chan c.ctx ch).st = 1) ∧
      (∀ f, c.instr = .cpLin f → linDir f = 0 → linBar f = false → c.begun = true → c.free s = true →
        let n := stepLen (c.arg 0 + c.done) (c.arg 3 - c.done)
        ∀ s1 bs, engRead s (c.engOf s cl 2) ((c.arg 0 + c.done) % 2 ^ 64) n = (s1, .inl bs) →
        Goes (.copyStep cl ch) s fun t => t.mem = s1.mem ∧
          (t.cluster cl).sram = ((s1.cluster cl).swWrite (s.cmdBlock cl c).1 (linSw f) (c.arg 1 + c.done) bs).sram ∧
          ((t.cluster cl).chan c.ctx ch).wptr = (((s1.cluster cl).chan c.ctx ch).wptr + bs.length) % 2 ^ 32)) ∧
    (∀ cs, (s.cluster cl).chainq = c :: cs → c.free s = true → let d := { c with asked := none }
      (c.begun = false → s.cmdReady cl c = true → ∀ s1 bs, engRead s (d.engOf s cl 3) (c.args.getD 0 0) 128 = (s1, .inl bs) →
        let ws := (List.range 16).map fun i => fromBytes ((bs.drop (8 * i)).take 8)
        let size := (s1.cmdBlock cl c).2
        let n := chainCount ws
        badChain ws = false → (chainA ws).beyond n size = false → (chainD ws).beyond n size = false →
        (usesB ws = true → (chainB ws).beyond n size = false) → n ≠ 0 →
        Goes (.chainCommandBegin cl) s fun t => t.mem = s1.mem ∧
          (t.cluster cl).chainq = { d with begun := true, entry := ws } :: (s1.cluster cl).chainq.tail) ∧
      (c.begun = true → ∀ s1 a, readStream s cl d (chainA c.entry) c.done = (s1, .inl a) →
        ∀ s2 b, (if usesB c.entry then readStream s1 cl d (chainB c.entry) c.done else (s1, .inl 0)) = (s2, .inl b) →
        let r := chainValue c.fpmode.toNat c.entry a b
        ∀ s3, writeStream s2 cl d (chainD c.entry) c.done r.v = (s3, none) →
        let e := { d with done := c.done + 1, args := [c.args.getD 0 0, c.args.getD 1 0 ||| r.fl] }
        (c.done + 1 < chainCount c.entry → Goes (.chainElement cl) s fun t => t.mem = s3.mem ∧
          (t.cluster cl).chainq = e :: (s3.cluster cl).chainq.tail) ∧
        (chainCount c.entry ≤ c.done + 1 → exec (.chainElement cl) s = .next ((s3.chargeChain cl e).endChain cl e)))) ∧
    (∀ cs, (s.cluster cl).mxq = c :: cs →
      (c.begun = false → s.cmdReady cl c = true → ((s.cluster cl).rowWait.any fun w => c.unitsOf.contains w.unit) = false →
        (s.cluster cl).badTensor c = false → (s.cluster cl).desync c = false →
        Goes (.mxCommandBegin cl) s fun t => t.mem = s.mem ∧ ∃ e, (t.cluster cl).mxq = { c with begun := true, entry := e } :: cs) ∧
      (c.begun = true → c.free s = true →
        (∀ f, c.instr = .mxZero f → Goes (.mxCommandComplete cl) s fun t => t.mem = s.mem ∧ (t.cluster cl).mxq = cs ∧
          ∀ j, j ≤ immU f → (t.cluster cl).accRow (c.args.getD 0 0 + j) = List.replicate 128 0) ∧
        (∀ f lit, c.instr = .mxMma f lit → (mmaOf lit).acc = false → (mmaOf lit).q = false →
          let k := s.cluster cl
          let m := mmaOf lit
          Goes (.mxCommandComplete cl) s fun t => t.mem = s.mem ∧ (t.cluster cl).mxq = cs ∧
            (t.cluster cl).arow = k.arow.drop m.entries ∧
            (t.cluster cl).acc = ((m.plan k (c.args.getD 0 0) (k.arow.take m.entries)).foldl (fun (k : Cluster) x =>
              k.setAccRow x.1 (mmaRow c.fpmode.toNat [] x.2.2).1) k).acc))) ∧
    (∀ q w, (s.cluster cl).rowWait.find? (·.q == q) = some w → ((s.cluster cl).rowqs.getD q (none, [])).2.length < 16 →
      q < (s.cluster cl).rowqs.length →
      Goes (.queueRowEnter cl q) s fun t => t.mem = s.mem ∧ (t.cluster cl).rowWait = (s.cluster cl).rowWait.erase w ∧
        (t.cluster cl).rowqs.getD q (none, []) = (((s.cluster cl).rowqs.getD q (none, [])).1,
          ((s.cluster cl).rowqs.getD q (none, [])).2 ++ [w.words]))

/-- R102-R111, R115-R120: an acknowledgement, a response, a refusal and a time-out end the lanes of their request; nothing comes without the
quarters that accepted slots brought; a request of another package is refused unless an export entry admits it, and a write is then
performed; copies and exported lines go and come back; slots are formed, sent, received and sent again; a port retrains and changes
its key. -/
def Obligations.FabricEvents : Prop :=
  ∀ (s : State) (tag port line pkg : Nat) (stamp : BitVec 64),
    (∀ r, s.remotes.find? tag = some r →
      (s.takeCredit r.reply = none → exec (.remoteAck tag stamp) s = .next s ∧ ∀ data, exec (.remoteResponse tag stamp data) s = .next s) ∧
      (∀ s0, s.takeCredit r.reply = some s0 → let s1 := ((s0.merge stamp).chargeReply r r.reply).dropSent tag r
        (∀ G, r.unit = none → s1.sentGroup tag r = some G →
          ((G.a.kind = .store ∨ G.a.kind = .flag) → exec (.remoteAck tag stamp) s =
            .next (s1.endSent r G (G.all .ok))) ∧
          (∀ data s2 es, s1.respond r data G = (s2, es) → exec (.remoteResponse tag stamp data) s =
            .next (s2.endSent r G es))) ∧
        (∀ k data, r.unit = some k → data.length ≠ 1 → exec (.remoteResponse tag stamp data) s =
          .next ((s1.unitAnswered k).endUnit r k (.data data)))) ∧
      (∀ s0, ∀ i ∈ [(((s0 : State).merge stamp).chargeReply r 1, Instr.refusal tag stamp, 5), (s, .requestTimeout tag, 6)],
        (i.2.2 = 5 → s.takeCredit 1 = some s0) → (i.2.2 = 6 → r.sentNs + s.fabTimeout ≤ s.timeNs) → let s1 := i.1.dropSent tag r
        (∀ G, r.unit = none → s1.sentGroup tag r = some G → exec i.2.1 s =
          .next (s1.endSent r G (G.all (.trap i.2.2)))) ∧
        (∀ k, r.unit = some k → exec i.2.1 s = .next { s1.unitAnswered k with
          farGot := s1.farGot ++ [⟨k, [], some i.2.2, false⟩] }))) ∧
    (∀ r : RemoteReq, ∀ s0, s.takeCredit (reqQuarters r.op) = some s0 →
      (s.admits r = false → (s.portOf r.src r.pa).isSome = true → Goes (.remoteRequestArrival r) s fun t => t.mem = s.mem ∧
        ∃ st, t.fabOut = s.fabOut ++ [⟨.refusal, r.src, r.tag, [], [], st⟩]) ∧
      (∀ data mask, s.admits r = true → (s.portOf r.src r.pa).isSome = true → r.op = .write data mask → (∀ h ∈ s.heldReqs, h.pa / 128 ≠ r.pa / 128) →
        (s.unitWaits 0 nobody (r.pa / 128) true false).2 = false → s.tagBit.getD (r.pa / 128) false = false → Memory.wf s.mem = true →
        Goes (.remoteRequestArrival r) s fun t => (∀ a, readByte t.mem a =
          if a / 128 = r.pa / 128 ∧ r.pa ≤ a ∧ a < r.pa + data.length ∧ bitOf mask (a - r.pa) = true then data.getD (a - r.pa) 0
          else readByte s.mem a) ∧ t.exportSt.getD (r.pa / 128) 0 = 2 ∧
          ∃ st, t.fabOut = s.fabOut ++ [⟨.answer, r.src, r.tag, [], [], st⟩])) ∧
    (∀ s0, s.takeCredit 1 = some s0 →
      ((s.portOf pkg (line * 128)).isSome = true → Goes (.invalidation pkg line) s fun t => t.mem = s.mem ∧ t.l2Find (some pkg) (line * 128) = none ∧
        (∀ e, (e ∈ t.remotes → e.2.far = pkg → e.2.pa / 128 = line → e.2.noCopy = true)) ∧
        ∃ st, t.fabOut = s.fabOut ++ [⟨.invalidationAck, pkg, line, [], [], st⟩]) ∧
      (line ∈ s.exportInv → line ∈ s.invSent → let s1 := s0.mergeArrival.msgAnswered .invalidate s0.pkgId line
        exec (.exportInvalidationAck line) s = .next { s1 with
          exportInv := s1.exportInv.erase line, invSent := s1.invSent.erase line
          exportSt := if s1.exportSt.getD line 0 = 1 then s1.exportSt.set line 0 else s1.exportSt })) ∧
    (∀ data s0, s.exportSt.getD line 0 = 2 → s.recalls.getD line false = true → (∀ w ∈ s.heldWrites, w.1 / 128 ≠ line) → s.takeCredit 3 = some s0 → s.readyAt line = [] → Memory.wf s.mem = true →
      Goes (.recall line data) s fun t => t.exportSt.getD line 0 = 0 ∧
        ∀ a, readByte t.mem a = if line * 128 ≤ a ∧ a < line * 128 + min 128 data.length then data.getD (a - line * 128) 0
          else readByte s.mem a) ∧
    (s.carries port = true → let p := s.port port
      Goes (.slotTransmit port) s fun t => let q := t.port port
        t.mem = s.mem ∧ q.txCtr = (p.txCtr + 1) % 2 ^ 64 ∧
        (p.nak = true → q.nak = false ∧ q.replay = p.replay ∧ ∃ bs, q.slot = p.form port 2 p.txSeq bs) ∧
        (p.nak = false → q.nak = false ∧
          (p.mgmtOut = true → q.mgmtOut = false ∧ q.replay = p.replay ∧ ∃ bs, q.slot = p.form port 3 p.txSeq bs) ∧
          (p.mgmtOut = false → 0 < p.unsent → q.unsent = p.unsent - 1 ∧ q.replay = p.replay ∧
            let e := p.replay.getD (p.replay.length - p.unsent) (0, [])
            q.slot = p.form port 0 e.1 e.2) ∧
          (p.mgmtOut = false → p.unsent = 0 → 0 < p.queued → p.replay.length < 1024 → q.queued = p.queued - 4 ∧
            ∃ bs, bs.length = 236 ∧ q.slot = p.form port 0 p.txSeq bs ∧ q.replay = p.replay ++ [(p.txSeq, bs)] ∧
              q.txSeq = (p.txSeq + 1) % 4096) ∧
          (p.mgmtOut = false → p.unsent = 0 → p.queued = 0 → q.replay = p.replay ∧ ∃ bs, q.slot = p.form port 1 p.txSeq bs))) ∧
    (∀ bytes, s.carries port = true → let p := s.port port
      (crc32 (bytes.take 252) ≠ fromBytes (bytes.drop 252) → Goes (.slotReceive port bytes) s fun t => t.mem = s.mem ∧
        (t.port port).nak = true ∧ (t.port port).crcErr = min 0xFFFF (p.crcErr + 1) ∧ (t.port port).rxCtr = (p.rxCtr + 1) % 2 ^ 64) ∧
      (bytes.length = 256 → crc32 (bytes.take 252) = fromBytes (bytes.drop 252) → let hdr := fromBytes (bytes.take 4)
        hdr % 16 = 0 → bitsOf hdr 5 1 = p.epochAt p.rxCtr % 2 →
        Config.slotTagOk port p.session (p.epochAt p.rxCtr) (p.nonce port p.rxCtr) bytes = true →
        bitOf hdr 4 = false → bitsOf hdr 6 2 = 0 → bitsOf hdr 20 12 = p.rxSeq →
        Goes (.slotReceive port bytes) s fun t => t.mem = s.mem ∧ (t.port port).rxSeq = (p.rxSeq + 1) % 4096 ∧ (t.port port).ackv = true ∧
          (t.port port).nak = p.nak ∧ (t.port port).rxCtr = (p.rxCtr + 1) % 2 ^ 64 ∧ (t.port port).credit = p.credit + 4)) ∧
    (s.carries port = true → (s.port port).ackNs + 4000 ≤ s.timeNs → (s.port port).replay ≠ [] →
      ((s.port port).tries < 16 → Goes (.replayTimeout port) s fun t => t.mem = s.mem ∧ t.ports = s.ports ∧
        (t.port port).unsent = (s.port port).replay.length) ∧
      (16 ≤ (s.port port).tries → port < 16 → Goes (.replayTimeout port) s fun t => t.mem = s.mem ∧ bitOf t.ports port = false ∧
        (t.port port).replay = (s.port port).replay ∧ (t.port port).retrain = true)) ∧
    (s.carries port = false → port < 16 → let p := s.port port
      Goes (.retrainComplete port) s fun t => t.mem = s.mem ∧ t.carries port = true ∧ (t.port port).session = p.session + 1 ∧
        (t.port port).txCtr = 0 ∧ (t.port port).rxCtr = 0 ∧ (t.port port).txSeq = p.txSeq ∧ (t.port port).rxSeq = p.rxSeq ∧
        (t.port port).replay = p.replay ∧ (t.port port).unsent = p.replay.length) ∧
    ((s.port port).retrain = true → (s.port port).downNs + s.fabTimeout ≤ s.timeNs →
      ((∀ e ∈ s.remotes, e.2.port ≠ port) → Goes (.retrainTimeout port) s fun t => t.mem = s.mem ∧ t.ports = s.ports ∧
        (t.port port).retrain = false ∧ t.remotes = s.remotes) ∧
      (∀ r k, s.remotes = [(tag, r)] → r.port = port → s.portOf r.far r.pa = some k →
        Goes (.retrainTimeout port) s fun t => t.mem = s.mem ∧ t.remotes = [(tag, { r with port := k, resent := true })])) ∧
    (∀ n, s.carries port = true → (s.port port).switchAt = none → (s.port port).proposed = none →
      (s.port port).keyNs + s.keyPeriod ≤ s.timeNs → n % 2 ^ 16 = 0 → (s.port port).txCtr + 2 ^ 16 ≤ n → (s.port port).rxCtr + 2 ^ 16 ≤ n →
      exec (.keyRotation port n) s = .next (s.updPort port fun p => { p with proposed := some n, mgmtOut := true, mgmtIn := false }))

/-- R166, R168-R170, R176, R177: a consignment store at its home; a seal, which writes the record with a stamp above every acknowledgement
and frees the slot; its notices and their acknowledgements; an abort and its restores; reads of seal records by other packages, and
their answers; low-water marks; the sweep of a tag that no view needs. -/
def Obligations.ConsignmentEvents : Prop :=
  ∀ (s : State) (c slot cs f rec' csgid mrec pkg dom : Nat) (stamp : BitVec 64),
    (∀ id lane, Serves (.lineHomeStcsg c slot id lane) s s c slot id) ∧
    (∀ g, s.gang? c slot = some g → let sl := g.slotAt cs
      (sl.st = 2 → g.csgDone cs = true → s.csgExported sl = false → Memory.wf s.mem = true →
        let A := (s.func (csgVf sl.csgid)).recAt sl.mrec
        (s.unitWaits (4 * partOf c) g.ctx (A / 128) true false).2 = false →
        let T := (s.merge sl.stamp).take.1
        Goes (.sealRecord c slot cs) s fun t =>
          t.readNum A 8 = (2 ^ 48 + sl.csgid) % 2 ^ 64 ∧ t.readNum (A + 8) 8 = T.toNat ∧
          (∀ a, (a < A ∨ A + 16 ≤ a) → readByte t.mem a = readByte s.mem a) ∧
          (t.gang? c slot).map Gang.strip = some (g.closeCsg cs (some T.toNat)).strip ∧
          (t.func (csgVf sl.csgid)).notices =
            (if sl.pkgs = [] then (s.func (csgVf sl.csgid)).notices.filter (·.1 != sl.mrec)
             else (s.func (csgVf sl.csgid)).notices ++ [(sl.mrec, sl.pkgs, false, g.ctx)])) ∧
      (sl.st = 3 → g.csgDone cs = true → (s.abortWaits (partOf c) g.ctx sl).2 = false → let s1 := s.abortRec (partOf c) g.ctx sl
        exec (.abortComplete c slot cs) s = .next (s1.updGang c slot fun g =>
          if sl.pkgs.filter (· != s1.pkgId) = [] then g.closeCsg cs none
          else { g with slots := g.slots.set cs { sl with st := 4 } })) ∧
      (sl.st = 4 → s.noticeOf (csgVf sl.csgid) sl.mrec = none →
        exec (.abortComplete c slot cs) s = .next (s.updGang c slot fun g => g.closeCsg cs none))) ∧
    (csgPkg csgid = s.pkgId → let r := s.sealRec csgid mrec
      (∀ ps x, s.noticeOf (csgVf csgid) mrec = some (ps, false, x) → r.st = 1 → r.csgid = csgid → s.pkgId ∈ ps →
        (s.tagsWait csgid).2 = false → exec (.sealNotice csgid mrec stamp) s =
          .next ((s.sealTags (s.partOfCtx x) x csgid r.sealT).ackNotice (csgVf csgid) mrec s.pkgId)) ∧
      (s.noticeOf (csgVf csgid) mrec = none → exec (.sealNotice csgid mrec stamp) s = .next s)) ∧
    (∀ s0, csgPkg csgid ≠ s.pkgId → s.takeCredit 1 = some s0 → (s.portOf (csgPkg csgid) 0).isSome = true →
      ((s.tagsWait csgid).2 = false → Goes (.sealNotice csgid mrec stamp) s fun t => ∃ st, t.fabOut = s.fabOut ++ [⟨.noticeAck, csgPkg csgid, mrec, [csgid], [], st⟩]) ∧
      ((State.linesWait 0 nobody (s.restoreNeeds csgid) s).2 = false → Goes (.restoreTags csgid mrec) s fun t => t.mem = (s0.mergeArrival.restoreAll 0 nobody csgid).mem ∧
        ∃ st, t.fabOut = s.fabOut ++ [⟨.restoreAck, csgPkg csgid, mrec, [csgid], [], st⟩])) ∧
    (∀ ps ab x s0, s.noticeOf f rec' = some (ps, ab, x) → pkg ≠ s.pkgId → s.takeCredit 1 = some s0 →
      (∀ q qs, ps.filter (· != pkg) = q :: qs → Goes (.sealNoticeAck f rec' pkg stamp) s fun t => t.mem = s.mem ∧
        (t.func f).recUsed = (s.func f).recUsed ∧ t.noticeOf f rec' = some (q :: qs, ab, x)) ∧
      (ps.filter (· != pkg) = [] → Goes (.sealNoticeAck f rec' pkg stamp) s fun t => t.mem = s.mem ∧
        rec' ∉ (t.func f).recUsed ∧ t.noticeOf f rec' = none)) ∧
    (∀ s0, s.takeCredit 1 = some s0 → let a := (s.func f).recAt rec'
      (s.portOf pkg a).isSome = true → (s.unitWaits 0 nobody (a / 128) false false).2 = false → let w := fun i => s.readNum (a + 8 * i) 8
      Goes (.recordRead f rec' csgid stamp pkg) s fun t => t.mem = s.mem ∧ ∃ st, t.fabOut = s.fabOut ++
        [⟨.record, pkg, rec', [if restOk (w 2) (w 5) (w 6) (w 7) then w 0 else 2 * 2 ^ 48 + bitsOf (w 0) 0 48, w 1, csgid], [], st⟩]) ∧
    (∀ line w t0 q s0, s.asks.find? (·.1 == line) = some q → s.takeCredit 1 = some s0 → s.parkedOps line = [] →
      Goes (.recordReadAnswer line w t0 stamp) s fun t => t.mem = s.mem ∧ t.heldReqs = s.heldReqs ∧ t.asks = s.asks.erase q ∧
        t.answers = (s.answers.filter fun a => !(a.line == line && a.csgid == q.2.1 && a.snap == q.2.2)) ++
          [⟨line, q.2.1, q.2.2, w.toNat, t0.toNat⟩]) ∧
    (dom ∈ s.domains → (s.portOf (leastOf s.pkgId (s.membersOf dom)) 0).isSome = true → Goes (.lwmReport dom) s fun t => t.mem = s.mem ∧ ∃ v st,
      t.fabOut = s.fabOut ++ [⟨.lwmReport, leastOf s.pkgId (s.membersOf dom), dom, [v], [], st⟩] ∧
      ((t.lwms.getD dom ⟨[], 0⟩).reports.getD s.pkgId 0 = v) ∧
      (s.viewStamps dom ≠ [] → v ∈ s.viewStamps dom ∧ ∀ w ∈ s.viewStamps dom, v ≤ w)) ∧
    (let ms := s.membersOf dom;
      dom ∈ s.domains → leastOf s.pkgId ms = s.pkgId → (∀ p ∈ ms, (s.portOf p 0).isSome = true) → Goes (.lwmBroadcast dom) s fun t => t.mem = s.mem ∧ ∃ v out,
      t.fabOut = s.fabOut ++ out ∧ (out.map fun m => (m.kind, m.dst, m.id, m.words)) = ms.map (fun p => (.lwmCast, p, dom, [v])) ∧
      v ≤ (s.lwms.getD dom ⟨[], 0⟩).reports.getD s.pkgId 0 ∧ ∀ p ∈ ms, v ≤ (t.lwms.getD dom ⟨[], 0⟩).reports.getD p 0) ∧
    (∀ lwm, Goes (.lwmReceive dom lwm stamp) s fun t => t.mem = s.mem ∧ ∀ k, k < 128 → (t.func k).viewLwm.toNat =
      if (s.func k).domain = dom then max (s.func k).viewLwm.toNat lwm.toNat else (s.func k).viewLwm.toNat) ∧
    (∀ entry, (s.func f).vOn = true → entry < (s.func f).tagPages * 8192 →
      let t := s.tagAt f ((s.func f).vBase + 32 * entry)
      (t.st = 2 → t.sealT ≤ (s.func f).viewLwm.toNat →
        (s.tagAway t = false → exec (.tagSweep f entry) s = .next ((s.freeTag 0 nobody t).unbilled s)) ∧
        (s.tagAway t = true → exec (.tagSweep f entry) s = .next (s.recallLine (t.addr / 128)))) ∧
      ((t.st ≠ 2 ∨ (s.func f).viewLwm.toNat < t.sealT) → exec (.tagSweep f entry) s = .next s))

/-! ## Events of the queues, of energy and of power -/

/-- R187, R397-R406, R408-R410, R420-R422, R494: doorbells and queue controls; the entry at a queue's head is judged and started or
completed; a dependence is read again; a grid whose blocks have ended completes; the dispatcher takes the first eligible context, and an
unfair one is pre-empted; the slew limiter admits its batch. -/
def Obligations.QueueEvents : Prop :=
  ∀ (s : State) (f q c : Nat) (v : BitVec 64), let u := (s.func f).queue q
    (s.shut f = false →
      (Goes (.sqTail f q v) s fun t => t.mem = s.mem ∧
        (t.func f).queue q = if v.toNat < u.sqSize then { u with tail := v.toNat } else { u with stat := u.stat ||| 1 }) ∧
      (u.waiting = [] → exec (.cqHead f q v) s = .next (s.updQueue f q fun u => { u with cqHead := v.toNat })) ∧
      (u.waiting = [] → Goes (.sqCtlEnable f q v) s fun t => t.mem = s.mem ∧ let w := (t.func f).queue q
        w.on = bitOf v.toNat 0 ∧ (u.on = true → w.sqSize = u.sqSize ∧ w.cqSize = u.cqSize) ∧ w.head = u.head ∧ w.tail = u.tail ∧
        (u.on = false → bitOf v.toNat 0 = true → w.consumed = 0 ∧ w.nextCseq = 1))) ∧
    (u.on = true → u.launch = none →
      (∀ e, u.entry = some e → e.typ ≠ 1 → e.depAddr = 0 →
        (∀ s1, s.judgeHeader (u.ctxOf f) q e = (s1, .waits) → exec (.launch f q) s = .next s1) ∧
        (∀ s1 st, s.judgeHeader (u.ctxOf f) q e = (s1, .val (.inr st)) → exec (.launch f q) s = .next (s1.endEntry f q e st)) ∧
        (∀ s1 n, s.judgeHeader (u.ctxOf f) q e = (s1, .val (.inl n)) → Goes (.launch f q) s fun t => t.mem = s1.mem ∧
          t.launches.find? s1.nextLaunch = some n ∧ t.nextLaunch = s1.nextLaunch + 1 ∧
          ((t.func f).queue q).entry = none ∧ ((t.func f).queue q).launch = some s1.nextLaunch)) ∧
      (u.entry = none → ∀ s1 w, s.consume f q = (s1, some w) → let e := entryOf w
        e.typ = 1 →
        (entryBad w = true → exec (.signalEntry f q) s = .next (s1.complete f q (e.done 5 0))) ∧
        (entryBad w = false → (s.ctx (u.ctxOf f)).st ≠ 0 → (s.ctx (u.ctxOf f)).st ≠ 4 → e.depAddr = 0 →
          exec (.signalEntry f q) s = .next ((s1.updQueue f q fun u => { u with entry := some e }).endEntry f q e 0)))) ∧
    (∀ e, u.on = true → u.entry = some e → e.depAddr ≠ 0 →
      (∀ s1, s.qRead (u.ctxOf f) e.depAddr 8 = (s1, .waits) → exec (.dependenceRead f q) s = .next s1) ∧
      (∀ s1, s.qRead (u.ctxOf f) e.depAddr 8 = (s1, .fault) → exec (.dependenceRead f q) s = .next (s1.endEntry f q e 7)) ∧
      (∀ s1 bs, s.qRead (u.ctxOf f) e.depAddr 8 = (s1, .val bs) →
        (fromBytes bs < e.depVal → exec (.dependenceRead f q) s = .next s1) ∧
        (e.depVal ≤ fromBytes bs → e.typ = 1 → exec (.dependenceRead f q) s = .next (s1.endEntry f q e 0)))) ∧
    (∀ n, s.launches.search (s.canFinish f q) = some n →
      ∀ s1 m, n.2.clusters.foldl (fun (acc : State × Bool) cl => if acc.2 then acc.1.flushCluster n.1 cl n.2.ctx else acc) (s, true) =
        (s1, true) → s1.exportInv = [] → s1.wbAway n.2.ctx = false → (s1.launches.find? n.1).isSome = true →
      let s2 := s1.giveUpAway n.1 n.2.ctx
      s2.launches.find? n.1 = some m →
      exec (.entryComplete f q) s = .next (({ s2 with launches := s2.launches.del n.1 } : State).complete f q
        { seq := m.seq, status := if m.lost = 0 then 0 else 8, blocks := m.placed, compAddr := m.compAddr, compInc := m.compInc })) ∧
    ((∀ x ∈ s.ctxs, x.2.stopped = false) →
      ∀ x, s.firstCtx ((s.ctxs.map (·.1)).filter s.eligibleCtx) = some x →
      s.eligibleCtx x = true ∧ (∀ y ∈ s.ctxs, s.eligibleCtx y.1 = true → s.ctxBefore y.1 x = false) ∧
      exec .dispatchSelect s = .next (State.dispatch (s.ctxs.length - 1) [x] (s.serveCtx x)).noteBelow) ∧
    (∀ ctx i n, s.launches.find? i = some n → n.ctx = ctxOf f ctx → n.coop = true → n.placed = 0 → n.since ≠ 0 →
      n.since + 1000000 ≤ s.timeNs + 1 →
      Goes (.coopWaitLimit f ctx) s fun t => t.mem = s.mem ∧ t.launches.find? i = some { n with waited := true }) ∧
    (∀ x, (s.ctxs.map (·.1)).filter s.unfair = [x] → exec .fairnessPreempt s = .next (s.preempt x 2)) ∧
    (s.batch = [] → s.wakes ≠ [] → s.batchNs ≤ s.timeNs → Goes .slewBatch s fun t => t.mem = s.mem ∧
      t.batch.length = min s.admitRate s.wakes.length ∧ (∀ b ∈ t.batch, b ∈ s.wakes) ∧
      (∀ w, w ∈ t.wakes ↔ w ∈ s.wakes ∧ w ∉ t.batch) ∧
      (∀ b ∈ t.batch, ∀ w ∈ t.wakes, (b + 160 - s.prom) % 160 ≤ (w + 160 - s.prom) % 160) ∧
      t.batchNs = s.timeNs + 1000 ∧ t.admitNs = s.timeNs ∧ t.admitGap = 1000 / s.admitRate ∧ t.prom = (s.prom + t.batch.length) % 160) ∧
    (∀ bs, s.batch = c :: bs → s.batchStep = none →
      (s.admitNs ≤ s.timeNs →
        exec (.clusterAdmit c) s = .next (({ s with batch := bs, admitNs := s.admitNs + s.admitGap } : State).admitCluster c)) ∧
      (s.timeNs < s.admitNs → exec (.clusterAdmit c) s = .next s))

/-- R428-R437: a tick refills every bucket, saturating at CAP, charges leakage and resumes what stands at its threshold; a correction
window ends with new factors within their bounds; the shared uncore energy is charged and its sums start again; meters are shown and
read without tearing; a migration write replaces one half of a meter. -/
def Obligations.EnergyEvents : Prop :=
  ∀ (s : State) (f win : Nat) (m : MeterName) (v : BitVec 64),
    (let amounts := (s.ctxs.map (·.1)).map fun x => (x, s.refillOf x, s.capOf x)
     let s1 := amounts.foldl (fun s a => s.updCtx a.1 fun c => { c with level := refill c.level a.2.2 a.2.1 }) s
     (∀ x k, FMap.sorted s.ctxs = true → s.ctxs.find? x = some k →
       (s1.ctx x).level = if (s.capOf x : Int) ≤ k.level then k.level else min (k.level + s.refillOf x) (s.capOf x)) ∧
     exec .tick s = .next (((s.ctxs.map (·.1)).foldl State.writeLevel ((s.ctxs.map (·.1)).foldl State.resumeEnergy
       ((List.range 40).foldl State.leakPart s1))).energyPreempts)) ∧
    (∀ i ∈ [(Instr.correctionWindow, s.power.windowMs), (.corrCtl v, v.toNat % 1024)],
      (i.1 = .correctionWindow → s.power.windowNs + s.power.windowLen ≤ s.timeNs) →
      Goes i.1 s fun t => t.mem = s.mem ∧ t.power.windowMs = i.2 ∧ t.power.windowNs = s.timeNs ∧ t.uncoreRaw = 0 ∧
        (∀ p, p < 40 → (t.part p).raw = 0 ∧
          ((s.part p).raw = 0 → (t.part p).corrF = (s.part p).corrF) ∧
          ((s.part p).raw ≠ 0 → 0x1000 ≤ (t.part p).corrF ∧ (t.part p).corrF ≤ 0xFFFF)) ∧
        (s.uncoreRaw ≠ 0 → 0x1000 ≤ t.uncoreF ∧ t.uncoreF ≤ 0xFFFF)) ∧
    (Goes .sharedUncoreCharge s fun t => t.mem = s.mem ∧ t.uncoreSum = 0 ∧ (∀ c ∈ t.ctxs, c.2.uncore = 0) ∧
      ((∀ c ∈ s.ctxs, c.2.uncore = 0) →
        t.pkgMeter = s.pkgMeter.add (uncoreMeasured s.fresh * unitsPerPj - s.uncoreSum))) ∧
    (let n := (s.timeNs - (s.func f).periodNs) / (s.func f).periodLen
     (n = 0 → exec (.vfMeterUpdate f) s = .next s) ∧
     (n ≠ 0 → Goes (.vfMeterUpdate f) s fun t => t.mem = s.mem ∧ (t.func f).shown = (s.func f).meter ∧ (t.func f).meter = (s.func f).meter ∧
       (t.func f).periodNs = (s.func f).periodNs + n * (s.func f).periodLen)) ∧
    (s.shut win = false →
      (Goes (.meterLoRead win m) s fun t => t.mem = s.mem ∧ (t.shadow win m).hi = (s.meterOf win m).pj / 2 ^ 32 ∧
        (t.shadow win m).wraps = (s.meterOf win m).wraps ∧ t.meterHi win m = (s.meterOf win m).pj / 2 ^ 32) ∧
      (Goes (.meterHiRead win m) s fun t => t.mem = s.mem ∧
        (t.shadow win m).torn = ((s.shadow win m).torn || (s.shadow win m).last == 0)) ∧
      (Goes (.meterRead64 win m) s fun t => t.mem = s.mem ∧ (t.shadow win m).wraps = (s.meterOf win m).wraps ∧
        (t.shadow win m).torn = (s.shadow win m).torn)) ∧
    ((∀ c ∈ s.ctxs, fnOf c.1 = f → c.2.st ≠ 2) → let old := (s.func f).meter.pj
      (Goes (.meterMigrationWrite f 0x280 v) s fun t => t.mem = s.mem ∧
        (t.func f).meter.pj = (old / 2 ^ 32 * 2 ^ 32 + v.toNat % 2 ^ 32) % 2 ^ 64 ∧ (t.func f).meter.wraps = (s.func f).meter.wraps) ∧
      (Goes (.meterMigrationWrite f 0x284 v) s fun t => t.mem = s.mem ∧
        (t.func f).meter.pj = v.toNat % 2 ^ 32 * 2 ^ 32 + old % 2 ^ 32 ∧ (t.func f).meter.wraps = (s.func f).meter.wraps) ∧
      (Goes (.meterMigrationWrite f 0x288 v) s fun t => t.mem = s.mem ∧ (t.func f).meter.pj = old ∧
        (t.func f).meter.wraps = v.toNat % 2 ^ 16))

/-- R440-R450: a transition of an operating point by its phases; the power manager moves the ceilings of the partitions that run
highest; alarms, their actions and ends; OPMAX; demands, grants and their lapse; a step waits for its point. -/
def Obligations.PowerEvents : Prop :=
  ∀ (s : State) (p rail unit f : Nat) (v stamp : BitVec 64),
    (let pt := s.part p
     let dest := min (s.target p) (s.ceiling p)
     (pt.phase = 0 → dest < pt.op → Goes (.opTransition p) s fun t => t.mem = s.mem ∧
       t.part p = { pt with dest, trans := some dest, phase := 3 }) ∧
     (pt.phase = 0 → pt.op < dest →
       (s.stepStart (4 * (currentLimit dest - currentLimit pt.op)) = none →
         Goes (.opTransition p) s fun t => t.mem = s.mem ∧ t.part p = { pt with dest, trans := some dest, phase := 2 }) ∧
       (∀ n, s.stepStart (4 * (currentLimit dest - currentLimit pt.op)) = some n →
         Goes (.opTransition p) s fun t => t.mem = s.mem ∧ t.part p = { pt with dest, phase := 1, stepNs := n })) ∧
     (pt.phase = 1 → (dest = pt.dest → exec (.opTransition p) s = .next s) ∧
       (dest ≠ pt.dest → dest = pt.op → exec (.opTransition p) s = .next (s.updPart p fun pt => { pt with phase := 0 })) ∧
       (dest ≠ pt.dest → dest < pt.op → Goes (.opTransition p) s fun t => t.mem = s.mem ∧
         t.part p = { pt with dest, trans := some dest, phase := 3 })) ∧
     (pt.phase = 2 → exec (.voltageRampDone p) s = .next (s.updPart p fun pt => { pt with phase := 3 })) ∧
     (pt.phase = 4 → exec (.voltageRampDone p) s = .next (s.updPart p fun pt => { pt with op := pt.dest, trans := none, phase := 0 })) ∧
     (pt.phase = 3 → pt.op < pt.dest →
       exec (.clockSwitchDone p) s = .next (s.updPart p fun pt => { pt with op := pt.dest, trans := none, phase := 0 })) ∧
     (pt.phase = 3 → pt.dest ≤ pt.op → exec (.clockSwitchDone p) s = .next (s.updPart p fun pt => { pt with phase := 4 })) ∧
     (p < 40 → pt.phase = 1 → pt.stepNs ≤ s.timeNs →
       (dest = pt.dest → exec (.stepStart p) s = .next (s.updPart p fun pt => pt.begin pt.dest)) ∧
       (dest ≠ pt.dest → exec (.stepStart p) s = .next (s.updPart p fun pt => { pt with phase := 0 })))) ∧
    (∀ n, s.batchStep = some n → n ≤ s.timeNs →
      exec (.stepStart 40) s = .next { s with batchStep := none, batchNs := s.timeNs + 1000, admitNs := s.timeNs }) ∧
    (∀ w, let top := (allParts.map fun p => (s.part p).op).foldl Nat.max 0
      (Goes (.powerCheck w) s fun t => t.mem = s.mem ∧ t.power.throttled = (s.power.throttled || (s.power.below || s.anyBelow))) ∧
      (s.powerLimit < w → Goes (.powerCheck w) s fun t => t.mem = s.mem ∧ ∀ p, p < 40 →
        (t.part p).ceil = if (s.part p).op = top then (s.part p).ceil - 1 else (s.part p).ceil) ∧
      (100 * w < 95 * s.powerLimit → Goes (.powerCheck w) s fun t => t.mem = s.mem ∧ ∀ p, p < 40 →
        (t.part p).ceil = min 15 ((s.part p).ceil + 1))) ∧
    (Goes .pkgOc s fun t => t.mem = s.mem ∧ t.alarm = s.alarm ||| 1 ∧ ∀ p, p < 40 → t.ceiling p ≤ (s.part p).op - 2) ∧
    (Goes (.partOc p) s fun t => t.mem = s.mem ∧ bitOf t.alarm.toNat 1 = true ∧ t.ceiling p ≤ (s.part p).op - 2 ∧
      bitsOf t.alarm.toNat 8 6 = if bitOf s.alarm.toNat 1 then bitsOf s.alarm.toNat 8 6 else p % 64) ∧
    (Goes (.undervolt rail) s fun t => t.mem = s.mem ∧ t.alarm = s.alarm ||| 4 ∧ ∀ p ∈ railParts rail, t.ceiling p ≤ 2) ∧
    (Goes .overtemp s fun t => t.mem = s.mem ∧ t.alarm = s.alarm ||| 8 ∧ ∀ p, p < 40 → t.ceiling p ≤ 5) ∧
    (Goes .slewAlarm s fun t => t.mem = s.mem ∧ t.alarm = s.alarm ||| 16 ∧
      (bitOf s.alarm.toNat 4 = false → bitOf (s.func 128).msixMask 19 = false → t.msgs = s.msgs ++ [(128, 19)])) ∧
    (∀ cause, Goes (.alarmActionEnd cause unit) s fun t => t.mem = s.mem ∧ t.alarm = s.alarm ∧ ∀ p, p < 40 → ∀ a,
      a ∈ (t.part p).acts ↔ a ∈ (s.part p).acts ∧ ¬(a.1 = cause ∧ a.2.1 = unit ∧ a.2.2.2 ≤ s.timeNs)) ∧
    (Goes (.pwrAlarmWrite v) s fun t => t.mem = s.mem ∧ ∀ i, t.alarm.getLsbD i = (s.alarm.getLsbD i && !(i < 5 && v.getLsbD i))) ∧
    (Goes (.vfOpmaxWrite f v) s fun t => t.mem = s.mem ∧ (t.func f).opmax = v.toNat % 16 ∧ (t.func f).opdef = bitsOf v.toNat 8 4 ∧
      ∀ x, t.ctxs.find? x = (s.ctxs.find? x).map fun c =>
        if fnOf x = f then { c with grant := c.grant.map (min (v.toNat % 16)) } else c) ∧
    (s.power.on = true →
      (∀ w, (∀ p ∈ s.capMates, (s.portOf p 0).isSome = true) → Goes (.demandSend w) s fun t => t.mem = s.mem ∧ t.power.throttled = false ∧
        let pmax := if s.alarm = 0 then 3200 else 2700
        let d := max s.power.floorW (if s.power.throttled then pmax else min pmax (w + 100))
        (∃ st, t.fabOut = s.fabOut ++ s.capMates.map fun p =>
          (⟨.demand, p, s.power.demandSeq, [s.pkgId, s.power.floorW, d], [], st⟩ : FabMsg)) ∧
        (⟨s.pkgId, s.power.floorW, d, s.timeNs⟩ : Demand) ∈ t.power.demands) ∧
      (∀ pkg fl d n, Goes (.demandReceive pkg fl d stamp n) s fun t => t.mem = s.mem ∧
        t.power.demands = (s.power.demands.filter fun e => e.pkg != pkg) ++ [⟨pkg, fl, d, s.timeNs⟩]) ∧
      (let gs := grants s.power.rackCap s.liveDemands;
        s.leaderNow = some s.pkgId → (∀ g ∈ gs, (s.portOf g.1 0).isSome = true) →
        Goes .grantCompute s fun t => t.mem = s.mem ∧ t.power.grantSeq = s.power.grantSeq + 1 ∧
        ∃ st, t.fabOut = s.fabOut ++ gs.map fun g =>
          (⟨.grant, g.1, s.power.grantSeq + 1, (gs.map fun g => [g.1, g.2]).flatten, [], st⟩ : FabMsg)) ∧
      (∀ src n w, s.leaderNow = some src → (s.power.leader ≠ some src ∨ ∀ a, s.power.applied = some a → a < n) →
        Goes (.grantReceive src n w stamp) s fun t => t.mem = s.mem ∧ t.power.cap = some w ∧ t.power.applied = some n ∧
          t.power.leader = some src ∧ t.power.capNs = s.timeNs) ∧
      (periodOf s.power.capNs + 4 ≤ periodOf s.timeNs →
        exec .grantLapse s = .next (State.noteBelow { s with power := { s.power with cap := some s.power.floorW } }))) ∧
    (∀ b ds, (∀ d ∈ ds, d.floor ≤ d.demand) → (ds.map (·.floor)).sum ≤ b → ((grants b ds).map (·.2)).sum ≤ b)

/-! ## Events of the supervisor and of the host -/

/-- R454, R456-R459, R462-R466, R472-R481: held records enter the ring; GANG_CTL, the debug window and user handlers; pre-emption, saves
and resumes; sessions of profiling resources, samples, trials and capture units. -/
def Obligations.SupervisorEvents : Prop :=
  ∀ (s : State) (c slot f ctx p res row : Nat) (v : BitVec 64), let k := s.cluster c
    (∀ r rs, k.held = r :: rs → k.ring.length < 256 →
      exec (.trapRingRetry c) s = .next (s.take.2.updCluster c fun k => { k with ring := k.ring ++ [{ r with stamp := s.take.1 }], held := rs })) ∧
    (∀ g, slot < 64 → k.gangs.find? slot = some g →
      (bitOf v.toNat 1 = true → exec (.gangCtl c slot v) s = .next (s.updGang c slot fun g => { g with halt := true })) ∧
      (bitOf v.toNat 1 = false → Goes (.gangCtl c slot v) s fun t => t.mem = s.mem ∧
        ((t.cluster c).taken, (t.cluster c).ring) = (if g.records = [] then eraseRec (·.of slot g) k.taken k.ring else (k.taken, k.ring)) ∧
        let threads := if g.halt || g.tstop then g.threads.map Thread.resumed else g.threads
        ∃ e, t.gang? c slot = some { g with halt := false, tstop := false, exempt := e, records := g.records.tail, threads := threads } ∧
          ∀ pc, e = some pc → ∃ r, (k.recordsOf slot g).getLast? = some r ∧ r.cls = clsBreakpoint ∧ r.pc = pc)) ∧
    (let d := dbgSelOf k.dbgSel
     (k.gangs.find? d.slot = none → exec (.dbgDataRead c) s = .next (s.dbgCause c 1) ∧ exec (.dbgDataWrite c v) s = .next (s.dbgCause c 1)) ∧
     (∀ g, k.gangs.find? d.slot = some g →
       (g.halt = false → exec (.dbgDataRead c) s = .next (s.dbgCause c 1) ∧ exec (.dbgDataWrite c v) s = .next (s.dbgCause c 1)) ∧
       (g.halt = true → d.space < 4 → g.dbgRange d = false →
         exec (.dbgDataRead c) s = .next (s.dbgCause c 2) ∧ exec (.dbgDataWrite c v) s = .next (s.dbgCause c 2)) ∧
       (g.halt = true → d.space = 0 → g.dbgRange d = true →
         (Goes (.dbgDataRead c) s fun t => t.mem = s.mem ∧ (t.cluster c).dbgData = BitVec.ofNat 64 ((g.thread d.thread).reg d.index) ∧
           (t.cluster c).dbgStat = if (g.thread d.thread).unsettled.has d.index then k.dbgStat ||| 4 else k.dbgStat) ∧
         ((g.thread d.thread).unsettled.has d.index = true → exec (.dbgDataWrite c v) s = .next (s.dbgCause c 1)) ∧
         ((g.thread d.thread).unsettled.has d.index = false → Goes (.dbgDataWrite c v) s fun t => t.mem = s.mem ∧
           t.gang? c d.slot = some (g.updThread d.thread fun t => t.setReg d.index v.toNat))))) ∧
    (k.handler ≠ none → exec (.userHandler c) s = .next (s.updCluster c fun k => { k with ring := [], taken := k.taken ++ k.ring })) ∧
    (∀ r rs, k.handler = none → k.taken ++ k.ring = r :: rs → s.liveRecord c r = true → r.isComparator = false →
      let s1 := s.updCluster c fun k => { k with ring := [], taken := rs }
      let s2 : State := { s1 with fresh := s1.fresh + 1 }
      (s1.handlerOf r.ctx r.cls = 0 → exec (.userHandler c) s = .next ((s1.faultRecord r.ctx r).endContext r.ctx)) ∧
      (s1.handlerOf r.ctx r.cls ≠ 0 → Config.supervisor r.words s.fresh = 1 →
        exec (.userHandler c) s = .next ((s2.faultRecord r.ctx r).endContext r.ctx)) ∧
      (s1.handlerOf r.ctx r.cls ≠ 0 → 2 ≤ Config.supervisor r.words s.fresh → exec (.userHandler c) s =
        .next (s2.updGang c r.gang fun g => { g with records := g.records ++ [r] })) ∧
      (s1.handlerOf r.ctx r.cls ≠ 0 → Config.supervisor r.words s.fresh = 0 → Goes (.userHandler c) s fun t => t.mem = s.mem ∧
        (t.cluster c).ring = [] ∧ (t.cluster c).taken = rs ∧
        ∃ h, (t.cluster c).handler = some h ∧ h.slot = r.gang ∧ h.record = r ∧ h.verdict = none ∧ h.began = s.timeNs ∧
          h.gang.ctx = r.ctx ∧ (h.gang.thread 0).pc = BitVec.ofNat 64 (s1.handlerOf r.ctx r.cls))) ∧
    (∀ h, k.handler = some h → h.verdict = none → h.began + 1000000 ≤ s.timeNs →
      exec (.handlerTimeout c) s = .next (s.updCluster c fun k => { k with handler := some { h with verdict := some 2 } })) ∧
    (let x := f * 4096 + ctx % 4096
     ((s.ctx x).st = 2 → (s.ctx x).leaving = none → Goes (.ctxPreempt f ctx) s fun t => t.mem = s.mem ∧ (t.ctx x).leaving = some 1 ∧
       ∀ cl n g, n ≠ handlerSlot → t.gang? cl n = some g → g.ctx = x → g.pstop = true) ∧
     ((s.ctx x).st = 2 → exec (.ctxCmdEnd f ctx) s = .next (s.endContext x)) ∧
     ((s.ctx x).st ≠ 2 → exec (.ctxPreempt f ctx) s = .next s ∧ exec (.ctxCmdEnd f ctx) s = .next s) ∧
     ((s.ctx x).st = 2 → (s.ctx x).leaving ≠ none → s.settledCtx x = true → let s1 := (s.flushRows x).abandon x
       let cs := (s1.clusters.filter fun k => k.2.blocks.any fun b => b.2.ctx == x).map fun k => k.2.save k.1 x
       let n := saveSize cs (s1.responseRoom x)
       (s1.desc x 6 % 2 ^ 32 < n → exec (.contextSave f ctx) s = .next (s1.saveFailed x)) ∧
       (n ≤ s1.desc x 6 % 2 ^ 32 → ∀ s2 r, ({ s1 with fresh := s1.fresh + 1 } : State).swapArea (s1.partOfCtx x) x n true = (s2, r) →
         (r = .waits → exec (.contextSave f ctx) s = .next s2) ∧
         (r = .fault → exec (.contextSave f ctx) s = .next (s2.saveFailed x)) ∧
         (r = .val () → Goes (.contextSave f ctx) s fun t =>
           t.mem = s2.mem ∧ (t.ctx x).st = 3 ∧ (t.ctx x).saved = cs ∧ (t.ctx x).leaving = none))) ∧
     ((s.ctx x).st = 3 → (s.ctx x).stopped = false → let s0 := s.sampleRoots x
       let c := s.ctx x
       (State.placeSaved x c.saved [] (s0.becomeResident x) = none → exec (.contextResume f ctx) s = .next s0.noteBelow) ∧
       (∀ s1 cls s2 r, State.placeSaved x c.saved [] (s0.becomeResident x) = some (s1, cls) →
         s0.swapArea (partOf (cls.headD 0)) x (saveSize c.saved (s0.responseRoom x)) false = (s2, r) →
         (r = .waits → exec (.contextResume f ctx) s = .next s2.noteBelow) ∧
         (r = .fault → exec (.contextResume f ctx) s = .next (s2.saveFailed x).noteBelow) ∧
         (∀ s3 cls, r = .val () → State.placeSaved x c.saved [] (s2.becomeResident x) = some (s3, cls) →
           let rs := (s3.ctx x).responses
           let s4 := cls.foldl (fun s cl => s.wakeCluster cl) (s3.updCtx x fun c => { c with saved := [], responses := [] })
           let s5 : State := { s4 with launches := s4.launches.map fun n =>
             (n.1, if n.2.ctx = x then { n.2 with clusters := (n.2.clusters ++ cls).eraseDups } else n.2) }
           ∀ s6, cls.foldl (fun (acc : State × Option EngStop) cl => if acc.2.isNone then acc.1.reloadUnits x cl else acc) (s5, none) =
             (s6, none) → let s7 := (s6.forgetUnits fun k => k.x == x && k.unit == 13).putChans x
           let ls := s7.lanesWhere fun _ g _ l => g.ctx == x && l.st == .stalled
           let s8 := ((s7.setLanes ls .fresh).actSaved x rs).startOps (opsOf ls)
           exec (.contextResume f ctx) s =
             .next ((s8.partsOf x).foldl (fun s p => s.trace p 7 (64 * p + 15) 0 x 0 0 0 0) s8).noteBelow)))) ∧
    (∀ cmd, s.reaches f p = true → s.shut f = false → res < 6 → let se := (s.part p).resource res
      (cmdBad f cmd = false → ∀ i ∈ [(Instr.sessionClaim f p res cmd, 1, se.claim f (cmdVf cmd)), (.sessionRelease f p res cmd, 2, se.release f),
          (.sessionStart f p res cmd, 3, se.start f res s.timeNs (s.part p).prog), (.sessionStop f p res cmd, 4, se.stop f res s.timeNs (s.part p).prog),
          (.sessionRestore f p res cmd, 5, se.restore f res (cmdVf cmd)), (.sessionClear f p res cmd, 6, se.clear f)],
        cmdOp cmd = i.2.1 → Goes i.1 s fun t => t.mem = s.mem ∧ (t.part p).resource res = i.2.2) ∧
      (cmdBad f cmd = true → Goes (.sessionCmdRefused f p res cmd) s fun t => t.mem = s.mem ∧
        (t.part p).resource res = { se with code := 4 }) ∧
      (se.st = 0 → (se.claim f (cmdVf cmd)).ownedBy f = true ∧ ((se.claim f (cmdVf cmd)).release f).st = 0)) ∧
    (∀ n g, k.rowGang row = some (n, g) →
      (s.cycles % s.samplePeriod (partOf c) = 0 →
        exec (.pcSample c row) s = .next (s.trace (partOf c) 8 (16 * c + row) n g.ctx 0 (g.pcOf g.liveLanes) 0 0)) ∧
      (s.cycles % s.samplePeriod (partOf c) ≠ 0 → exec (.pcSample c row) s = .next s)) ∧
    (let se := (s.part p).resource 5
     se.data.running = true → se.data.startNs + max 1 (se.data.cxCtl.toNat % 2 ^ 32) * 1000 ≤ s.timeNs →
     Goes (.trialEnd p) s fun t => t.mem = s.mem ∧
       (t.part p).resource 5 = { se with data := se.data.endTrial (s.part p).prog s.timeNs false }) ∧
    (∀ u (w : BitVec 32), let h := (s.part p).hcu.getD u Hcu.reset
      (Goes (.captureSample p u w) s fun t => t.mem = s.mem ∧ let h' := (t.part p).hcu.getD u Hcu.reset
        ((bitOf h.ctl.toNat 15 = false ∨ 6 < h.ctl.toNat % 16) → h' = h) ∧
        (bitOf h.ctl.toNat 15 = true → h.ctl.toNat % 16 ≤ 6 → h'.ctl = h.ctl ∧ h'.min = min h.min w.toNat ∧ h'.max = max h.max w.toNat ∧
          h'.cnt = (h.cnt + 1) % 2 ^ 64)) ∧
      (Goes (.hcuClear p u v) s fun t => t.mem = s.mem ∧ let h' := (t.part p).hcu.getD u Hcu.reset
        h'.ctl = v &&& 0xFFFFFFFF000081FF ∧ (bitOf v.toNat 14 = true → h'.cnt = 0 ∧ h'.min = 0xFFFFFFFF ∧ h'.max = 0) ∧
        (bitOf v.toNat 14 = false → h'.cnt = h.cnt ∧ h'.bins = h.bins)))

/-- R486-R488, R491, R492, R496-R506: contexts are created, destroyed and ended and their descriptors written; resets and boot; MSI-X;
the mailbox, its semaphore and its commands; the translator; register writes. -/
def Obligations.HostEvents : Prop :=
  ∀ (s : State) (f vec : Nat) (v cmd : BitVec 64) (port : Port) (body : List (BitVec 8)),
    (s.shut f = false → let x := s.selected f
      ((s.ctx x).st = 0 → (s.func f).tblOn = true → s.badDesc x = false → Goes (.ctxCreate f) s fun t =>
        t.ctx x = { Ctx.new with st := 1, stopped := true } ∧ (t.func f).ctxResult = 0) ∧
      ((s.ctx x).st ≠ 0 → exec (.ctxCreate f) s = .next (s.ctxResult f 2)) ∧
      ((s.ctx x).st = 0 → (s.func f).tblOn = false → exec (.ctxCreate f) s = .next (s.ctxResult f 3)) ∧
      ((s.ctx x).st = 0 → (s.func f).tblOn = true → s.badDesc x = true → exec (.ctxCreate f) s = .next (s.ctxResult f 1)) ∧
      (FMap.sorted s.ctxs = true → ((s.ctx x).st = 1 ∨ (s.ctx x).st = 4) → s.bound x = false → Goes (.ctxDestroy f) s fun t =>
        (t.ctx x).st = 0 ∧ (t.func f).ctxResult = 0) ∧
      (((s.ctx x).st = 2 ∨ (s.ctx x).st = 3 ∨ s.bound x = true) → exec (.ctxDestroy f) s = .next (s.ctxResult f 2)) ∧
      ((s.ctx x).st ≠ 0 → (s.ctx x).st ≠ 4 → exec (.ctxOpEnd f) s = .next ((s.endContext x).ctxResult f 0)) ∧
      (v.toNat % 16 = 0 ∨ 3 < v.toNat % 16 → exec (.ctxOpRefused f v) s = .next (s.ctxResult f 4)) ∧
      (∀ w, w < 32 → (s.ctx x).st = 0 → descMask w ≠ 0 → Goes (.descriptorWrite f w v) s fun t => t.mem = s.mem ∧
        t.stagedWord x w = (v &&& BitVec.ofNat 64 (descMask w)).toNat)) ∧
    (∀ i ∈ [(Instr.coldReset, 0), (.warmReset, 1), (.hotReset, 2)], Memory.wf s.mem = true → Goes i.1 s fun t =>
      t.clusters = [] ∧ t.parts = [] ∧ t.funcs = [] ∧ t.ctxs = [] ∧ t.launches = [] ∧ t.remotes = [] ∧ t.timeNs = s.timeNs ∧
      (∀ a, readByte t.mem a = if inHost a then readByte s.mem a else 0) ∧
      (i.2 = 0 → t.alarm = 0 ∧ t.mgmt.epoch = s.mgmt.epoch + 1 ∧ t.mgmt.readings = 0 ∧ t.mgmt.record = s.mgmt.stored.getD s.mgmt.record ∧
        t.mgmt.active = s.mgmt.active) ∧
      (i.2 ≠ 0 → t.alarm = s.alarm &&& stickyAlarm ∧ t.mgmt.epoch = s.mgmt.epoch ∧ t.mgmt.readings = s.mgmt.readings ∧
        t.mgmt.record = s.mgmt.record) ∧
      (i.2 = 1 → t.mgmt.active = s.mgmt.nextActive) ∧ (i.2 = 2 → t.mgmt.active = s.mgmt.active ∧ t.mgmt.recovery = s.mgmt.recovery)) ∧
    (f < 128 → Goes (.functionLevelReset f) s fun t => let u := t.func f
      u.flr = true ∧ u.queues = [] ∧ u.prqSeq = 0 ∧ u.csgNext = 1 ∧ u.xcCache = []) ∧
    (Goes (.functionLevelReset 128) s fun t => t.clusters = [] ∧ t.ctxs = [] ∧ (t.func 128).flr = true) ∧
    (exec (.functionLevelResetEnd f) s = .next (s.updFunc f fun u => { u with flr := false })) ∧
    (∀ found, Goes (.boot found) s fun t => t.mem = s.mem ∧ t.pkgId = (Config.pkgIdOf s.mgmt.record).toNat % 2 ^ 10 ∧
      let good := Config.recordOk s.mgmt.record && stacksMatch s.mgmt.record found
      t.mgmt.recovery = (!good || (!s.mgmt.slotOk s.mgmt.active && !s.mgmt.slotOk (1 - s.mgmt.active))) ∧
      (good = true → s.mgmt.slotOk s.mgmt.active = false → s.mgmt.slotOk (1 - s.mgmt.active) = true → t.mgmt.active = 1 - s.mgmt.active)) ∧
    (s.shut f = false → vec < 20 → Goes (.msixUnmask f vec) s fun t => t.mem = s.mem ∧
      bitOf (t.func f).msixMask vec = false ∧ bitOf (t.func f).msixPend vec = false ∧
      t.msgs = if bitOf (s.func f).msixPend vec then s.msgs ++ [(f, vec)] else s.msgs) ∧
    (s.portShut port = false →
      (s.mgmt.owner = 0 → (s.mgmt.last ≠ portCode port ∨ s.acquiresToo (otherPort port) = false) →
        exec (.semAcquire port) s = .next (s.updMgmt fun m =>
          { m with owner := portCode port, last := portCode port, gseq := (m.gseq + 1) % 2 ^ 32, semNs := s.timeNs })) ∧
      (s.mgmt.owner = portCode port → exec (.semRelease port) s = .next (s.updMgmt fun m => { m with owner := 0 }) ∧
        exec (.semRenew port) s = .next (s.updMgmt fun m => { m with semNs := s.timeNs })) ∧
      (s.mgmt.owner ≠ portCode port → exec (.semRelease port) s = .next s ∧ exec (.semRenew port) s = .next s)) ∧
    (s.mgmt.owner ≠ 0 → s.mgmt.semNs + max 1 s.mgmt.tmo * 1000000 ≤ s.timeNs →
      exec .semTimeout s = .next (s.updMgmt fun m => { m with owner := 0, gseq := (m.gseq + 1) % 2 ^ 32 })) ∧
    (s.portShut port = false →
      let ends := fun (t : State) (status : Nat) (resp : List Byte) => match port with
        | .oob => t.mgmt.oob = (status, resp)
        | .host => t.mgmt.mbxStatus = status ∧ t.mgmt.mbxRlen = resp.length % 2 ^ 16
      let m := s.mgmt
      (mbxBad cmd = true → Goes (.badCmd port cmd body) s fun t => t.mem = s.mem ∧ ends t 3 []) ∧
      (∀ st, s.mbxStop port cmd = some st → ∀ i ∈ [(Instr.mbxStatus port cmd body, 0x01), (.signedMeterReading port cmd body, 0x02),
          (.spdmMessage port cmd body, 0x03), (.stageImage port cmd body, 0x10), (.activateSlot port cmd body, 0x11),
          (.writeConfigurationRecord port cmd body, 0x12), (.readConfigurationRecord port cmd body, 0x13), (.mbxWarmReset port cmd body, 0x20)],
        mbxOp cmd = i.2 → Goes i.1 s fun t => t.mem = s.mem ∧ ends t st [] ∧ t.mgmt.slots = m.slots ∧ t.mgmt.stored = m.stored ∧
          t.mgmt.nextActive = m.nextActive ∧ t.mgmt.minSvn = m.minSvn ∧ t.mgmt.owner = m.owner) ∧
      (s.mbxStop port cmd = none →
        (mbxOp cmd = 0x01 → Goes (.mbxStatus port cmd body) s fun t => t.mem = s.mem ∧ ∃ bs, ends t 0 bs) ∧
        (mbxOp cmd = 0x02 → Goes (.signedMeterReading port cmd body) s fun t => t.mem = s.mem ∧ t.mgmt.readings = m.readings + 1 ∧
          ∃ sig, sig.length = 132 ∧ ends t 0 (readingBytes s.pkgId (Config.readingFn body).toNat (Config.readingCtx body).toNat
            (s.readMeter (Config.readingFn body).toNat (Config.readingCtx body).toNat) s.take.1.toNat
            (m.epoch % 2 ^ 32 * 2 ^ 32 + (m.readings + 1) % 2 ^ 32) (Config.readingNonce body).toNat ++ sig)) ∧
        (mbxOp cmd = 0x03 → Goes (.spdmMessage port cmd body) s fun t => t.mem = s.mem ∧ ∃ bs, ends t 0 bs ∧ bs.length ≤ 4096 ∧
          ((body.getD 1 0 = 0xE4 ∨ body.getD 1 0 = 0xE6) → bs = [body.getD 0 0, 0x7F, 0x07, body.getD 1 0])) ∧
        (mbxOp cmd = 0x10 → Goes (.stageImage port cmd body) s fun t => t.mem = s.mem ∧
          if Config.imageOk body = true ∧ m.minSvn ≤ Config.svnOf body then
            ends t 0 [] ∧ t.mgmt.slots = m.slots.set (1 - m.active) ⟨body, Config.svnOf body⟩
          else ends t 4 [] ∧ t.mgmt.slots = m.slots) ∧
        (mbxOp cmd = 0x11 → Goes (.activateSlot port cmd body) s fun t => t.mem = s.mem ∧ ends t 0 [] ∧
          t.mgmt.nextActive = 1 - m.active ∧ t.mgmt.active = m.active ∧ m.minSvn ≤ t.mgmt.minSvn) ∧
        (mbxOp cmd = 0x12 → Goes (.writeConfigurationRecord port cmd body) s fun t => t.mem = s.mem ∧ t.mgmt.record = m.record ∧
          if Config.recordOk body = true then ends t 0 [] ∧ t.mgmt.stored = some body else ends t 4 [] ∧ t.mgmt.stored = m.stored) ∧
        (mbxOp cmd = 0x13 → Goes (.readConfigurationRecord port cmd body) s fun t => t.mem = s.mem ∧ ends t 0 m.record) ∧
        (mbxOp cmd = 0x20 → Goes (.mbxWarmReset port cmd body) s fun t => t.clusters = [] ∧ t.ctxs = [] ∧ t.alarm = s.alarm &&& stickyAlarm ∧
          t.mgmt.active = m.nextActive))) ∧
    (s.shut f = false → (s.func f).xlPend = none → let l := v.toNat % 256
      ((l = 0 ∨ l = 3) → exec (.translatorRequest f v) s = .next (({ s with xlQueue := s.xlQueue ++ [f] } : State).updFunc f fun u =>
        { u with xlPend := some l })) ∧
      (l ≠ 0 → l ≠ 3 → exec (.translatorRequest f v) s = .next (s.xlEnd f 2 0))) ∧
    ((s.func f).xlPend ≠ none → f ∉ s.xlQueue.take 4 → exec (.translatorDone f) s = .next s) ∧
    ((s.func f).xlPend ≠ none → f ∈ s.xlQueue.take 4 → let u := s.func f
      let rd := s.xlAccess f (readPieces (fun s q => s.gpaRead1 0 (f * 4096) q) none (linePieces u.xlSrc.toNat u.xlSlen.toNat))
      (∀ s1, rd = (s1, .waits) → exec (.translatorDone f) s = .next s1) ∧
      (∀ s1, rd = (s1, .fault) → exec (.translatorDone f) s = .next (s1.xlEnd f 5 0)) ∧
      (∀ s1 text, rd = (s1, .val text) → let h := (Config.sha512 text).toNat
        let keeps := fun (st : Nat) (out : List Byte) => let s2 := s1.xlCopy f st out
          ((s2.func f).xlPend = none → exec (.translatorDone f) s = .next (s2.updFunc f fun u => u.xcPut h out)) ∧
          ((s2.func f).xlPend ≠ none → exec (.translatorDone f) s = .next s2)
        (∀ e, u.xcOn = true → u.xcCache.find? (·.1 == h) = some e → keeps 1 e.2) ∧
        ((u.xcOn = false ∨ u.xcCache.find? (·.1 == h) = none) →
          (asmText text = none → exec (.translatorDone f) s = .next (s1.xlEnd f 3 0)) ∧
          (∀ out, asmText text = some out → u.xcOn = true → keeps 0 out) ∧
          (∀ out, asmText text = some out → u.xcOn = false → exec (.translatorDone f) s = .next (s1.xlCopy f 6 out))))) ∧
    (bitOf v.toNat 0 = true → Goes (.xcBaseEnable f v) s fun t => t.mem = s.mem ∧ (t.func f).xcCache = [] ∧ (t.func f).xcOn = true ∧
      ((s.func f).xcOn = true → (t.func f).xcBase = (s.func f).xcBase)) ∧
    (∀ win off len, off % 8 + len ≤ 8 → 0 < len → s.closed win off = true → exec (.registerWrite win off len v) s = .next s) ∧
    (f < 128 → s.closed f 0x940 = false → Goes (.registerWrite f 0x940 8 v) s fun t => t.mem = s.mem ∧
      s.func f = { t.func f with ctxSel := (s.func f).ctxSel } ∧ (t.func f).ctxSel % 4096 = v.toNat % 4096) ∧
    (s.closed 128 0x460000 = false → Goes (.registerWrite 128 0x460000 8 v) s fun t => t.mem = s.mem ∧
      t.quantum % 2 ^ 16 = v.toNat / 2 ^ 48 ∧ t.perUs = v.toNat % 256)

end Statements
end

