-- ==== Sys2Proof/Laws/FMap.lean ====
section
/-! SUPPORT. Laws of finite maps: reading after writing, and the canonical form. -/

namespace Sys2Proof.Machine

variable {α : Type}

@[simp] theorem FMap.find?_nil (n : Nat) : FMap.find? ([] : FMap α) n = none := rfl

/-- Reading what was written. -/
@[simp] theorem FMap.find?_set_self (m : FMap α) (n : Nat) (v : α) : (m.set n v).find? n = some v := by
  induction m with
  | nil => simp [FMap.set, FMap.find?]
  | cons e m ih =>
    obtain ⟨k, w⟩ := e
    simp only [FMap.set]
    split
    · simp [FMap.find?]
    · split
      · simp [FMap.find?]
      · simp only [FMap.find?]
        rw [if_neg (by omega), if_neg (by omega), ih]

/-- A write leaves every other key alone. -/
theorem FMap.find?_set_ne (m : FMap α) {n k : Nat} (v : α) (h : k ≠ n) : (m.set n v).find? k = m.find? k := by
  induction m with
  | nil => simp [FMap.set, FMap.find?, Ne.symm h]
  | cons e m ih =>
    obtain ⟨a, w⟩ := e
    simp only [FMap.set]
    split
    · rename_i hlt
      simp only [FMap.find?, if_neg (Ne.symm h)]
      split
      · rw [if_neg (by omega), if_pos (by omega)]
      · rfl
    · split
      · rename_i heq
        subst heq
        simp only [FMap.find?, if_neg (Ne.symm h)]
      · simp only [FMap.find?, ih]

/-- Reading after writing, either way. -/
theorem FMap.find?_set (m : FMap α) (n k : Nat) (v : α) :
    (m.set n v).find? k = if k = n then some v else m.find? k := by
  split
  · rename_i h; rw [h, find?_set_self]
  · rename_i h; exact find?_set_ne m v h

@[simp] theorem FMap.getD_set_self (m : FMap α) (n : Nat) (v d : α) : (m.set n v).getD n d = v := by
  simp [FMap.getD]

theorem FMap.getD_set_ne (m : FMap α) {n k : Nat} (v d : α) (h : k ≠ n) : (m.set n v).getD k d = m.getD k d := by
  simp [FMap.getD, find?_set_ne m v h]

theorem FMap.getD_set (m : FMap α) (n k : Nat) (v d : α) :
    (m.set n v).getD k d = if k = n then v else m.getD k d := by
  simp only [FMap.getD, find?_set]; split <;> rfl

/-- Adjusting a listed key. -/
theorem FMap.find?_adjust_self (m : FMap α) (n : Nat) (f : α → α) : (m.adjust n f).find? n = (m.find? n).map f := by
  unfold FMap.adjust
  split
  · rename_i v h; simp [h]
  · rename_i h; simp [h]

theorem FMap.find?_adjust_ne (m : FMap α) {n k : Nat} (f : α → α) (h : k ≠ n) :
    (m.adjust n f).find? k = m.find? k := by
  unfold FMap.adjust
  split
  · exact find?_set_ne m _ h
  · rfl

/-- Mapping the values. -/
theorem FMap.find?_map {β : Type} (m : FMap α) (f : α → β) (n : Nat) :
    FMap.find? (m.map fun e => (e.1, f e.2)) n = (m.find? n).map f := by
  induction m with
  | nil => rfl
  | cons e m ih =>
    obtain ⟨k, w⟩ := e
    simp only [List.map_cons, FMap.find?, ih]
    split
    · rfl
    · split <;> rfl

/-- Mapping key and value pairs. -/
theorem FMap.find?_mapKey {β : Type} (m : FMap α) (f : Nat → α → β) (n : Nat) :
    FMap.find? (m.map fun e => (e.1, f e.1 e.2)) n = (m.find? n).map (f n) := by
  induction m with
  | nil => rfl
  | cons e m ih =>
    obtain ⟨k, w⟩ := e
    simp only [List.map_cons, FMap.find?, ih]
    split
    · rename_i h; simp [h]
    · split <;> rfl

/-! ## The canonical form -/

/-- The head's key is below a bound. -/
def FMap.below (m : FMap α) (b : Nat) : Bool := match m with | [] => true | (k, _) :: _ => b < k

theorem FMap.sorted_cons (k : Nat) (v : α) (m : FMap α) :
    FMap.sorted ((k, v) :: m) = (FMap.below m k && FMap.sorted m) := by
  cases m with
  | nil => rfl
  | cons e m => obtain ⟨a, w⟩ := e; rfl

theorem FMap.below_set (m : FMap α) (b n : Nat) (v : α) (h : FMap.below m b = true) (hn : b < n) :
    FMap.below (m.set n v) b = true := by
  cases m with
  | nil => simpa [FMap.set, FMap.below] using hn
  | cons e m =>
    obtain ⟨k, w⟩ := e
    simp only [FMap.set]
    split
    · simpa [FMap.below] using hn
    · split
      · simpa [FMap.below] using hn
      · simpa [FMap.below] using h

/-- A write keeps the canonical form. -/
theorem FMap.sorted_set (m : FMap α) (n : Nat) (v : α) (h : FMap.sorted m = true) : FMap.sorted (m.set n v) = true := by
  induction m with
  | nil => rfl
  | cons e m ih =>
    obtain ⟨k, w⟩ := e
    rw [FMap.sorted_cons, Bool.and_eq_true] at h
    simp only [FMap.set]
    split
    · rename_i hlt
      rw [FMap.sorted_cons, FMap.sorted_cons, h.1, h.2]
      simpa [FMap.below] using hlt
    · split
      · rename_i heq; subst heq; rw [FMap.sorted_cons, h.1, h.2]; rfl
      · rw [FMap.sorted_cons, ih h.2, FMap.below_set m k n v h.1 (by omega)]; rfl

theorem FMap.below_trans (m : FMap α) (a b : Nat) (h : FMap.below m b = true) (hab : a ≤ b) : FMap.below m a = true := by
  cases m with
  | nil => rfl
  | cons e m => simp only [FMap.below, decide_eq_true_eq] at h ⊢; omega

theorem FMap.below_del (m : FMap α) (b n : Nat) (h : FMap.below m b = true) (hs : FMap.sorted m = true) :
    FMap.below (m.del n) b = true := by
  cases m with
  | nil => rfl
  | cons e m =>
    obtain ⟨k, w⟩ := e
    rw [FMap.sorted_cons, Bool.and_eq_true] at hs
    simp only [FMap.below, decide_eq_true_eq] at h
    simp only [FMap.del]
    split
    · exact FMap.below_trans m b k hs.1 (by omega)
    · split <;> simpa [FMap.below] using h

/-- A removal keeps the canonical form. -/
theorem FMap.sorted_del (m : FMap α) (n : Nat) (h : FMap.sorted m = true) : FMap.sorted (m.del n) = true := by
  induction m with
  | nil => rfl
  | cons e m ih =>
    obtain ⟨k, w⟩ := e
    have h' := h
    rw [FMap.sorted_cons, Bool.and_eq_true] at h'
    simp only [FMap.del]
    split
    · exact h'.2
    · split
      · exact h
      · rw [FMap.sorted_cons, ih h'.2, FMap.below_del m k n h'.1 h'.2]; rfl

theorem FMap.find?_below (m : FMap α) (b n : Nat) (h : FMap.below m b = true) (hn : n ≤ b) : m.find? n = none := by
  cases m with
  | nil => rfl
  | cons e m =>
    obtain ⟨k, w⟩ := e
    simp only [FMap.below, decide_eq_true_eq] at h
    simp only [FMap.find?]
    rw [if_neg (by omega), if_pos (by omega)]

/-- Reading a removed key. -/
theorem FMap.find?_del_self (m : FMap α) (n : Nat) (h : FMap.sorted m = true) : (m.del n).find? n = none := by
  induction m with
  | nil => rfl
  | cons e m ih =>
    obtain ⟨k, w⟩ := e
    rw [FMap.sorted_cons, Bool.and_eq_true] at h
    simp only [FMap.del]
    split
    · rename_i hk; subst hk; exact FMap.find?_below m _ _ h.1 (Nat.le_refl _)
    · split
      · simp only [FMap.find?]; rw [if_neg (by assumption), if_pos (by assumption)]
      · simp only [FMap.find?]; rw [if_neg (by assumption), if_neg (by assumption)]; exact ih h.2

/-- A removal leaves every other key alone. -/
theorem FMap.find?_del_ne (m : FMap α) {n k : Nat} (hs : FMap.sorted m = true) (h : k ≠ n) :
    (m.del n).find? k = m.find? k := by
  induction m with
  | nil => rfl
  | cons e m ih =>
    obtain ⟨a, w⟩ := e
    have hs' := hs
    rw [FMap.sorted_cons, Bool.and_eq_true] at hs'
    simp only [FMap.del]
    split
    · rename_i ha
      subst ha
      simp only [FMap.find?, if_neg (Ne.symm h)]
      split
      · exact FMap.find?_below m _ _ hs'.1 (by omega)
      · rfl
    · split
      · rfl
      · simp only [FMap.find?, ih hs'.2]

end Sys2Proof.Machine
end

