-- ==== Sys2Proof/Laws/State.lean ====
section
/-! SUPPORT. What each update of the state leaves: one lemma for each field and update, and the part that it changes. -/

namespace Sys2Proof.Machine

/-! ## updCluster -/

@[simp] theorem State.updCluster_cur (s : State) (c : Nat) (f : Cluster → Cluster) : (s.updCluster c f).cur = s.cur := rfl
@[simp] theorem State.updCluster_sels (s : State) (c : Nat) (f : Cluster → Cluster) : (s.updCluster c f).sels = s.sels := rfl
@[simp] theorem State.updCluster_inputs (s : State) (c : Nat) (f : Cluster → Cluster) : (s.updCluster c f).inputs = s.inputs := rfl
@[simp] theorem State.updCluster_regq (s : State) (c : Nat) (f : Cluster → Cluster) : (s.updCluster c f).regq = s.regq := rfl
@[simp] theorem State.updCluster_xlQueue (s : State) (c : Nat) (f : Cluster → Cluster) : (s.updCluster c f).xlQueue = s.xlQueue := rfl
@[simp] theorem State.updCluster_turn (s : State) (c : Nat) (f : Cluster → Cluster) : (s.updCluster c f).turn = s.turn := rfl
@[simp] theorem State.updCluster_cycles (s : State) (c : Nat) (f : Cluster → Cluster) : (s.updCluster c f).cycles = s.cycles := rfl
@[simp] theorem State.updCluster_fresh (s : State) (c : Nat) (f : Cluster → Cluster) : (s.updCluster c f).fresh = s.fresh := rfl
@[simp] theorem State.updCluster_timeNs (s : State) (c : Nat) (f : Cluster → Cluster) : (s.updCluster c f).timeNs = s.timeNs := rfl
@[simp] theorem State.updCluster_timeLocked (s : State) (c : Nat) (f : Cluster → Cluster) : (s.updCluster c f).timeLocked = s.timeLocked := rfl
@[simp] theorem State.updCluster_beats (s : State) (c : Nat) (f : Cluster → Cluster) : (s.updCluster c f).beats = s.beats := rfl
@[simp] theorem State.updCluster_hlc (s : State) (c : Nat) (f : Cluster → Cluster) : (s.updCluster c f).hlc = s.hlc := rfl
@[simp] theorem State.updCluster_parts (s : State) (c : Nat) (f : Cluster → Cluster) : (s.updCluster c f).parts = s.parts := rfl
@[simp] theorem State.updCluster_funcs (s : State) (c : Nat) (f : Cluster → Cluster) : (s.updCluster c f).funcs = s.funcs := rfl
@[simp] theorem State.updCluster_ctxs (s : State) (c : Nat) (f : Cluster → Cluster) : (s.updCluster c f).ctxs = s.ctxs := rfl
@[simp] theorem State.updCluster_pkgMeter (s : State) (c : Nat) (f : Cluster → Cluster) : (s.updCluster c f).pkgMeter = s.pkgMeter := rfl
@[simp] theorem State.updCluster_uncoreF (s : State) (c : Nat) (f : Cluster → Cluster) : (s.updCluster c f).uncoreF = s.uncoreF := rfl
@[simp] theorem State.updCluster_uncoreRaw (s : State) (c : Nat) (f : Cluster → Cluster) : (s.updCluster c f).uncoreRaw = s.uncoreRaw := rfl
@[simp] theorem State.updCluster_alarm (s : State) (c : Nat) (f : Cluster → Cluster) : (s.updCluster c f).alarm = s.alarm := rfl
@[simp] theorem State.updCluster_uncoreSum (s : State) (c : Nat) (f : Cluster → Cluster) : (s.updCluster c f).uncoreSum = s.uncoreSum := rfl
@[simp] theorem State.updCluster_l2 (s : State) (c : Nat) (f : Cluster → Cluster) : (s.updCluster c f).l2 = s.l2 := rfl
@[simp] theorem State.updCluster_slices (s : State) (c : Nat) (f : Cluster → Cluster) : (s.updCluster c f).slices = s.slices := rfl
@[simp] theorem State.updCluster_poison (s : State) (c : Nat) (f : Cluster → Cluster) : (s.updCluster c f).poison = s.poison := rfl
@[simp] theorem State.updCluster_tagBit (s : State) (c : Nat) (f : Cluster → Cluster) : (s.updCluster c f).tagBit = s.tagBit := rfl
@[simp] theorem State.updCluster_exportSt (s : State) (c : Nat) (f : Cluster → Cluster) : (s.updCluster c f).exportSt = s.exportSt := rfl
@[simp] theorem State.updCluster_exportInv (s : State) (c : Nat) (f : Cluster → Cluster) : (s.updCluster c f).exportInv = s.exportInv := rfl
@[simp] theorem State.updCluster_invSent (s : State) (c : Nat) (f : Cluster → Cluster) : (s.updCluster c f).invSent = s.invSent := rfl
@[simp] theorem State.updCluster_recalls (s : State) (c : Nat) (f : Cluster → Cluster) : (s.updCluster c f).recalls = s.recalls := rfl
@[simp] theorem State.updCluster_heldWrites (s : State) (c : Nat) (f : Cluster → Cluster) : (s.updCluster c f).heldWrites = s.heldWrites := rfl
@[simp] theorem State.updCluster_exports (s : State) (c : Nat) (f : Cluster → Cluster) : (s.updCluster c f).exports = s.exports := rfl
@[simp] theorem State.updCluster_fabCtl (s : State) (c : Nat) (f : Cluster → Cluster) : (s.updCluster c f).fabCtl = s.fabCtl := rfl
@[simp] theorem State.updCluster_remotes (s : State) (c : Nat) (f : Cluster → Cluster) : (s.updCluster c f).remotes = s.remotes := rfl
@[simp] theorem State.updCluster_nextTag (s : State) (c : Nat) (f : Cluster → Cluster) : (s.updCluster c f).nextTag = s.nextTag := rfl
@[simp] theorem State.updCluster_fabOut (s : State) (c : Nat) (f : Cluster → Cluster) : (s.updCluster c f).fabOut = s.fabOut := rfl
@[simp] theorem State.updCluster_sentMsgs (s : State) (c : Nat) (f : Cluster → Cluster) : (s.updCluster c f).sentMsgs = s.sentMsgs := rfl
@[simp] theorem State.updCluster_aborts (s : State) (c : Nat) (f : Cluster → Cluster) : (s.updCluster c f).aborts = s.aborts := rfl
@[simp] theorem State.updCluster_heldReqs (s : State) (c : Nat) (f : Cluster → Cluster) : (s.updCluster c f).heldReqs = s.heldReqs := rfl
@[simp] theorem State.updCluster_msgs (s : State) (c : Nat) (f : Cluster → Cluster) : (s.updCluster c f).msgs = s.msgs := rfl
@[simp] theorem State.updCluster_ports (s : State) (c : Nat) (f : Cluster → Cluster) : (s.updCluster c f).ports = s.ports := rfl
@[simp] theorem State.updCluster_launches (s : State) (c : Nat) (f : Cluster → Cluster) : (s.updCluster c f).launches = s.launches := rfl
@[simp] theorem State.updCluster_nextLaunch (s : State) (c : Nat) (f : Cluster → Cluster) : (s.updCluster c f).nextLaunch = s.nextLaunch := rfl
@[simp] theorem State.updCluster_wakes (s : State) (c : Nat) (f : Cluster → Cluster) : (s.updCluster c f).wakes = s.wakes := rfl
@[simp] theorem State.updCluster_asks (s : State) (c : Nat) (f : Cluster → Cluster) : (s.updCluster c f).asks = s.asks := rfl
@[simp] theorem State.updCluster_answers (s : State) (c : Nat) (f : Cluster → Cluster) : (s.updCluster c f).answers = s.answers := rfl
@[simp] theorem State.updCluster_quantum (s : State) (c : Nat) (f : Cluster → Cluster) : (s.updCluster c f).quantum = s.quantum := rfl
@[simp] theorem State.updCluster_perUs (s : State) (c : Nat) (f : Cluster → Cluster) : (s.updCluster c f).perUs = s.perUs := rfl
@[simp] theorem State.updCluster_prom (s : State) (c : Nat) (f : Cluster → Cluster) : (s.updCluster c f).prom = s.prom := rfl
@[simp] theorem State.updCluster_batch (s : State) (c : Nat) (f : Cluster → Cluster) : (s.updCluster c f).batch = s.batch := rfl
@[simp] theorem State.updCluster_batchNs (s : State) (c : Nat) (f : Cluster → Cluster) : (s.updCluster c f).batchNs = s.batchNs := rfl
@[simp] theorem State.updCluster_batchStep (s : State) (c : Nat) (f : Cluster → Cluster) : (s.updCluster c f).batchStep = s.batchStep := rfl
@[simp] theorem State.updCluster_admitNs (s : State) (c : Nat) (f : Cluster → Cluster) : (s.updCluster c f).admitNs = s.admitNs := rfl
@[simp] theorem State.updCluster_admitGap (s : State) (c : Nat) (f : Cluster → Cluster) : (s.updCluster c f).admitGap = s.admitGap := rfl
@[simp] theorem State.updCluster_power (s : State) (c : Nat) (f : Cluster → Cluster) : (s.updCluster c f).power = s.power := rfl
@[simp] theorem State.updCluster_mgmt (s : State) (c : Nat) (f : Cluster → Cluster) : (s.updCluster c f).mgmt = s.mgmt := rfl
@[simp] theorem State.updCluster_shadows (s : State) (c : Nat) (f : Cluster → Cluster) : (s.updCluster c f).shadows = s.shadows := rfl
@[simp] theorem State.updCluster_lwms (s : State) (c : Nat) (f : Cluster → Cluster) : (s.updCluster c f).lwms = s.lwms := rfl
@[simp] theorem State.updCluster_portSt (s : State) (c : Nat) (f : Cluster → Cluster) : (s.updCluster c f).portSt = s.portSt := rfl
@[simp] theorem State.updCluster_torus (s : State) (c : Nat) (f : Cluster → Cluster) : (s.updCluster c f).torus = s.torus := rfl
@[simp] theorem State.updCluster_escNew (s : State) (c : Nat) (f : Cluster → Cluster) : (s.updCluster c f).escNew = s.escNew := rfl
@[simp] theorem State.updCluster_net (s : State) (c : Nat) (f : Cluster → Cluster) : (s.updCluster c f).net = s.net := rfl
@[simp] theorem State.updCluster_nextPkt (s : State) (c : Nat) (f : Cluster → Cluster) : (s.updCluster c f).nextPkt = s.nextPkt := rfl
@[simp] theorem State.updCluster_farGot (s : State) (c : Nat) (f : Cluster → Cluster) : (s.updCluster c f).farGot = s.farGot := rfl
@[simp] theorem State.updCluster_frq (s : State) (c : Nat) (f : Cluster → Cluster) : (s.updCluster c f).frq = s.frq := rfl
@[simp] theorem State.updCluster_mem (s : State) (c : Nat) (f : Cluster → Cluster) : (s.updCluster c f).mem = s.mem := rfl

/-! ## updGang -/

@[simp] theorem State.updGang_cur (s : State) (c slot : Nat) (f : Gang → Gang) : (s.updGang c slot f).cur = s.cur := rfl
@[simp] theorem State.updGang_sels (s : State) (c slot : Nat) (f : Gang → Gang) : (s.updGang c slot f).sels = s.sels := rfl
@[simp] theorem State.updGang_inputs (s : State) (c slot : Nat) (f : Gang → Gang) : (s.updGang c slot f).inputs = s.inputs := rfl
@[simp] theorem State.updGang_regq (s : State) (c slot : Nat) (f : Gang → Gang) : (s.updGang c slot f).regq = s.regq := rfl
@[simp] theorem State.updGang_xlQueue (s : State) (c slot : Nat) (f : Gang → Gang) : (s.updGang c slot f).xlQueue = s.xlQueue := rfl
@[simp] theorem State.updGang_turn (s : State) (c slot : Nat) (f : Gang → Gang) : (s.updGang c slot f).turn = s.turn := rfl
@[simp] theorem State.updGang_cycles (s : State) (c slot : Nat) (f : Gang → Gang) : (s.updGang c slot f).cycles = s.cycles := rfl
@[simp] theorem State.updGang_fresh (s : State) (c slot : Nat) (f : Gang → Gang) : (s.updGang c slot f).fresh = s.fresh := rfl
@[simp] theorem State.updGang_timeNs (s : State) (c slot : Nat) (f : Gang → Gang) : (s.updGang c slot f).timeNs = s.timeNs := rfl
@[simp] theorem State.updGang_timeLocked (s : State) (c slot : Nat) (f : Gang → Gang) : (s.updGang c slot f).timeLocked = s.timeLocked := rfl
@[simp] theorem State.updGang_beats (s : State) (c slot : Nat) (f : Gang → Gang) : (s.updGang c slot f).beats = s.beats := rfl
@[simp] theorem State.updGang_hlc (s : State) (c slot : Nat) (f : Gang → Gang) : (s.updGang c slot f).hlc = s.hlc := rfl
@[simp] theorem State.updGang_parts (s : State) (c slot : Nat) (f : Gang → Gang) : (s.updGang c slot f).parts = s.parts := rfl
@[simp] theorem State.updGang_funcs (s : State) (c slot : Nat) (f : Gang → Gang) : (s.updGang c slot f).funcs = s.funcs := rfl
@[simp] theorem State.updGang_ctxs (s : State) (c slot : Nat) (f : Gang → Gang) : (s.updGang c slot f).ctxs = s.ctxs := rfl
@[simp] theorem State.updGang_pkgMeter (s : State) (c slot : Nat) (f : Gang → Gang) : (s.updGang c slot f).pkgMeter = s.pkgMeter := rfl
@[simp] theorem State.updGang_uncoreF (s : State) (c slot : Nat) (f : Gang → Gang) : (s.updGang c slot f).uncoreF = s.uncoreF := rfl
@[simp] theorem State.updGang_uncoreRaw (s : State) (c slot : Nat) (f : Gang → Gang) : (s.updGang c slot f).uncoreRaw = s.uncoreRaw := rfl
@[simp] theorem State.updGang_alarm (s : State) (c slot : Nat) (f : Gang → Gang) : (s.updGang c slot f).alarm = s.alarm := rfl
@[simp] theorem State.updGang_uncoreSum (s : State) (c slot : Nat) (f : Gang → Gang) : (s.updGang c slot f).uncoreSum = s.uncoreSum := rfl
@[simp] theorem State.updGang_l2 (s : State) (c slot : Nat) (f : Gang → Gang) : (s.updGang c slot f).l2 = s.l2 := rfl
@[simp] theorem State.updGang_slices (s : State) (c slot : Nat) (f : Gang → Gang) : (s.updGang c slot f).slices = s.slices := rfl
@[simp] theorem State.updGang_poison (s : State) (c slot : Nat) (f : Gang → Gang) : (s.updGang c slot f).poison = s.poison := rfl
@[simp] theorem State.updGang_tagBit (s : State) (c slot : Nat) (f : Gang → Gang) : (s.updGang c slot f).tagBit = s.tagBit := rfl
@[simp] theorem State.updGang_exportSt (s : State) (c slot : Nat) (f : Gang → Gang) : (s.updGang c slot f).exportSt = s.exportSt := rfl
@[simp] theorem State.updGang_exportInv (s : State) (c slot : Nat) (f : Gang → Gang) : (s.updGang c slot f).exportInv = s.exportInv := rfl
@[simp] theorem State.updGang_invSent (s : State) (c slot : Nat) (f : Gang → Gang) : (s.updGang c slot f).invSent = s.invSent := rfl
@[simp] theorem State.updGang_recalls (s : State) (c slot : Nat) (f : Gang → Gang) : (s.updGang c slot f).recalls = s.recalls := rfl
@[simp] theorem State.updGang_heldWrites (s : State) (c slot : Nat) (f : Gang → Gang) : (s.updGang c slot f).heldWrites = s.heldWrites := rfl
@[simp] theorem State.updGang_exports (s : State) (c slot : Nat) (f : Gang → Gang) : (s.updGang c slot f).exports = s.exports := rfl
@[simp] theorem State.updGang_fabCtl (s : State) (c slot : Nat) (f : Gang → Gang) : (s.updGang c slot f).fabCtl = s.fabCtl := rfl
@[simp] theorem State.updGang_remotes (s : State) (c slot : Nat) (f : Gang → Gang) : (s.updGang c slot f).remotes = s.remotes := rfl
@[simp] theorem State.updGang_nextTag (s : State) (c slot : Nat) (f : Gang → Gang) : (s.updGang c slot f).nextTag = s.nextTag := rfl
@[simp] theorem State.updGang_fabOut (s : State) (c slot : Nat) (f : Gang → Gang) : (s.updGang c slot f).fabOut = s.fabOut := rfl
@[simp] theorem State.updGang_sentMsgs (s : State) (c slot : Nat) (f : Gang → Gang) : (s.updGang c slot f).sentMsgs = s.sentMsgs := rfl
@[simp] theorem State.updGang_aborts (s : State) (c slot : Nat) (f : Gang → Gang) : (s.updGang c slot f).aborts = s.aborts := rfl
@[simp] theorem State.updGang_heldReqs (s : State) (c slot : Nat) (f : Gang → Gang) : (s.updGang c slot f).heldReqs = s.heldReqs := rfl
@[simp] theorem State.updGang_msgs (s : State) (c slot : Nat) (f : Gang → Gang) : (s.updGang c slot f).msgs = s.msgs := rfl
@[simp] theorem State.updGang_ports (s : State) (c slot : Nat) (f : Gang → Gang) : (s.updGang c slot f).ports = s.ports := rfl
@[simp] theorem State.updGang_launches (s : State) (c slot : Nat) (f : Gang → Gang) : (s.updGang c slot f).launches = s.launches := rfl
@[simp] theorem State.updGang_nextLaunch (s : State) (c slot : Nat) (f : Gang → Gang) : (s.updGang c slot f).nextLaunch = s.nextLaunch := rfl
@[simp] theorem State.updGang_wakes (s : State) (c slot : Nat) (f : Gang → Gang) : (s.updGang c slot f).wakes = s.wakes := rfl
@[simp] theorem State.updGang_asks (s : State) (c slot : Nat) (f : Gang → Gang) : (s.updGang c slot f).asks = s.asks := rfl
@[simp] theorem State.updGang_answers (s : State) (c slot : Nat) (f : Gang → Gang) : (s.updGang c slot f).answers = s.answers := rfl
@[simp] theorem State.updGang_quantum (s : State) (c slot : Nat) (f : Gang → Gang) : (s.updGang c slot f).quantum = s.quantum := rfl
@[simp] theorem State.updGang_perUs (s : State) (c slot : Nat) (f : Gang → Gang) : (s.updGang c slot f).perUs = s.perUs := rfl
@[simp] theorem State.updGang_prom (s : State) (c slot : Nat) (f : Gang → Gang) : (s.updGang c slot f).prom = s.prom := rfl
@[simp] theorem State.updGang_batch (s : State) (c slot : Nat) (f : Gang → Gang) : (s.updGang c slot f).batch = s.batch := rfl
@[simp] theorem State.updGang_batchNs (s : State) (c slot : Nat) (f : Gang → Gang) : (s.updGang c slot f).batchNs = s.batchNs := rfl
@[simp] theorem State.updGang_batchStep (s : State) (c slot : Nat) (f : Gang → Gang) : (s.updGang c slot f).batchStep = s.batchStep := rfl
@[simp] theorem State.updGang_admitNs (s : State) (c slot : Nat) (f : Gang → Gang) : (s.updGang c slot f).admitNs = s.admitNs := rfl
@[simp] theorem State.updGang_admitGap (s : State) (c slot : Nat) (f : Gang → Gang) : (s.updGang c slot f).admitGap = s.admitGap := rfl
@[simp] theorem State.updGang_power (s : State) (c slot : Nat) (f : Gang → Gang) : (s.updGang c slot f).power = s.power := rfl
@[simp] theorem State.updGang_mgmt (s : State) (c slot : Nat) (f : Gang → Gang) : (s.updGang c slot f).mgmt = s.mgmt := rfl
@[simp] theorem State.updGang_shadows (s : State) (c slot : Nat) (f : Gang → Gang) : (s.updGang c slot f).shadows = s.shadows := rfl
@[simp] theorem State.updGang_lwms (s : State) (c slot : Nat) (f : Gang → Gang) : (s.updGang c slot f).lwms = s.lwms := rfl
@[simp] theorem State.updGang_portSt (s : State) (c slot : Nat) (f : Gang → Gang) : (s.updGang c slot f).portSt = s.portSt := rfl
@[simp] theorem State.updGang_torus (s : State) (c slot : Nat) (f : Gang → Gang) : (s.updGang c slot f).torus = s.torus := rfl
@[simp] theorem State.updGang_escNew (s : State) (c slot : Nat) (f : Gang → Gang) : (s.updGang c slot f).escNew = s.escNew := rfl
@[simp] theorem State.updGang_net (s : State) (c slot : Nat) (f : Gang → Gang) : (s.updGang c slot f).net = s.net := rfl
@[simp] theorem State.updGang_nextPkt (s : State) (c slot : Nat) (f : Gang → Gang) : (s.updGang c slot f).nextPkt = s.nextPkt := rfl
@[simp] theorem State.updGang_farGot (s : State) (c slot : Nat) (f : Gang → Gang) : (s.updGang c slot f).farGot = s.farGot := rfl
@[simp] theorem State.updGang_frq (s : State) (c slot : Nat) (f : Gang → Gang) : (s.updGang c slot f).frq = s.frq := rfl
@[simp] theorem State.updGang_mem (s : State) (c slot : Nat) (f : Gang → Gang) : (s.updGang c slot f).mem = s.mem := rfl

/-! ## updIss -/

@[simp] theorem State.updIss_cur (s : State) (q : Issue) (f : Gang → Gang) : (s.updIss q f).cur = s.cur := rfl
@[simp] theorem State.updIss_sels (s : State) (q : Issue) (f : Gang → Gang) : (s.updIss q f).sels = s.sels := rfl
@[simp] theorem State.updIss_inputs (s : State) (q : Issue) (f : Gang → Gang) : (s.updIss q f).inputs = s.inputs := rfl
@[simp] theorem State.updIss_regq (s : State) (q : Issue) (f : Gang → Gang) : (s.updIss q f).regq = s.regq := rfl
@[simp] theorem State.updIss_xlQueue (s : State) (q : Issue) (f : Gang → Gang) : (s.updIss q f).xlQueue = s.xlQueue := rfl
@[simp] theorem State.updIss_turn (s : State) (q : Issue) (f : Gang → Gang) : (s.updIss q f).turn = s.turn := rfl
@[simp] theorem State.updIss_cycles (s : State) (q : Issue) (f : Gang → Gang) : (s.updIss q f).cycles = s.cycles := rfl
@[simp] theorem State.updIss_fresh (s : State) (q : Issue) (f : Gang → Gang) : (s.updIss q f).fresh = s.fresh := rfl
@[simp] theorem State.updIss_timeNs (s : State) (q : Issue) (f : Gang → Gang) : (s.updIss q f).timeNs = s.timeNs := rfl
@[simp] theorem State.updIss_timeLocked (s : State) (q : Issue) (f : Gang → Gang) : (s.updIss q f).timeLocked = s.timeLocked := rfl
@[simp] theorem State.updIss_beats (s : State) (q : Issue) (f : Gang → Gang) : (s.updIss q f).beats = s.beats := rfl
@[simp] theorem State.updIss_hlc (s : State) (q : Issue) (f : Gang → Gang) : (s.updIss q f).hlc = s.hlc := rfl
@[simp] theorem State.updIss_parts (s : State) (q : Issue) (f : Gang → Gang) : (s.updIss q f).parts = s.parts := rfl
@[simp] theorem State.updIss_funcs (s : State) (q : Issue) (f : Gang → Gang) : (s.updIss q f).funcs = s.funcs := rfl
@[simp] theorem State.updIss_ctxs (s : State) (q : Issue) (f : Gang → Gang) : (s.updIss q f).ctxs = s.ctxs := rfl
@[simp] theorem State.updIss_pkgMeter (s : State) (q : Issue) (f : Gang → Gang) : (s.updIss q f).pkgMeter = s.pkgMeter := rfl
@[simp] theorem State.updIss_uncoreF (s : State) (q : Issue) (f : Gang → Gang) : (s.updIss q f).uncoreF = s.uncoreF := rfl
@[simp] theorem State.updIss_uncoreRaw (s : State) (q : Issue) (f : Gang → Gang) : (s.updIss q f).uncoreRaw = s.uncoreRaw := rfl
@[simp] theorem State.updIss_alarm (s : State) (q : Issue) (f : Gang → Gang) : (s.updIss q f).alarm = s.alarm := rfl
@[simp] theorem State.updIss_uncoreSum (s : State) (q : Issue) (f : Gang → Gang) : (s.updIss q f).uncoreSum = s.uncoreSum := rfl
@[simp] theorem State.updIss_l2 (s : State) (q : Issue) (f : Gang → Gang) : (s.updIss q f).l2 = s.l2 := rfl
@[simp] theorem State.updIss_slices (s : State) (q : Issue) (f : Gang → Gang) : (s.updIss q f).slices = s.slices := rfl
@[simp] theorem State.updIss_poison (s : State) (q : Issue) (f : Gang → Gang) : (s.updIss q f).poison = s.poison := rfl
@[simp] theorem State.updIss_tagBit (s : State) (q : Issue) (f : Gang → Gang) : (s.updIss q f).tagBit = s.tagBit := rfl
@[simp] theorem State.updIss_exportSt (s : State) (q : Issue) (f : Gang → Gang) : (s.updIss q f).exportSt = s.exportSt := rfl
@[simp] theorem State.updIss_exportInv (s : State) (q : Issue) (f : Gang → Gang) : (s.updIss q f).exportInv = s.exportInv := rfl
@[simp] theorem State.updIss_invSent (s : State) (q : Issue) (f : Gang → Gang) : (s.updIss q f).invSent = s.invSent := rfl
@[simp] theorem State.updIss_recalls (s : State) (q : Issue) (f : Gang → Gang) : (s.updIss q f).recalls = s.recalls := rfl
@[simp] theorem State.updIss_heldWrites (s : State) (q : Issue) (f : Gang → Gang) : (s.updIss q f).heldWrites = s.heldWrites := rfl
@[simp] theorem State.updIss_exports (s : State) (q : Issue) (f : Gang → Gang) : (s.updIss q f).exports = s.exports := rfl
@[simp] theorem State.updIss_fabCtl (s : State) (q : Issue) (f : Gang → Gang) : (s.updIss q f).fabCtl = s.fabCtl := rfl
@[simp] theorem State.updIss_remotes (s : State) (q : Issue) (f : Gang → Gang) : (s.updIss q f).remotes = s.remotes := rfl
@[simp] theorem State.updIss_nextTag (s : State) (q : Issue) (f : Gang → Gang) : (s.updIss q f).nextTag = s.nextTag := rfl
@[simp] theorem State.updIss_fabOut (s : State) (q : Issue) (f : Gang → Gang) : (s.updIss q f).fabOut = s.fabOut := rfl
@[simp] theorem State.updIss_sentMsgs (s : State) (q : Issue) (f : Gang → Gang) : (s.updIss q f).sentMsgs = s.sentMsgs := rfl
@[simp] theorem State.updIss_aborts (s : State) (q : Issue) (f : Gang → Gang) : (s.updIss q f).aborts = s.aborts := rfl
@[simp] theorem State.updIss_heldReqs (s : State) (q : Issue) (f : Gang → Gang) : (s.updIss q f).heldReqs = s.heldReqs := rfl
@[simp] theorem State.updIss_msgs (s : State) (q : Issue) (f : Gang → Gang) : (s.updIss q f).msgs = s.msgs := rfl
@[simp] theorem State.updIss_ports (s : State) (q : Issue) (f : Gang → Gang) : (s.updIss q f).ports = s.ports := rfl
@[simp] theorem State.updIss_launches (s : State) (q : Issue) (f : Gang → Gang) : (s.updIss q f).launches = s.launches := rfl
@[simp] theorem State.updIss_nextLaunch (s : State) (q : Issue) (f : Gang → Gang) : (s.updIss q f).nextLaunch = s.nextLaunch := rfl
@[simp] theorem State.updIss_wakes (s : State) (q : Issue) (f : Gang → Gang) : (s.updIss q f).wakes = s.wakes := rfl
@[simp] theorem State.updIss_asks (s : State) (q : Issue) (f : Gang → Gang) : (s.updIss q f).asks = s.asks := rfl
@[simp] theorem State.updIss_answers (s : State) (q : Issue) (f : Gang → Gang) : (s.updIss q f).answers = s.answers := rfl
@[simp] theorem State.updIss_quantum (s : State) (q : Issue) (f : Gang → Gang) : (s.updIss q f).quantum = s.quantum := rfl
@[simp] theorem State.updIss_perUs (s : State) (q : Issue) (f : Gang → Gang) : (s.updIss q f).perUs = s.perUs := rfl
@[simp] theorem State.updIss_prom (s : State) (q : Issue) (f : Gang → Gang) : (s.updIss q f).prom = s.prom := rfl
@[simp] theorem State.updIss_batch (s : State) (q : Issue) (f : Gang → Gang) : (s.updIss q f).batch = s.batch := rfl
@[simp] theorem State.updIss_batchNs (s : State) (q : Issue) (f : Gang → Gang) : (s.updIss q f).batchNs = s.batchNs := rfl
@[simp] theorem State.updIss_batchStep (s : State) (q : Issue) (f : Gang → Gang) : (s.updIss q f).batchStep = s.batchStep := rfl
@[simp] theorem State.updIss_admitNs (s : State) (q : Issue) (f : Gang → Gang) : (s.updIss q f).admitNs = s.admitNs := rfl
@[simp] theorem State.updIss_admitGap (s : State) (q : Issue) (f : Gang → Gang) : (s.updIss q f).admitGap = s.admitGap := rfl
@[simp] theorem State.updIss_power (s : State) (q : Issue) (f : Gang → Gang) : (s.updIss q f).power = s.power := rfl
@[simp] theorem State.updIss_mgmt (s : State) (q : Issue) (f : Gang → Gang) : (s.updIss q f).mgmt = s.mgmt := rfl
@[simp] theorem State.updIss_shadows (s : State) (q : Issue) (f : Gang → Gang) : (s.updIss q f).shadows = s.shadows := rfl
@[simp] theorem State.updIss_lwms (s : State) (q : Issue) (f : Gang → Gang) : (s.updIss q f).lwms = s.lwms := rfl
@[simp] theorem State.updIss_portSt (s : State) (q : Issue) (f : Gang → Gang) : (s.updIss q f).portSt = s.portSt := rfl
@[simp] theorem State.updIss_torus (s : State) (q : Issue) (f : Gang → Gang) : (s.updIss q f).torus = s.torus := rfl
@[simp] theorem State.updIss_escNew (s : State) (q : Issue) (f : Gang → Gang) : (s.updIss q f).escNew = s.escNew := rfl
@[simp] theorem State.updIss_net (s : State) (q : Issue) (f : Gang → Gang) : (s.updIss q f).net = s.net := rfl
@[simp] theorem State.updIss_nextPkt (s : State) (q : Issue) (f : Gang → Gang) : (s.updIss q f).nextPkt = s.nextPkt := rfl
@[simp] theorem State.updIss_farGot (s : State) (q : Issue) (f : Gang → Gang) : (s.updIss q f).farGot = s.farGot := rfl
@[simp] theorem State.updIss_frq (s : State) (q : Issue) (f : Gang → Gang) : (s.updIss q f).frq = s.frq := rfl
@[simp] theorem State.updIss_mem (s : State) (q : Issue) (f : Gang → Gang) : (s.updIss q f).mem = s.mem := rfl

/-! ## updFunc -/

@[simp] theorem State.updFunc_cur (s : State) (n : Nat) (f : Func → Func) : (s.updFunc n f).cur = s.cur := rfl
@[simp] theorem State.updFunc_sels (s : State) (n : Nat) (f : Func → Func) : (s.updFunc n f).sels = s.sels := rfl
@[simp] theorem State.updFunc_inputs (s : State) (n : Nat) (f : Func → Func) : (s.updFunc n f).inputs = s.inputs := rfl
@[simp] theorem State.updFunc_regq (s : State) (n : Nat) (f : Func → Func) : (s.updFunc n f).regq = s.regq := rfl
@[simp] theorem State.updFunc_xlQueue (s : State) (n : Nat) (f : Func → Func) : (s.updFunc n f).xlQueue = s.xlQueue := rfl
@[simp] theorem State.updFunc_turn (s : State) (n : Nat) (f : Func → Func) : (s.updFunc n f).turn = s.turn := rfl
@[simp] theorem State.updFunc_cycles (s : State) (n : Nat) (f : Func → Func) : (s.updFunc n f).cycles = s.cycles := rfl
@[simp] theorem State.updFunc_fresh (s : State) (n : Nat) (f : Func → Func) : (s.updFunc n f).fresh = s.fresh := rfl
@[simp] theorem State.updFunc_timeNs (s : State) (n : Nat) (f : Func → Func) : (s.updFunc n f).timeNs = s.timeNs := rfl
@[simp] theorem State.updFunc_timeLocked (s : State) (n : Nat) (f : Func → Func) : (s.updFunc n f).timeLocked = s.timeLocked := rfl
@[simp] theorem State.updFunc_beats (s : State) (n : Nat) (f : Func → Func) : (s.updFunc n f).beats = s.beats := rfl
@[simp] theorem State.updFunc_hlc (s : State) (n : Nat) (f : Func → Func) : (s.updFunc n f).hlc = s.hlc := rfl
@[simp] theorem State.updFunc_clusters (s : State) (n : Nat) (f : Func → Func) : (s.updFunc n f).clusters = s.clusters := rfl
@[simp] theorem State.updFunc_parts (s : State) (n : Nat) (f : Func → Func) : (s.updFunc n f).parts = s.parts := rfl
@[simp] theorem State.updFunc_ctxs (s : State) (n : Nat) (f : Func → Func) : (s.updFunc n f).ctxs = s.ctxs := rfl
@[simp] theorem State.updFunc_pkgMeter (s : State) (n : Nat) (f : Func → Func) : (s.updFunc n f).pkgMeter = s.pkgMeter := rfl
@[simp] theorem State.updFunc_uncoreF (s : State) (n : Nat) (f : Func → Func) : (s.updFunc n f).uncoreF = s.uncoreF := rfl
@[simp] theorem State.updFunc_uncoreRaw (s : State) (n : Nat) (f : Func → Func) : (s.updFunc n f).uncoreRaw = s.uncoreRaw := rfl
@[simp] theorem State.updFunc_alarm (s : State) (n : Nat) (f : Func → Func) : (s.updFunc n f).alarm = s.alarm := rfl
@[simp] theorem State.updFunc_uncoreSum (s : State) (n : Nat) (f : Func → Func) : (s.updFunc n f).uncoreSum = s.uncoreSum := rfl
@[simp] theorem State.updFunc_l2 (s : State) (n : Nat) (f : Func → Func) : (s.updFunc n f).l2 = s.l2 := rfl
@[simp] theorem State.updFunc_slices (s : State) (n : Nat) (f : Func → Func) : (s.updFunc n f).slices = s.slices := rfl
@[simp] theorem State.updFunc_poison (s : State) (n : Nat) (f : Func → Func) : (s.updFunc n f).poison = s.poison := rfl
@[simp] theorem State.updFunc_tagBit (s : State) (n : Nat) (f : Func → Func) : (s.updFunc n f).tagBit = s.tagBit := rfl
@[simp] theorem State.updFunc_exportSt (s : State) (n : Nat) (f : Func → Func) : (s.updFunc n f).exportSt = s.exportSt := rfl
@[simp] theorem State.updFunc_exportInv (s : State) (n : Nat) (f : Func → Func) : (s.updFunc n f).exportInv = s.exportInv := rfl
@[simp] theorem State.updFunc_invSent (s : State) (n : Nat) (f : Func → Func) : (s.updFunc n f).invSent = s.invSent := rfl
@[simp] theorem State.updFunc_recalls (s : State) (n : Nat) (f : Func → Func) : (s.updFunc n f).recalls = s.recalls := rfl
@[simp] theorem State.updFunc_heldWrites (s : State) (n : Nat) (f : Func → Func) : (s.updFunc n f).heldWrites = s.heldWrites := rfl
@[simp] theorem State.updFunc_exports (s : State) (n : Nat) (f : Func → Func) : (s.updFunc n f).exports = s.exports := rfl
@[simp] theorem State.updFunc_fabCtl (s : State) (n : Nat) (f : Func → Func) : (s.updFunc n f).fabCtl = s.fabCtl := rfl
@[simp] theorem State.updFunc_remotes (s : State) (n : Nat) (f : Func → Func) : (s.updFunc n f).remotes = s.remotes := rfl
@[simp] theorem State.updFunc_nextTag (s : State) (n : Nat) (f : Func → Func) : (s.updFunc n f).nextTag = s.nextTag := rfl
@[simp] theorem State.updFunc_fabOut (s : State) (n : Nat) (f : Func → Func) : (s.updFunc n f).fabOut = s.fabOut := rfl
@[simp] theorem State.updFunc_sentMsgs (s : State) (n : Nat) (f : Func → Func) : (s.updFunc n f).sentMsgs = s.sentMsgs := rfl
@[simp] theorem State.updFunc_aborts (s : State) (n : Nat) (f : Func → Func) : (s.updFunc n f).aborts = s.aborts := rfl
@[simp] theorem State.updFunc_heldReqs (s : State) (n : Nat) (f : Func → Func) : (s.updFunc n f).heldReqs = s.heldReqs := rfl
@[simp] theorem State.updFunc_msgs (s : State) (n : Nat) (f : Func → Func) : (s.updFunc n f).msgs = s.msgs := rfl
@[simp] theorem State.updFunc_ports (s : State) (n : Nat) (f : Func → Func) : (s.updFunc n f).ports = s.ports := rfl
@[simp] theorem State.updFunc_launches (s : State) (n : Nat) (f : Func → Func) : (s.updFunc n f).launches = s.launches := rfl
@[simp] theorem State.updFunc_nextLaunch (s : State) (n : Nat) (f : Func → Func) : (s.updFunc n f).nextLaunch = s.nextLaunch := rfl
@[simp] theorem State.updFunc_wakes (s : State) (n : Nat) (f : Func → Func) : (s.updFunc n f).wakes = s.wakes := rfl
@[simp] theorem State.updFunc_asks (s : State) (n : Nat) (f : Func → Func) : (s.updFunc n f).asks = s.asks := rfl
@[simp] theorem State.updFunc_answers (s : State) (n : Nat) (f : Func → Func) : (s.updFunc n f).answers = s.answers := rfl
@[simp] theorem State.updFunc_quantum (s : State) (n : Nat) (f : Func → Func) : (s.updFunc n f).quantum = s.quantum := rfl
@[simp] theorem State.updFunc_perUs (s : State) (n : Nat) (f : Func → Func) : (s.updFunc n f).perUs = s.perUs := rfl
@[simp] theorem State.updFunc_prom (s : State) (n : Nat) (f : Func → Func) : (s.updFunc n f).prom = s.prom := rfl
@[simp] theorem State.updFunc_batch (s : State) (n : Nat) (f : Func → Func) : (s.updFunc n f).batch = s.batch := rfl
@[simp] theorem State.updFunc_batchNs (s : State) (n : Nat) (f : Func → Func) : (s.updFunc n f).batchNs = s.batchNs := rfl
@[simp] theorem State.updFunc_batchStep (s : State) (n : Nat) (f : Func → Func) : (s.updFunc n f).batchStep = s.batchStep := rfl
@[simp] theorem State.updFunc_admitNs (s : State) (n : Nat) (f : Func → Func) : (s.updFunc n f).admitNs = s.admitNs := rfl
@[simp] theorem State.updFunc_admitGap (s : State) (n : Nat) (f : Func → Func) : (s.updFunc n f).admitGap = s.admitGap := rfl
@[simp] theorem State.updFunc_power (s : State) (n : Nat) (f : Func → Func) : (s.updFunc n f).power = s.power := rfl
@[simp] theorem State.updFunc_mgmt (s : State) (n : Nat) (f : Func → Func) : (s.updFunc n f).mgmt = s.mgmt := rfl
@[simp] theorem State.updFunc_shadows (s : State) (n : Nat) (f : Func → Func) : (s.updFunc n f).shadows = s.shadows := rfl
@[simp] theorem State.updFunc_lwms (s : State) (n : Nat) (f : Func → Func) : (s.updFunc n f).lwms = s.lwms := rfl
@[simp] theorem State.updFunc_portSt (s : State) (n : Nat) (f : Func → Func) : (s.updFunc n f).portSt = s.portSt := rfl
@[simp] theorem State.updFunc_torus (s : State) (n : Nat) (f : Func → Func) : (s.updFunc n f).torus = s.torus := rfl
@[simp] theorem State.updFunc_escNew (s : State) (n : Nat) (f : Func → Func) : (s.updFunc n f).escNew = s.escNew := rfl
@[simp] theorem State.updFunc_net (s : State) (n : Nat) (f : Func → Func) : (s.updFunc n f).net = s.net := rfl
@[simp] theorem State.updFunc_nextPkt (s : State) (n : Nat) (f : Func → Func) : (s.updFunc n f).nextPkt = s.nextPkt := rfl
@[simp] theorem State.updFunc_farGot (s : State) (n : Nat) (f : Func → Func) : (s.updFunc n f).farGot = s.farGot := rfl
@[simp] theorem State.updFunc_frq (s : State) (n : Nat) (f : Func → Func) : (s.updFunc n f).frq = s.frq := rfl
@[simp] theorem State.updFunc_mem (s : State) (n : Nat) (f : Func → Func) : (s.updFunc n f).mem = s.mem := rfl

/-! ## updCtx -/

@[simp] theorem State.updCtx_cur (s : State) (x : Nat) (f : Ctx → Ctx) : (s.updCtx x f).cur = s.cur := rfl
@[simp] theorem State.updCtx_sels (s : State) (x : Nat) (f : Ctx → Ctx) : (s.updCtx x f).sels = s.sels := rfl
@[simp] theorem State.updCtx_inputs (s : State) (x : Nat) (f : Ctx → Ctx) : (s.updCtx x f).inputs = s.inputs := rfl
@[simp] theorem State.updCtx_regq (s : State) (x : Nat) (f : Ctx → Ctx) : (s.updCtx x f).regq = s.regq := rfl
@[simp] theorem State.updCtx_xlQueue (s : State) (x : Nat) (f : Ctx → Ctx) : (s.updCtx x f).xlQueue = s.xlQueue := rfl
@[simp] theorem State.updCtx_turn (s : State) (x : Nat) (f : Ctx → Ctx) : (s.updCtx x f).turn = s.turn := rfl
@[simp] theorem State.updCtx_cycles (s : State) (x : Nat) (f : Ctx → Ctx) : (s.updCtx x f).cycles = s.cycles := rfl
@[simp] theorem State.updCtx_fresh (s : State) (x : Nat) (f : Ctx → Ctx) : (s.updCtx x f).fresh = s.fresh := rfl
@[simp] theorem State.updCtx_timeNs (s : State) (x : Nat) (f : Ctx → Ctx) : (s.updCtx x f).timeNs = s.timeNs := rfl
@[simp] theorem State.updCtx_timeLocked (s : State) (x : Nat) (f : Ctx → Ctx) : (s.updCtx x f).timeLocked = s.timeLocked := rfl
@[simp] theorem State.updCtx_beats (s : State) (x : Nat) (f : Ctx → Ctx) : (s.updCtx x f).beats = s.beats := rfl
@[simp] theorem State.updCtx_hlc (s : State) (x : Nat) (f : Ctx → Ctx) : (s.updCtx x f).hlc = s.hlc := rfl
@[simp] theorem State.updCtx_clusters (s : State) (x : Nat) (f : Ctx → Ctx) : (s.updCtx x f).clusters = s.clusters := rfl
@[simp] theorem State.updCtx_parts (s : State) (x : Nat) (f : Ctx → Ctx) : (s.updCtx x f).parts = s.parts := rfl
@[simp] theorem State.updCtx_funcs (s : State) (x : Nat) (f : Ctx → Ctx) : (s.updCtx x f).funcs = s.funcs := rfl
@[simp] theorem State.updCtx_pkgMeter (s : State) (x : Nat) (f : Ctx → Ctx) : (s.updCtx x f).pkgMeter = s.pkgMeter := rfl
@[simp] theorem State.updCtx_uncoreF (s : State) (x : Nat) (f : Ctx → Ctx) : (s.updCtx x f).uncoreF = s.uncoreF := rfl
@[simp] theorem State.updCtx_uncoreRaw (s : State) (x : Nat) (f : Ctx → Ctx) : (s.updCtx x f).uncoreRaw = s.uncoreRaw := rfl
@[simp] theorem State.updCtx_alarm (s : State) (x : Nat) (f : Ctx → Ctx) : (s.updCtx x f).alarm = s.alarm := rfl
@[simp] theorem State.updCtx_uncoreSum (s : State) (x : Nat) (f : Ctx → Ctx) : (s.updCtx x f).uncoreSum = s.uncoreSum := rfl
@[simp] theorem State.updCtx_l2 (s : State) (x : Nat) (f : Ctx → Ctx) : (s.updCtx x f).l2 = s.l2 := rfl
@[simp] theorem State.updCtx_slices (s : State) (x : Nat) (f : Ctx → Ctx) : (s.updCtx x f).slices = s.slices := rfl
@[simp] theorem State.updCtx_poison (s : State) (x : Nat) (f : Ctx → Ctx) : (s.updCtx x f).poison = s.poison := rfl
@[simp] theorem State.updCtx_tagBit (s : State) (x : Nat) (f : Ctx → Ctx) : (s.updCtx x f).tagBit = s.tagBit := rfl
@[simp] theorem State.updCtx_exportSt (s : State) (x : Nat) (f : Ctx → Ctx) : (s.updCtx x f).exportSt = s.exportSt := rfl
@[simp] theorem State.updCtx_exportInv (s : State) (x : Nat) (f : Ctx → Ctx) : (s.updCtx x f).exportInv = s.exportInv := rfl
@[simp] theorem State.updCtx_invSent (s : State) (x : Nat) (f : Ctx → Ctx) : (s.updCtx x f).invSent = s.invSent := rfl
@[simp] theorem State.updCtx_recalls (s : State) (x : Nat) (f : Ctx → Ctx) : (s.updCtx x f).recalls = s.recalls := rfl
@[simp] theorem State.updCtx_heldWrites (s : State) (x : Nat) (f : Ctx → Ctx) : (s.updCtx x f).heldWrites = s.heldWrites := rfl
@[simp] theorem State.updCtx_exports (s : State) (x : Nat) (f : Ctx → Ctx) : (s.updCtx x f).exports = s.exports := rfl
@[simp] theorem State.updCtx_fabCtl (s : State) (x : Nat) (f : Ctx → Ctx) : (s.updCtx x f).fabCtl = s.fabCtl := rfl
@[simp] theorem State.updCtx_remotes (s : State) (x : Nat) (f : Ctx → Ctx) : (s.updCtx x f).remotes = s.remotes := rfl
@[simp] theorem State.updCtx_nextTag (s : State) (x : Nat) (f : Ctx → Ctx) : (s.updCtx x f).nextTag = s.nextTag := rfl
@[simp] theorem State.updCtx_fabOut (s : State) (x : Nat) (f : Ctx → Ctx) : (s.updCtx x f).fabOut = s.fabOut := rfl
@[simp] theorem State.updCtx_sentMsgs (s : State) (x : Nat) (f : Ctx → Ctx) : (s.updCtx x f).sentMsgs = s.sentMsgs := rfl
@[simp] theorem State.updCtx_aborts (s : State) (x : Nat) (f : Ctx → Ctx) : (s.updCtx x f).aborts = s.aborts := rfl
@[simp] theorem State.updCtx_heldReqs (s : State) (x : Nat) (f : Ctx → Ctx) : (s.updCtx x f).heldReqs = s.heldReqs := rfl
@[simp] theorem State.updCtx_msgs (s : State) (x : Nat) (f : Ctx → Ctx) : (s.updCtx x f).msgs = s.msgs := rfl
@[simp] theorem State.updCtx_ports (s : State) (x : Nat) (f : Ctx → Ctx) : (s.updCtx x f).ports = s.ports := rfl
@[simp] theorem State.updCtx_launches (s : State) (x : Nat) (f : Ctx → Ctx) : (s.updCtx x f).launches = s.launches := rfl
@[simp] theorem State.updCtx_nextLaunch (s : State) (x : Nat) (f : Ctx → Ctx) : (s.updCtx x f).nextLaunch = s.nextLaunch := rfl
@[simp] theorem State.updCtx_wakes (s : State) (x : Nat) (f : Ctx → Ctx) : (s.updCtx x f).wakes = s.wakes := rfl
@[simp] theorem State.updCtx_asks (s : State) (x : Nat) (f : Ctx → Ctx) : (s.updCtx x f).asks = s.asks := rfl
@[simp] theorem State.updCtx_answers (s : State) (x : Nat) (f : Ctx → Ctx) : (s.updCtx x f).answers = s.answers := rfl
@[simp] theorem State.updCtx_quantum (s : State) (x : Nat) (f : Ctx → Ctx) : (s.updCtx x f).quantum = s.quantum := rfl
@[simp] theorem State.updCtx_perUs (s : State) (x : Nat) (f : Ctx → Ctx) : (s.updCtx x f).perUs = s.perUs := rfl
@[simp] theorem State.updCtx_prom (s : State) (x : Nat) (f : Ctx → Ctx) : (s.updCtx x f).prom = s.prom := rfl
@[simp] theorem State.updCtx_batch (s : State) (x : Nat) (f : Ctx → Ctx) : (s.updCtx x f).batch = s.batch := rfl
@[simp] theorem State.updCtx_batchNs (s : State) (x : Nat) (f : Ctx → Ctx) : (s.updCtx x f).batchNs = s.batchNs := rfl
@[simp] theorem State.updCtx_batchStep (s : State) (x : Nat) (f : Ctx → Ctx) : (s.updCtx x f).batchStep = s.batchStep := rfl
@[simp] theorem State.updCtx_admitNs (s : State) (x : Nat) (f : Ctx → Ctx) : (s.updCtx x f).admitNs = s.admitNs := rfl
@[simp] theorem State.updCtx_admitGap (s : State) (x : Nat) (f : Ctx → Ctx) : (s.updCtx x f).admitGap = s.admitGap := rfl
@[simp] theorem State.updCtx_power (s : State) (x : Nat) (f : Ctx → Ctx) : (s.updCtx x f).power = s.power := rfl
@[simp] theorem State.updCtx_mgmt (s : State) (x : Nat) (f : Ctx → Ctx) : (s.updCtx x f).mgmt = s.mgmt := rfl
@[simp] theorem State.updCtx_shadows (s : State) (x : Nat) (f : Ctx → Ctx) : (s.updCtx x f).shadows = s.shadows := rfl
@[simp] theorem State.updCtx_lwms (s : State) (x : Nat) (f : Ctx → Ctx) : (s.updCtx x f).lwms = s.lwms := rfl
@[simp] theorem State.updCtx_portSt (s : State) (x : Nat) (f : Ctx → Ctx) : (s.updCtx x f).portSt = s.portSt := rfl
@[simp] theorem State.updCtx_torus (s : State) (x : Nat) (f : Ctx → Ctx) : (s.updCtx x f).torus = s.torus := rfl
@[simp] theorem State.updCtx_escNew (s : State) (x : Nat) (f : Ctx → Ctx) : (s.updCtx x f).escNew = s.escNew := rfl
@[simp] theorem State.updCtx_net (s : State) (x : Nat) (f : Ctx → Ctx) : (s.updCtx x f).net = s.net := rfl
@[simp] theorem State.updCtx_nextPkt (s : State) (x : Nat) (f : Ctx → Ctx) : (s.updCtx x f).nextPkt = s.nextPkt := rfl
@[simp] theorem State.updCtx_farGot (s : State) (x : Nat) (f : Ctx → Ctx) : (s.updCtx x f).farGot = s.farGot := rfl
@[simp] theorem State.updCtx_frq (s : State) (x : Nat) (f : Ctx → Ctx) : (s.updCtx x f).frq = s.frq := rfl
@[simp] theorem State.updCtx_mem (s : State) (x : Nat) (f : Ctx → Ctx) : (s.updCtx x f).mem = s.mem := rfl

/-! ## updSlice -/

@[simp] theorem State.updSlice_cur (s : State) (k : Nat) (f : Slice → Slice) : (s.updSlice k f).cur = s.cur := rfl
@[simp] theorem State.updSlice_sels (s : State) (k : Nat) (f : Slice → Slice) : (s.updSlice k f).sels = s.sels := rfl
@[simp] theorem State.updSlice_inputs (s : State) (k : Nat) (f : Slice → Slice) : (s.updSlice k f).inputs = s.inputs := rfl
@[simp] theorem State.updSlice_regq (s : State) (k : Nat) (f : Slice → Slice) : (s.updSlice k f).regq = s.regq := rfl
@[simp] theorem State.updSlice_xlQueue (s : State) (k : Nat) (f : Slice → Slice) : (s.updSlice k f).xlQueue = s.xlQueue := rfl
@[simp] theorem State.updSlice_turn (s : State) (k : Nat) (f : Slice → Slice) : (s.updSlice k f).turn = s.turn := rfl
@[simp] theorem State.updSlice_cycles (s : State) (k : Nat) (f : Slice → Slice) : (s.updSlice k f).cycles = s.cycles := rfl
@[simp] theorem State.updSlice_fresh (s : State) (k : Nat) (f : Slice → Slice) : (s.updSlice k f).fresh = s.fresh := rfl
@[simp] theorem State.updSlice_timeNs (s : State) (k : Nat) (f : Slice → Slice) : (s.updSlice k f).timeNs = s.timeNs := rfl
@[simp] theorem State.updSlice_timeLocked (s : State) (k : Nat) (f : Slice → Slice) : (s.updSlice k f).timeLocked = s.timeLocked := rfl
@[simp] theorem State.updSlice_beats (s : State) (k : Nat) (f : Slice → Slice) : (s.updSlice k f).beats = s.beats := rfl
@[simp] theorem State.updSlice_hlc (s : State) (k : Nat) (f : Slice → Slice) : (s.updSlice k f).hlc = s.hlc := rfl
@[simp] theorem State.updSlice_clusters (s : State) (k : Nat) (f : Slice → Slice) : (s.updSlice k f).clusters = s.clusters := rfl
@[simp] theorem State.updSlice_parts (s : State) (k : Nat) (f : Slice → Slice) : (s.updSlice k f).parts = s.parts := rfl
@[simp] theorem State.updSlice_funcs (s : State) (k : Nat) (f : Slice → Slice) : (s.updSlice k f).funcs = s.funcs := rfl
@[simp] theorem State.updSlice_ctxs (s : State) (k : Nat) (f : Slice → Slice) : (s.updSlice k f).ctxs = s.ctxs := rfl
@[simp] theorem State.updSlice_pkgMeter (s : State) (k : Nat) (f : Slice → Slice) : (s.updSlice k f).pkgMeter = s.pkgMeter := rfl
@[simp] theorem State.updSlice_uncoreF (s : State) (k : Nat) (f : Slice → Slice) : (s.updSlice k f).uncoreF = s.uncoreF := rfl
@[simp] theorem State.updSlice_uncoreRaw (s : State) (k : Nat) (f : Slice → Slice) : (s.updSlice k f).uncoreRaw = s.uncoreRaw := rfl
@[simp] theorem State.updSlice_alarm (s : State) (k : Nat) (f : Slice → Slice) : (s.updSlice k f).alarm = s.alarm := rfl
@[simp] theorem State.updSlice_uncoreSum (s : State) (k : Nat) (f : Slice → Slice) : (s.updSlice k f).uncoreSum = s.uncoreSum := rfl
@[simp] theorem State.updSlice_l2 (s : State) (k : Nat) (f : Slice → Slice) : (s.updSlice k f).l2 = s.l2 := rfl
@[simp] theorem State.updSlice_poison (s : State) (k : Nat) (f : Slice → Slice) : (s.updSlice k f).poison = s.poison := rfl
@[simp] theorem State.updSlice_tagBit (s : State) (k : Nat) (f : Slice → Slice) : (s.updSlice k f).tagBit = s.tagBit := rfl
@[simp] theorem State.updSlice_exportSt (s : State) (k : Nat) (f : Slice → Slice) : (s.updSlice k f).exportSt = s.exportSt := rfl
@[simp] theorem State.updSlice_exportInv (s : State) (k : Nat) (f : Slice → Slice) : (s.updSlice k f).exportInv = s.exportInv := rfl
@[simp] theorem State.updSlice_invSent (s : State) (k : Nat) (f : Slice → Slice) : (s.updSlice k f).invSent = s.invSent := rfl
@[simp] theorem State.updSlice_recalls (s : State) (k : Nat) (f : Slice → Slice) : (s.updSlice k f).recalls = s.recalls := rfl
@[simp] theorem State.updSlice_heldWrites (s : State) (k : Nat) (f : Slice → Slice) : (s.updSlice k f).heldWrites = s.heldWrites := rfl
@[simp] theorem State.updSlice_exports (s : State) (k : Nat) (f : Slice → Slice) : (s.updSlice k f).exports = s.exports := rfl
@[simp] theorem State.updSlice_fabCtl (s : State) (k : Nat) (f : Slice → Slice) : (s.updSlice k f).fabCtl = s.fabCtl := rfl
@[simp] theorem State.updSlice_remotes (s : State) (k : Nat) (f : Slice → Slice) : (s.updSlice k f).remotes = s.remotes := rfl
@[simp] theorem State.updSlice_nextTag (s : State) (k : Nat) (f : Slice → Slice) : (s.updSlice k f).nextTag = s.nextTag := rfl
@[simp] theorem State.updSlice_fabOut (s : State) (k : Nat) (f : Slice → Slice) : (s.updSlice k f).fabOut = s.fabOut := rfl
@[simp] theorem State.updSlice_sentMsgs (s : State) (k : Nat) (f : Slice → Slice) : (s.updSlice k f).sentMsgs = s.sentMsgs := rfl
@[simp] theorem State.updSlice_aborts (s : State) (k : Nat) (f : Slice → Slice) : (s.updSlice k f).aborts = s.aborts := rfl
@[simp] theorem State.updSlice_heldReqs (s : State) (k : Nat) (f : Slice → Slice) : (s.updSlice k f).heldReqs = s.heldReqs := rfl
@[simp] theorem State.updSlice_msgs (s : State) (k : Nat) (f : Slice → Slice) : (s.updSlice k f).msgs = s.msgs := rfl
@[simp] theorem State.updSlice_ports (s : State) (k : Nat) (f : Slice → Slice) : (s.updSlice k f).ports = s.ports := rfl
@[simp] theorem State.updSlice_launches (s : State) (k : Nat) (f : Slice → Slice) : (s.updSlice k f).launches = s.launches := rfl
@[simp] theorem State.updSlice_nextLaunch (s : State) (k : Nat) (f : Slice → Slice) : (s.updSlice k f).nextLaunch = s.nextLaunch := rfl
@[simp] theorem State.updSlice_wakes (s : State) (k : Nat) (f : Slice → Slice) : (s.updSlice k f).wakes = s.wakes := rfl
@[simp] theorem State.updSlice_asks (s : State) (k : Nat) (f : Slice → Slice) : (s.updSlice k f).asks = s.asks := rfl
@[simp] theorem State.updSlice_answers (s : State) (k : Nat) (f : Slice → Slice) : (s.updSlice k f).answers = s.answers := rfl
@[simp] theorem State.updSlice_quantum (s : State) (k : Nat) (f : Slice → Slice) : (s.updSlice k f).quantum = s.quantum := rfl
@[simp] theorem State.updSlice_perUs (s : State) (k : Nat) (f : Slice → Slice) : (s.updSlice k f).perUs = s.perUs := rfl
@[simp] theorem State.updSlice_prom (s : State) (k : Nat) (f : Slice → Slice) : (s.updSlice k f).prom = s.prom := rfl
@[simp] theorem State.updSlice_batch (s : State) (k : Nat) (f : Slice → Slice) : (s.updSlice k f).batch = s.batch := rfl
@[simp] theorem State.updSlice_batchNs (s : State) (k : Nat) (f : Slice → Slice) : (s.updSlice k f).batchNs = s.batchNs := rfl
@[simp] theorem State.updSlice_batchStep (s : State) (k : Nat) (f : Slice → Slice) : (s.updSlice k f).batchStep = s.batchStep := rfl
@[simp] theorem State.updSlice_admitNs (s : State) (k : Nat) (f : Slice → Slice) : (s.updSlice k f).admitNs = s.admitNs := rfl
@[simp] theorem State.updSlice_admitGap (s : State) (k : Nat) (f : Slice → Slice) : (s.updSlice k f).admitGap = s.admitGap := rfl
@[simp] theorem State.updSlice_power (s : State) (k : Nat) (f : Slice → Slice) : (s.updSlice k f).power = s.power := rfl
@[simp] theorem State.updSlice_mgmt (s : State) (k : Nat) (f : Slice → Slice) : (s.updSlice k f).mgmt = s.mgmt := rfl
@[simp] theorem State.updSlice_shadows (s : State) (k : Nat) (f : Slice → Slice) : (s.updSlice k f).shadows = s.shadows := rfl
@[simp] theorem State.updSlice_lwms (s : State) (k : Nat) (f : Slice → Slice) : (s.updSlice k f).lwms = s.lwms := rfl
@[simp] theorem State.updSlice_portSt (s : State) (k : Nat) (f : Slice → Slice) : (s.updSlice k f).portSt = s.portSt := rfl
@[simp] theorem State.updSlice_torus (s : State) (k : Nat) (f : Slice → Slice) : (s.updSlice k f).torus = s.torus := rfl
@[simp] theorem State.updSlice_escNew (s : State) (k : Nat) (f : Slice → Slice) : (s.updSlice k f).escNew = s.escNew := rfl
@[simp] theorem State.updSlice_net (s : State) (k : Nat) (f : Slice → Slice) : (s.updSlice k f).net = s.net := rfl
@[simp] theorem State.updSlice_nextPkt (s : State) (k : Nat) (f : Slice → Slice) : (s.updSlice k f).nextPkt = s.nextPkt := rfl
@[simp] theorem State.updSlice_farGot (s : State) (k : Nat) (f : Slice → Slice) : (s.updSlice k f).farGot = s.farGot := rfl
@[simp] theorem State.updSlice_frq (s : State) (k : Nat) (f : Slice → Slice) : (s.updSlice k f).frq = s.frq := rfl

/-! ## updPart -/

@[simp] theorem State.updPart_cur (s : State) (p : Nat) (f : Part → Part) : (s.updPart p f).cur = s.cur := rfl
@[simp] theorem State.updPart_sels (s : State) (p : Nat) (f : Part → Part) : (s.updPart p f).sels = s.sels := rfl
@[simp] theorem State.updPart_inputs (s : State) (p : Nat) (f : Part → Part) : (s.updPart p f).inputs = s.inputs := rfl
@[simp] theorem State.updPart_regq (s : State) (p : Nat) (f : Part → Part) : (s.updPart p f).regq = s.regq := rfl
@[simp] theorem State.updPart_xlQueue (s : State) (p : Nat) (f : Part → Part) : (s.updPart p f).xlQueue = s.xlQueue := rfl
@[simp] theorem State.updPart_turn (s : State) (p : Nat) (f : Part → Part) : (s.updPart p f).turn = s.turn := rfl
@[simp] theorem State.updPart_cycles (s : State) (p : Nat) (f : Part → Part) : (s.updPart p f).cycles = s.cycles := rfl
@[simp] theorem State.updPart_fresh (s : State) (p : Nat) (f : Part → Part) : (s.updPart p f).fresh = s.fresh := rfl
@[simp] theorem State.updPart_timeNs (s : State) (p : Nat) (f : Part → Part) : (s.updPart p f).timeNs = s.timeNs := rfl
@[simp] theorem State.updPart_timeLocked (s : State) (p : Nat) (f : Part → Part) : (s.updPart p f).timeLocked = s.timeLocked := rfl
@[simp] theorem State.updPart_beats (s : State) (p : Nat) (f : Part → Part) : (s.updPart p f).beats = s.beats := rfl
@[simp] theorem State.updPart_hlc (s : State) (p : Nat) (f : Part → Part) : (s.updPart p f).hlc = s.hlc := rfl
@[simp] theorem State.updPart_clusters (s : State) (p : Nat) (f : Part → Part) : (s.updPart p f).clusters = s.clusters := rfl
@[simp] theorem State.updPart_funcs (s : State) (p : Nat) (f : Part → Part) : (s.updPart p f).funcs = s.funcs := rfl
@[simp] theorem State.updPart_ctxs (s : State) (p : Nat) (f : Part → Part) : (s.updPart p f).ctxs = s.ctxs := rfl
@[simp] theorem State.updPart_pkgMeter (s : State) (p : Nat) (f : Part → Part) : (s.updPart p f).pkgMeter = s.pkgMeter := rfl
@[simp] theorem State.updPart_uncoreF (s : State) (p : Nat) (f : Part → Part) : (s.updPart p f).uncoreF = s.uncoreF := rfl
@[simp] theorem State.updPart_uncoreRaw (s : State) (p : Nat) (f : Part → Part) : (s.updPart p f).uncoreRaw = s.uncoreRaw := rfl
@[simp] theorem State.updPart_alarm (s : State) (p : Nat) (f : Part → Part) : (s.updPart p f).alarm = s.alarm := rfl
@[simp] theorem State.updPart_uncoreSum (s : State) (p : Nat) (f : Part → Part) : (s.updPart p f).uncoreSum = s.uncoreSum := rfl
@[simp] theorem State.updPart_l2 (s : State) (p : Nat) (f : Part → Part) : (s.updPart p f).l2 = s.l2 := rfl
@[simp] theorem State.updPart_slices (s : State) (p : Nat) (f : Part → Part) : (s.updPart p f).slices = s.slices := rfl
@[simp] theorem State.updPart_poison (s : State) (p : Nat) (f : Part → Part) : (s.updPart p f).poison = s.poison := rfl
@[simp] theorem State.updPart_tagBit (s : State) (p : Nat) (f : Part → Part) : (s.updPart p f).tagBit = s.tagBit := rfl
@[simp] theorem State.updPart_exportSt (s : State) (p : Nat) (f : Part → Part) : (s.updPart p f).exportSt = s.exportSt := rfl
@[simp] theorem State.updPart_exportInv (s : State) (p : Nat) (f : Part → Part) : (s.updPart p f).exportInv = s.exportInv := rfl
@[simp] theorem State.updPart_invSent (s : State) (p : Nat) (f : Part → Part) : (s.updPart p f).invSent = s.invSent := rfl
@[simp] theorem State.updPart_recalls (s : State) (p : Nat) (f : Part → Part) : (s.updPart p f).recalls = s.recalls := rfl
@[simp] theorem State.updPart_heldWrites (s : State) (p : Nat) (f : Part → Part) : (s.updPart p f).heldWrites = s.heldWrites := rfl
@[simp] theorem State.updPart_exports (s : State) (p : Nat) (f : Part → Part) : (s.updPart p f).exports = s.exports := rfl
@[simp] theorem State.updPart_fabCtl (s : State) (p : Nat) (f : Part → Part) : (s.updPart p f).fabCtl = s.fabCtl := rfl
@[simp] theorem State.updPart_remotes (s : State) (p : Nat) (f : Part → Part) : (s.updPart p f).remotes = s.remotes := rfl
@[simp] theorem State.updPart_nextTag (s : State) (p : Nat) (f : Part → Part) : (s.updPart p f).nextTag = s.nextTag := rfl
@[simp] theorem State.updPart_fabOut (s : State) (p : Nat) (f : Part → Part) : (s.updPart p f).fabOut = s.fabOut := rfl
@[simp] theorem State.updPart_sentMsgs (s : State) (p : Nat) (f : Part → Part) : (s.updPart p f).sentMsgs = s.sentMsgs := rfl
@[simp] theorem State.updPart_aborts (s : State) (p : Nat) (f : Part → Part) : (s.updPart p f).aborts = s.aborts := rfl
@[simp] theorem State.updPart_heldReqs (s : State) (p : Nat) (f : Part → Part) : (s.updPart p f).heldReqs = s.heldReqs := rfl
@[simp] theorem State.updPart_msgs (s : State) (p : Nat) (f : Part → Part) : (s.updPart p f).msgs = s.msgs := rfl
@[simp] theorem State.updPart_ports (s : State) (p : Nat) (f : Part → Part) : (s.updPart p f).ports = s.ports := rfl
@[simp] theorem State.updPart_launches (s : State) (p : Nat) (f : Part → Part) : (s.updPart p f).launches = s.launches := rfl
@[simp] theorem State.updPart_nextLaunch (s : State) (p : Nat) (f : Part → Part) : (s.updPart p f).nextLaunch = s.nextLaunch := rfl
@[simp] theorem State.updPart_wakes (s : State) (p : Nat) (f : Part → Part) : (s.updPart p f).wakes = s.wakes := rfl
@[simp] theorem State.updPart_asks (s : State) (p : Nat) (f : Part → Part) : (s.updPart p f).asks = s.asks := rfl
@[simp] theorem State.updPart_answers (s : State) (p : Nat) (f : Part → Part) : (s.updPart p f).answers = s.answers := rfl
@[simp] theorem State.updPart_quantum (s : State) (p : Nat) (f : Part → Part) : (s.updPart p f).quantum = s.quantum := rfl
@[simp] theorem State.updPart_perUs (s : State) (p : Nat) (f : Part → Part) : (s.updPart p f).perUs = s.perUs := rfl
@[simp] theorem State.updPart_prom (s : State) (p : Nat) (f : Part → Part) : (s.updPart p f).prom = s.prom := rfl
@[simp] theorem State.updPart_batch (s : State) (p : Nat) (f : Part → Part) : (s.updPart p f).batch = s.batch := rfl
@[simp] theorem State.updPart_batchNs (s : State) (p : Nat) (f : Part → Part) : (s.updPart p f).batchNs = s.batchNs := rfl
@[simp] theorem State.updPart_batchStep (s : State) (p : Nat) (f : Part → Part) : (s.updPart p f).batchStep = s.batchStep := rfl
@[simp] theorem State.updPart_admitNs (s : State) (p : Nat) (f : Part → Part) : (s.updPart p f).admitNs = s.admitNs := rfl
@[simp] theorem State.updPart_admitGap (s : State) (p : Nat) (f : Part → Part) : (s.updPart p f).admitGap = s.admitGap := rfl
@[simp] theorem State.updPart_power (s : State) (p : Nat) (f : Part → Part) : (s.updPart p f).power = s.power := rfl
@[simp] theorem State.updPart_mgmt (s : State) (p : Nat) (f : Part → Part) : (s.updPart p f).mgmt = s.mgmt := rfl
@[simp] theorem State.updPart_shadows (s : State) (p : Nat) (f : Part → Part) : (s.updPart p f).shadows = s.shadows := rfl
@[simp] theorem State.updPart_lwms (s : State) (p : Nat) (f : Part → Part) : (s.updPart p f).lwms = s.lwms := rfl
@[simp] theorem State.updPart_portSt (s : State) (p : Nat) (f : Part → Part) : (s.updPart p f).portSt = s.portSt := rfl
@[simp] theorem State.updPart_torus (s : State) (p : Nat) (f : Part → Part) : (s.updPart p f).torus = s.torus := rfl
@[simp] theorem State.updPart_escNew (s : State) (p : Nat) (f : Part → Part) : (s.updPart p f).escNew = s.escNew := rfl
@[simp] theorem State.updPart_net (s : State) (p : Nat) (f : Part → Part) : (s.updPart p f).net = s.net := rfl
@[simp] theorem State.updPart_nextPkt (s : State) (p : Nat) (f : Part → Part) : (s.updPart p f).nextPkt = s.nextPkt := rfl
@[simp] theorem State.updPart_farGot (s : State) (p : Nat) (f : Part → Part) : (s.updPart p f).farGot = s.farGot := rfl
@[simp] theorem State.updPart_frq (s : State) (p : Nat) (f : Part → Part) : (s.updPart p f).frq = s.frq := rfl
@[simp] theorem State.updPart_mem (s : State) (p : Nat) (f : Part → Part) : (s.updPart p f).mem = s.mem := rfl

/-! ## updMgmt -/

@[simp] theorem State.updMgmt_cur (s : State) (f : Mgmt → Mgmt) : (s.updMgmt f).cur = s.cur := rfl
@[simp] theorem State.updMgmt_sels (s : State) (f : Mgmt → Mgmt) : (s.updMgmt f).sels = s.sels := rfl
@[simp] theorem State.updMgmt_inputs (s : State) (f : Mgmt → Mgmt) : (s.updMgmt f).inputs = s.inputs := rfl
@[simp] theorem State.updMgmt_regq (s : State) (f : Mgmt → Mgmt) : (s.updMgmt f).regq = s.regq := rfl
@[simp] theorem State.updMgmt_xlQueue (s : State) (f : Mgmt → Mgmt) : (s.updMgmt f).xlQueue = s.xlQueue := rfl
@[simp] theorem State.updMgmt_turn (s : State) (f : Mgmt → Mgmt) : (s.updMgmt f).turn = s.turn := rfl
@[simp] theorem State.updMgmt_cycles (s : State) (f : Mgmt → Mgmt) : (s.updMgmt f).cycles = s.cycles := rfl
@[simp] theorem State.updMgmt_fresh (s : State) (f : Mgmt → Mgmt) : (s.updMgmt f).fresh = s.fresh := rfl
@[simp] theorem State.updMgmt_timeNs (s : State) (f : Mgmt → Mgmt) : (s.updMgmt f).timeNs = s.timeNs := rfl
@[simp] theorem State.updMgmt_timeLocked (s : State) (f : Mgmt → Mgmt) : (s.updMgmt f).timeLocked = s.timeLocked := rfl
@[simp] theorem State.updMgmt_beats (s : State) (f : Mgmt → Mgmt) : (s.updMgmt f).beats = s.beats := rfl
@[simp] theorem State.updMgmt_hlc (s : State) (f : Mgmt → Mgmt) : (s.updMgmt f).hlc = s.hlc := rfl
@[simp] theorem State.updMgmt_clusters (s : State) (f : Mgmt → Mgmt) : (s.updMgmt f).clusters = s.clusters := rfl
@[simp] theorem State.updMgmt_parts (s : State) (f : Mgmt → Mgmt) : (s.updMgmt f).parts = s.parts := rfl
@[simp] theorem State.updMgmt_funcs (s : State) (f : Mgmt → Mgmt) : (s.updMgmt f).funcs = s.funcs := rfl
@[simp] theorem State.updMgmt_ctxs (s : State) (f : Mgmt → Mgmt) : (s.updMgmt f).ctxs = s.ctxs := rfl
@[simp] theorem State.updMgmt_pkgMeter (s : State) (f : Mgmt → Mgmt) : (s.updMgmt f).pkgMeter = s.pkgMeter := rfl
@[simp] theorem State.updMgmt_uncoreF (s : State) (f : Mgmt → Mgmt) : (s.updMgmt f).uncoreF = s.uncoreF := rfl
@[simp] theorem State.updMgmt_uncoreRaw (s : State) (f : Mgmt → Mgmt) : (s.updMgmt f).uncoreRaw = s.uncoreRaw := rfl
@[simp] theorem State.updMgmt_alarm (s : State) (f : Mgmt → Mgmt) : (s.updMgmt f).alarm = s.alarm := rfl
@[simp] theorem State.updMgmt_uncoreSum (s : State) (f : Mgmt → Mgmt) : (s.updMgmt f).uncoreSum = s.uncoreSum := rfl
@[simp] theorem State.updMgmt_l2 (s : State) (f : Mgmt → Mgmt) : (s.updMgmt f).l2 = s.l2 := rfl
@[simp] theorem State.updMgmt_slices (s : State) (f : Mgmt → Mgmt) : (s.updMgmt f).slices = s.slices := rfl
@[simp] theorem State.updMgmt_poison (s : State) (f : Mgmt → Mgmt) : (s.updMgmt f).poison = s.poison := rfl
@[simp] theorem State.updMgmt_tagBit (s : State) (f : Mgmt → Mgmt) : (s.updMgmt f).tagBit = s.tagBit := rfl
@[simp] theorem State.updMgmt_exportSt (s : State) (f : Mgmt → Mgmt) : (s.updMgmt f).exportSt = s.exportSt := rfl
@[simp] theorem State.updMgmt_exportInv (s : State) (f : Mgmt → Mgmt) : (s.updMgmt f).exportInv = s.exportInv := rfl
@[simp] theorem State.updMgmt_invSent (s : State) (f : Mgmt → Mgmt) : (s.updMgmt f).invSent = s.invSent := rfl
@[simp] theorem State.updMgmt_recalls (s : State) (f : Mgmt → Mgmt) : (s.updMgmt f).recalls = s.recalls := rfl
@[simp] theorem State.updMgmt_heldWrites (s : State) (f : Mgmt → Mgmt) : (s.updMgmt f).heldWrites = s.heldWrites := rfl
@[simp] theorem State.updMgmt_exports (s : State) (f : Mgmt → Mgmt) : (s.updMgmt f).exports = s.exports := rfl
@[simp] theorem State.updMgmt_fabCtl (s : State) (f : Mgmt → Mgmt) : (s.updMgmt f).fabCtl = s.fabCtl := rfl
@[simp] theorem State.updMgmt_remotes (s : State) (f : Mgmt → Mgmt) : (s.updMgmt f).remotes = s.remotes := rfl
@[simp] theorem State.updMgmt_nextTag (s : State) (f : Mgmt → Mgmt) : (s.updMgmt f).nextTag = s.nextTag := rfl
@[simp] theorem State.updMgmt_fabOut (s : State) (f : Mgmt → Mgmt) : (s.updMgmt f).fabOut = s.fabOut := rfl
@[simp] theorem State.updMgmt_sentMsgs (s : State) (f : Mgmt → Mgmt) : (s.updMgmt f).sentMsgs = s.sentMsgs := rfl
@[simp] theorem State.updMgmt_aborts (s : State) (f : Mgmt → Mgmt) : (s.updMgmt f).aborts = s.aborts := rfl
@[simp] theorem State.updMgmt_heldReqs (s : State) (f : Mgmt → Mgmt) : (s.updMgmt f).heldReqs = s.heldReqs := rfl
@[simp] theorem State.updMgmt_msgs (s : State) (f : Mgmt → Mgmt) : (s.updMgmt f).msgs = s.msgs := rfl
@[simp] theorem State.updMgmt_ports (s : State) (f : Mgmt → Mgmt) : (s.updMgmt f).ports = s.ports := rfl
@[simp] theorem State.updMgmt_launches (s : State) (f : Mgmt → Mgmt) : (s.updMgmt f).launches = s.launches := rfl
@[simp] theorem State.updMgmt_nextLaunch (s : State) (f : Mgmt → Mgmt) : (s.updMgmt f).nextLaunch = s.nextLaunch := rfl
@[simp] theorem State.updMgmt_wakes (s : State) (f : Mgmt → Mgmt) : (s.updMgmt f).wakes = s.wakes := rfl
@[simp] theorem State.updMgmt_asks (s : State) (f : Mgmt → Mgmt) : (s.updMgmt f).asks = s.asks := rfl
@[simp] theorem State.updMgmt_answers (s : State) (f : Mgmt → Mgmt) : (s.updMgmt f).answers = s.answers := rfl
@[simp] theorem State.updMgmt_quantum (s : State) (f : Mgmt → Mgmt) : (s.updMgmt f).quantum = s.quantum := rfl
@[simp] theorem State.updMgmt_perUs (s : State) (f : Mgmt → Mgmt) : (s.updMgmt f).perUs = s.perUs := rfl
@[simp] theorem State.updMgmt_prom (s : State) (f : Mgmt → Mgmt) : (s.updMgmt f).prom = s.prom := rfl
@[simp] theorem State.updMgmt_batch (s : State) (f : Mgmt → Mgmt) : (s.updMgmt f).batch = s.batch := rfl
@[simp] theorem State.updMgmt_batchNs (s : State) (f : Mgmt → Mgmt) : (s.updMgmt f).batchNs = s.batchNs := rfl
@[simp] theorem State.updMgmt_batchStep (s : State) (f : Mgmt → Mgmt) : (s.updMgmt f).batchStep = s.batchStep := rfl
@[simp] theorem State.updMgmt_admitNs (s : State) (f : Mgmt → Mgmt) : (s.updMgmt f).admitNs = s.admitNs := rfl
@[simp] theorem State.updMgmt_admitGap (s : State) (f : Mgmt → Mgmt) : (s.updMgmt f).admitGap = s.admitGap := rfl
@[simp] theorem State.updMgmt_power (s : State) (f : Mgmt → Mgmt) : (s.updMgmt f).power = s.power := rfl
@[simp] theorem State.updMgmt_shadows (s : State) (f : Mgmt → Mgmt) : (s.updMgmt f).shadows = s.shadows := rfl
@[simp] theorem State.updMgmt_lwms (s : State) (f : Mgmt → Mgmt) : (s.updMgmt f).lwms = s.lwms := rfl
@[simp] theorem State.updMgmt_portSt (s : State) (f : Mgmt → Mgmt) : (s.updMgmt f).portSt = s.portSt := rfl
@[simp] theorem State.updMgmt_torus (s : State) (f : Mgmt → Mgmt) : (s.updMgmt f).torus = s.torus := rfl
@[simp] theorem State.updMgmt_escNew (s : State) (f : Mgmt → Mgmt) : (s.updMgmt f).escNew = s.escNew := rfl
@[simp] theorem State.updMgmt_net (s : State) (f : Mgmt → Mgmt) : (s.updMgmt f).net = s.net := rfl
@[simp] theorem State.updMgmt_nextPkt (s : State) (f : Mgmt → Mgmt) : (s.updMgmt f).nextPkt = s.nextPkt := rfl
@[simp] theorem State.updMgmt_farGot (s : State) (f : Mgmt → Mgmt) : (s.updMgmt f).farGot = s.farGot := rfl
@[simp] theorem State.updMgmt_frq (s : State) (f : Mgmt → Mgmt) : (s.updMgmt f).frq = s.frq := rfl
@[simp] theorem State.updMgmt_mem (s : State) (f : Mgmt → Mgmt) : (s.updMgmt f).mem = s.mem := rfl

/-! ## The part that is changed -/

@[simp] theorem State.updCluster_cluster_self (s : State) (c : Nat) (f : Cluster → Cluster) :
    (s.updCluster c f).cluster c = f (s.cluster c) := by
  simp [State.updCluster, State.cluster]

theorem State.updCluster_cluster_ne (s : State) {c d : Nat} (f : Cluster → Cluster) (h : d ≠ c) :
    (s.updCluster c f).cluster d = s.cluster d := by
  simp [State.updCluster, State.cluster, FMap.getD_set_ne _ _ _ h]

@[simp] theorem State.updFunc_func_self (s : State) (n : Nat) (f : Func → Func) : (s.updFunc n f).func n = f (s.func n) := by
  simp [State.updFunc, State.func]

theorem State.updFunc_func_ne (s : State) {n k : Nat} (f : Func → Func) (h : k ≠ n) : (s.updFunc n f).func k = s.func k := by
  simp [State.updFunc, State.func, FMap.getD_set_ne _ _ _ h]

@[simp] theorem State.updCtx_ctx_self (s : State) (x : Nat) (f : Ctx → Ctx) : (s.updCtx x f).ctx x = f (s.ctx x) := by
  simp [State.updCtx, State.ctx]

theorem State.updCtx_ctx_ne (s : State) {x y : Nat} (f : Ctx → Ctx) (h : y ≠ x) : (s.updCtx x f).ctx y = s.ctx y := by
  simp [State.updCtx, State.ctx, FMap.getD_set_ne _ _ _ h]

@[simp] theorem State.updSlice_slice_self (s : State) (k : Nat) (f : Slice → Slice) : (s.updSlice k f).slice k = f (s.slice k) := by
  simp [State.updSlice, State.slice]

@[simp] theorem State.updPart_part_self (s : State) (p : Nat) (f : Part → Part) : (s.updPart p f).part p = f (s.part p) := by
  simp [State.updPart, State.part]

theorem State.updPart_part_ne (s : State) {p r : Nat} (f : Part → Part) (h : r ≠ p) : (s.updPart p f).part r = s.part r := by
  simp [State.updPart, State.part, FMap.getD_set_ne _ _ _ h]

@[simp] theorem State.updMgmt_mgmt (s : State) (f : Mgmt → Mgmt) : (s.updMgmt f).mgmt = f s.mgmt := rfl

/-- The gang of a slot after it is changed. -/
theorem State.updGang_gang_self (s : State) (c slot : Nat) (f : Gang → Gang) :
    (s.updGang c slot f).gang? c slot = (s.gang? c slot).map f := by
  unfold State.updGang State.gang?
  simp only [State.updCluster_cluster_self]
  split
  · cases (s.cluster c).handler <;> rfl
  · exact FMap.find?_adjust_self _ _ _

/-- A gang's change leaves the gangs of other slots alone. -/
theorem State.updGang_gang_ne (s : State) {c slot d k : Nat} (f : Gang → Gang) (h : d ≠ c ∨ k ≠ slot) :
    (s.updGang c slot f).gang? d k = s.gang? d k := by
  unfold State.updGang State.gang?
  by_cases hd : d = c
  · subst hd
    have hk : k ≠ slot := h.resolve_left (by simp)
    simp only [State.updCluster_cluster_self]
    by_cases h1 : slot = handlerSlot
    · simp only [h1, if_true]
      rw [h1] at hk
      simp [hk]
    · simp only [h1, if_false]
      by_cases h2 : k = handlerSlot
      · simp [h2]
      · simp only [h2, if_false]
        exact FMap.find?_adjust_ne _ _ hk
  · rw [State.updCluster_cluster_ne _ _ hd]

theorem State.updIss_gang (s : State) (q : Issue) (f : Gang → Gang) : (s.updIss q f).issGang? q = (s.issGang? q).map f :=
  State.updGang_gang_self s _ _ f

end Sys2Proof.Machine
end

