-- ==== Sys2Proof/Laws/Charge.lean ====
section
/-! SUPPORT. What a charge can do: meters, buckets, counters, traces and, when it stops a context, the pending wakes of that context;
no memory, and of gangs the wakes alone. -/

namespace Sys2Proof.Machine

/-- Two states with the same gangs, memory, caches, fabric, agenda and registers, but for what energy and profiling move. -/
abbrev State.Kept (s t : State) : Prop := State.Same (fun _ _ => False) s t

theorem State.Same.refl (w : Nat → Nat → Prop) (s : State) : State.Same w s s :=
  ⟨rfl, fun _ => rfl, fun _ => rfl, fun _ => rfl, fun _ => rfl, fun _ => rfl, fun _ _ _ => rfl⟩

theorem State.Same.trans {w : Nat → Nat → Prop} {s t u : State} (a : State.Same w s t) (b : State.Same w t u) : State.Same w s u :=
  ⟨b.1.trans a.1, fun c => (b.2 c).trans (a.2 c), fun c => (b.3 c).trans (a.3 c), fun c => (b.4 c).trans (a.4 c),
    fun c => (b.5 c).trans (a.5 c), fun c => (b.6 c).trans (a.6 c), fun c k h => (b.7 c k h).trans (a.7 c k h)⟩

/-- What fewer slots are named for holds when more are. -/
theorem State.Same.weaken {w w' : Nat → Nat → Prop} {s t : State} (a : State.Same w s t) (h : ∀ c k, w c k → w' c k) : State.Same w' s t :=
  ⟨a.1, a.2, a.3, a.4, a.5, a.6, fun c k n => a.7 c k fun x => n (h c k x)⟩

theorem State.Kept.same {w : Nat → Nat → Prop} {s t : State} (a : s.Kept t) : State.Same w s t := State.Same.weaken a fun _ _ h => h.elim

theorem State.Kept.refl (s : State) : s.Kept s := State.Same.refl _ s

theorem State.Kept.trans {s t u : State} (a : s.Kept t) (b : t.Kept u) : s.Kept u := State.Same.trans a b

/-- Gangs as they stand in a kept state. -/
theorem State.Kept.gang {s t : State} (a : s.Kept t) (c k : Nat) : (t.gang? c k).map Gang.strip = (s.gang? c k).map Gang.strip :=
  a.gangs c k id

theorem State.Same.mem {w : Nat → Nat → Prop} {s t : State} (a : State.Same w s t) : t.mem = s.mem := by
  change t.still.mem = s.still.mem
  rw [a.still]
theorem State.Same.cur {w : Nat → Nat → Prop} {s t : State} (a : State.Same w s t) : t.cur = s.cur := by
  change t.still.cur = s.still.cur
  rw [a.still]
theorem State.Same.sels {w : Nat → Nat → Prop} {s t : State} (a : State.Same w s t) : t.sels = s.sels := by
  change t.still.sels = s.still.sels
  rw [a.still]
theorem State.Same.inputs {w : Nat → Nat → Prop} {s t : State} (a : State.Same w s t) : t.inputs = s.inputs := by
  change t.still.inputs = s.still.inputs
  rw [a.still]

theorem State.chargeCtx_kept (s : State) (x u : Nat) : s.Kept (s.chargeCtx x u) := by
  refine ⟨rfl, fun _ => rfl, fun _ => rfl, fun _ => rfl, fun f => ?_, fun y => ?_, fun _ _ _ => rfl⟩
  · unfold State.chargeCtx State.func
    dsimp only
    rw [FMap.getD_set]
    split
    · rename_i h; rw [h]; rfl
    · rfl
  · unfold State.chargeCtx State.ctx
    dsimp only
    rw [FMap.getD_set]
    split
    · rename_i h; rw [h]; rfl
    · rfl

/-- A context's change that `still` does not see. -/
theorem State.updCtx_kept (s : State) (x : Nat) (f : Ctx → Ctx) (hf : ∀ c, (f c).still = c.still) : s.Kept (s.updCtx x f) := by
  refine ⟨rfl, fun _ => rfl, fun _ => rfl, fun _ => rfl, fun _ => rfl, fun y => ?_, fun _ _ _ => rfl⟩
  by_cases h : y = x
  · rw [h, State.updCtx_ctx_self, hf]
  · rw [State.updCtx_ctx_ne _ _ h]

/-- A partition's change that `still` does not see. -/
theorem State.setPart_kept (s : State) (p : Nat) (v : Part) (hv : v.still = (s.part p).still) :
    s.Kept { s with parts := s.parts.set p v } := by
  refine ⟨rfl, fun _ => rfl, fun _ => rfl, fun r => ?_, fun _ => rfl, fun _ => rfl, fun _ _ _ => rfl⟩
  change ((s.parts.set p v).getD r Part.reset).still = _
  rw [FMap.getD_set]
  split
  · rename_i h; rw [h, hv]
  · rfl

theorem State.setPart_part (s : State) (p : Nat) (v : Part) : ({ s with parts := s.parts.set p v } : State).part p = v := by
  simp [State.part]

/-- A change of the package's own meters and clock. -/
theorem State.meters_kept (s : State) (a b : Nat) (h : DWord) : s.Kept { s with uncoreRaw := a, uncoreSum := b, hlc := h } :=
  ⟨rfl, fun _ => rfl, fun _ => rfl, fun _ => rfl, fun _ => rfl, fun _ => rfl, fun _ _ _ => rfl⟩

theorem State.take_kept (s : State) : s.Kept s.take.2 := State.meters_kept s s.uncoreRaw s.uncoreSum _

theorem State.chargeRaw_kept (s : State) (p x e q : Nat) : s.Kept (s.chargeRaw p x e q) := by
  unfold State.chargeRaw
  dsimp only
  split
  · exact ((State.meters_kept s _ _ s.hlc).trans (State.chargeCtx_kept _ _ _)).trans (State.updCtx_kept _ _ _ fun _ => rfl)
  · refine State.Kept.trans ?_ (State.chargeCtx_kept _ _ _)
    exact State.setPart_kept s _ _ rfl

theorem State.count_kept (s : State) (p f code n : Nat) : s.Kept (s.count p f code n) := by
  unfold State.count
  dsimp only
  split
  · exact .refl s
  · exact State.setPart_kept s _ _ rfl

theorem State.trace_kept (s : State) (p ev src gang x arg : Nat) (ia : DWord) (cs d : Nat) :
    s.Kept (s.trace p ev src gang x arg ia cs d) := by
  unfold State.trace
  dsimp only
  split
  · exact .refl s
  · repeat' split
    all_goals first | exact .refl s | exact State.setPart_kept s _ _ rfl | exact (State.take_kept s).trans (State.setPart_kept _ _ _ rfl)

theorem State.abandon_kept (s : State) (x : Nat) : s.Kept (s.abandon x) := by
  refine ⟨rfl, fun _ => rfl, fun _ => rfl, fun p => ?_, fun _ => rfl, fun _ => rfl, fun _ _ _ => rfl⟩
  have key : ∀ m : FMap Part, ∀ h : Nat × Part → Part, (∀ r, (h r).still = r.2.still) →
      (FMap.getD (List.map (fun r => (r.1, h r)) m) p Part.reset).still = (FMap.getD m p Part.reset).still := by
    intro m h hh
    unfold FMap.getD
    induction m with
    | nil => rfl
    | cons r m ih =>
      obtain ⟨k, v⟩ := r
      simp only [List.map_cons, FMap.find?]
      split
      · exact hh (k, v)
      · split
        · rfl
        · exact ih
  refine key s.parts _ fun r => ?_
  dsimp only
  split
  · rfl
  · split <;> rfl

theorem Gang.strip_noWake (g : Gang) (e : Bool) : (g.noWake e).strip = g.strip := by
  simp [Gang.strip, Gang.noWake, Thread.still, Function.comp_def]

theorem dropGangWakes_find (x : Nat) (e : Bool) (m : FMap Gang) (n : Nat) :
    FMap.find? (dropGangWakes x e m) n = (m.find? n).map fun g => if g.ctx = x then g.noWake e else g := by
  unfold dropGangWakes
  exact FMap.find?_map m (fun g => if g.ctx = x then g.noWake e else g) n

theorem Cluster.dropWakes_gang (k : Cluster) (x n : Nat) (e : Bool) :
    ((k.dropWakes x e).gangs.find? n).map Gang.strip = (k.gangs.find? n).map Gang.strip := by
  unfold Cluster.dropWakes
  dsimp only
  rw [dropGangWakes_find, Option.map_map]
  congr 1
  funext g
  simp only [Function.comp_apply]
  split
  · rw [Gang.strip_noWake]
  · rfl

theorem State.dropWakes_cluster (s : State) (x c : Nat) (e : Bool) :
    (s.dropWakes x e).cluster c = if s.clusters.has c then (s.cluster c).dropWakes x e else s.cluster c := by
  unfold State.cluster State.dropWakes FMap.getD FMap.has
  dsimp only
  rw [FMap.find?_map s.clusters (fun k => k.dropWakes x e)]
  cases FMap.find? s.clusters c <;> simp

theorem State.dropWakes_kept (s : State) (x : Nat) (e : Bool) : s.Kept (s.dropWakes x e) := by
  refine ⟨rfl, fun c => ?_, fun c => ?_, fun _ => rfl, fun _ => rfl, fun _ => rfl, fun c slot _ => ?_⟩
  · rw [State.dropWakes_cluster]
    split <;> rfl
  · rw [State.dropWakes_cluster]
    split <;> rfl
  · unfold State.gang?
    rw [State.dropWakes_cluster]
    by_cases h : s.clusters.has c = true
    · rw [if_pos h]
      by_cases hs : slot = handlerSlot
      · rw [if_pos hs, if_pos hs]; rfl
      · rw [if_neg hs, if_neg hs]; exact Cluster.dropWakes_gang _ _ _ _
    · rw [if_neg h]

theorem State.noteStop_kept (s : State) (p x : Nat) (old : Bool) : s.Kept (s.noteStop p x old) := by
  unfold State.noteStop
  split
  · exact .refl s
  · exact (((State.count_kept _ _ _ _ _).trans (State.trace_kept _ _ _ _ _ _ _ _ _ _)).trans (State.abandon_kept _ _)).trans
      (State.dropWakes_kept _ _ _)

/-- A charge leaves memory, caches, fabric, agenda and control alone, and gangs but for pending wakes. -/
theorem State.chargeQ_kept (s : State) (p x e q : Nat) : s.Kept (s.chargeQ p x e q) := by
  unfold State.chargeQ
  dsimp only
  split
  · exact (State.chargeRaw_kept _ _ _ _ _).trans (State.noteStop_kept _ _ _ _)
  · exact ((State.chargeRaw_kept _ _ _ _ _).trans (State.count_kept _ _ _ _ _)).trans (State.noteStop_kept _ _ _ _)

theorem State.charge_kept (s : State) (p x e n : Nat) : s.Kept (s.charge p x e n) := State.chargeQ_kept _ _ _ _ _

end Sys2Proof.Machine
end

