-- ==== Sys2Proof/Laws/Exec.lean ====
section
/-! SUPPORT. What `exec` answers for each constructor: one call of its meaning. -/

namespace Sys2Proof.Machine

theorem exec_add (w : Fields) (s : State) : exec (.add w) s = execAdd w s := rfl
theorem exec_sub (w : Fields) (s : State) : exec (.sub w) s = execSub w s := rfl
theorem exec_addc (w : Fields) (s : State) : exec (.addc w) s = execAddc w s := rfl
theorem exec_subc (w : Fields) (s : State) : exec (.subc w) s = execSubc w s := rfl
theorem exec_neg (w : Fields) (s : State) : exec (.neg w) s = execNeg w s := rfl
theorem exec_abs (w : Fields) (s : State) : exec (.abs w) s = execAbs w s := rfl
theorem exec_min (w : Fields) (s : State) : exec (.min w) s = execMin w s := rfl
theorem exec_max (w : Fields) (s : State) : exec (.max w) s = execMax w s := rfl
theorem exec_mul (w : Fields) (s : State) : exec (.mul w) s = execMul w s := rfl
theorem exec_mulhi (w : Fields) (s : State) : exec (.mulhi w) s = execMulhi w s := rfl
theorem exec_mulw (w : Fields) (s : State) : exec (.mulw w) s = execMulw w s := rfl
theorem exec_mad (w : Fields) (s : State) : exec (.mad w) s = execMad w s := rfl
theorem exec_madhi (w : Fields) (s : State) : exec (.madhi w) s = execMadhi w s := rfl
theorem exec_sad (w : Fields) (s : State) : exec (.sad w) s = execSad w s := rfl
theorem exec_avg (w : Fields) (s : State) : exec (.avg w) s = execAvg w s := rfl
theorem exec_clamp (w : Fields) (s : State) : exec (.clamp w) s = execClamp w s := rfl
theorem exec_and (w : Fields) (s : State) : exec (.and w) s = execAnd w s := rfl
theorem exec_or (w : Fields) (s : State) : exec (.or w) s = execOr w s := rfl
theorem exec_xor (w : Fields) (s : State) : exec (.xor w) s = execXor w s := rfl
theorem exec_andn (w : Fields) (s : State) : exec (.andn w) s = execAndn w s := rfl
theorem exec_not (w : Fields) (s : State) : exec (.not w) s = execNot w s := rfl
theorem exec_lop3 (w : Fields) (s : State) : exec (.lop3 w) s = execLop3 w s := rfl
theorem exec_shl (w : Fields) (s : State) : exec (.shl w) s = execShl w s := rfl
theorem exec_shr (w : Fields) (s : State) : exec (.shr w) s = execShr w s := rfl
theorem exec_sar (w : Fields) (s : State) : exec (.sar w) s = execSar w s := rfl
theorem exec_rotl (w : Fields) (s : State) : exec (.rotl w) s = execRotl w s := rfl
theorem exec_rotr (w : Fields) (s : State) : exec (.rotr w) s = execRotr w s := rfl
theorem exec_shf (w : Fields) (s : State) : exec (.shf w) s = execShf w s := rfl
theorem exec_bfe (w : Fields) (s : State) : exec (.bfe w) s = execBfe w s := rfl
theorem exec_bfi (w : Fields) (s : State) : exec (.bfi w) s = execBfi w s := rfl
theorem exec_brev (w : Fields) (s : State) : exec (.brev w) s = execBrev w s := rfl
theorem exec_popc (w : Fields) (s : State) : exec (.popc w) s = execPopc w s := rfl
theorem exec_clz (w : Fields) (s : State) : exec (.clz w) s = execClz w s := rfl
theorem exec_ffs (w : Fields) (s : State) : exec (.ffs w) s = execFfs w s := rfl
theorem exec_div (w : Fields) (s : State) : exec (.div w) s = execDiv w s := rfl
theorem exec_rem (w : Fields) (s : State) : exec (.rem w) s = execRem w s := rfl
theorem exec_ext (w : Fields) (s : State) : exec (.ext w) s = execExt w s := rfl
theorem exec_sat (w : Fields) (s : State) : exec (.sat w) s = execSat w s := rfl
theorem exec_pack (w : Fields) (s : State) : exec (.pack w) s = execPack w s := rfl
theorem exec_unpack (w : Fields) (s : State) : exec (.unpack w) s = execUnpack w s := rfl
theorem exec_mov (w : Fields) (s : State) : exec (.mov w) s = execMov w s := rfl
theorem exec_movl (w : Fields) (lit : BitVec 32) (s : State) : exec (.movl w lit) s = execMovl w lit s := rfl
theorem exec_sel (w : Fields) (s : State) : exec (.sel w) s = execSel w s := rfl
theorem exec_sreg (w : Fields) (s : State) : exec (.sreg w) s = execSreg w s := rfl
theorem exec_lea (w : Fields) (s : State) : exec (.lea w) s = execLea w s := rfl
theorem exec_wadd (w : Fields) (s : State) : exec (.wadd w) s = execWadd w s := rfl
theorem exec_xset (w : Fields) (lit : BitVec 32) (s : State) : exec (.xset w lit) s = execXset w lit s := rfl
theorem exec_xmov (w : Fields) (s : State) : exec (.xmov w) s = execXmov w s := rfl
theorem exec_xadd (w : Fields) (s : State) : exec (.xadd w) s = execXadd w s := rfl
theorem exec_xget (w : Fields) (s : State) : exec (.xget w) s = execXget w s := rfl
theorem exec_icmp (w : Fields) (s : State) : exec (.icmp w) s = execIcmp w s := rfl
theorem exec_icmpc (w : Fields) (s : State) : exec (.icmpc w) s = execIcmpc w s := rfl
theorem exec_pand (w : Fields) (s : State) : exec (.pand w) s = execPand w s := rfl
theorem exec_por (w : Fields) (s : State) : exec (.por w) s = execPor w s := rfl
theorem exec_pxor (w : Fields) (s : State) : exec (.pxor w) s = execPxor w s := rfl
theorem exec_pnot (w : Fields) (s : State) : exec (.pnot w) s = execPnot w s := rfl
theorem exec_pset (w : Fields) (s : State) : exec (.pset w) s = execPset w s := rfl
theorem exec_pget (w : Fields) (s : State) : exec (.pget w) s = execPget w s := rfl
theorem exec_fadd (w : Fields) (s : State) : exec (.fadd w) s = execFadd w s := rfl
theorem exec_fsub (w : Fields) (s : State) : exec (.fsub w) s = execFsub w s := rfl
theorem exec_fmul (w : Fields) (s : State) : exec (.fmul w) s = execFmul w s := rfl
theorem exec_fma (w : Fields) (s : State) : exec (.fma w) s = execFma w s := rfl
theorem exec_fms (w : Fields) (s : State) : exec (.fms w) s = execFms w s := rfl
theorem exec_fnma (w : Fields) (s : State) : exec (.fnma w) s = execFnma w s := rfl
theorem exec_fmin (w : Fields) (s : State) : exec (.fmin w) s = execFmin w s := rfl
theorem exec_fmax (w : Fields) (s : State) : exec (.fmax w) s = execFmax w s := rfl
theorem exec_fabs (w : Fields) (s : State) : exec (.fabs w) s = execFabs w s := rfl
theorem exec_fneg (w : Fields) (s : State) : exec (.fneg w) s = execFneg w s := rfl
theorem exec_fclamp (w : Fields) (s : State) : exec (.fclamp w) s = execFclamp w s := rfl
theorem exec_fdot2 (w : Fields) (s : State) : exec (.fdot2 w) s = execFdot2 w s := rfl
theorem exec_fdot4 (w : Fields) (s : State) : exec (.fdot4 w) s = execFdot4 w s := rfl
theorem exec_fcmp (w : Fields) (s : State) : exec (.fcmp w) s = execFcmp w s := rfl
theorem exec_fclass (w : Fields) (s : State) : exec (.fclass w) s = execFclass w s := rfl
theorem exec_fmode (w : Fields) (lit : BitVec 32) (s : State) : exec (.fmode w lit) s = execFmode w lit s := rfl
theorem exec_cvtf (w : Fields) (s : State) : exec (.cvtf w) s = execCvtf w s := rfl
theorem exec_cvtfi (w : Fields) (s : State) : exec (.cvtfi w) s = execCvtfi w s := rfl
theorem exec_cvtif (w : Fields) (s : State) : exec (.cvtif w) s = execCvtif w s := rfl
theorem exec_frnd (w : Fields) (s : State) : exec (.frnd w) s = execFrnd w s := rfl
theorem exec_fpack2 (w : Fields) (s : State) : exec (.fpack2 w) s = execFpack2 w s := rfl
theorem exec_funpack2 (w : Fields) (s : State) : exec (.funpack2 w) s = execFunpack2 w s := rfl
theorem exec_qscale (w : Fields) (s : State) : exec (.qscale w) s = execQscale w s := rfl
theorem exec_quant (w : Fields) (s : State) : exec (.quant w) s = execQuant w s := rfl
theorem exec_dequant (w : Fields) (s : State) : exec (.dequant w) s = execDequant w s := rfl
theorem exec_tepack (w : Fields) (s : State) : exec (.tepack w) s = execTepack w s := rfl
theorem exec_teunpack (w : Fields) (s : State) : exec (.teunpack w) s = execTeunpack w s := rfl
theorem exec_fsr (w : Fields) (s : State) : exec (.fsr w) s = execFsr w s := rfl
theorem exec_rcp (w : Fields) (s : State) : exec (.rcp w) s = execRcp w s := rfl
theorem exec_rsqrt (w : Fields) (s : State) : exec (.rsqrt w) s = execRsqrt w s := rfl
theorem exec_sqrt (w : Fields) (s : State) : exec (.sqrt w) s = execSqrt w s := rfl
theorem exec_fdiv (w : Fields) (s : State) : exec (.fdiv w) s = execFdiv w s := rfl
theorem exec_exp2 (w : Fields) (s : State) : exec (.exp2 w) s = execExp2 w s := rfl
theorem exec_log2 (w : Fields) (s : State) : exec (.log2 w) s = execLog2 w s := rfl
theorem exec_sin (w : Fields) (s : State) : exec (.sin w) s = execSin w s := rfl
theorem exec_cos (w : Fields) (s : State) : exec (.cos w) s = execCos w s := rfl
theorem exec_tanh (w : Fields) (s : State) : exec (.tanh w) s = execTanh w s := rfl
theorem exec_sigm (w : Fields) (s : State) : exec (.sigm w) s = execSigm w s := rfl
theorem exec_erf (w : Fields) (s : State) : exec (.erf w) s = execErf w s := rfl
theorem exec_jord (w : Fields) (s : State) : exec (.jord w) s = execJord w s := rfl
theorem exec_jseed (w : Fields) (s : State) : exec (.jseed w) s = execJseed w s := rfl
theorem exec_jget (w : Fields) (s : State) : exec (.jget w) s = execJget w s := rfl
theorem exec_jput (w : Fields) (s : State) : exec (.jput w) s = execJput w s := rfl
theorem exec_jzero (w : Fields) (s : State) : exec (.jzero w) s = execJzero w s := rfl
theorem exec_jadd (w : Fields) (s : State) : exec (.jadd w) s = execJadd w s := rfl
theorem exec_jsub (w : Fields) (s : State) : exec (.jsub w) s = execJsub w s := rfl
theorem exec_jmul (w : Fields) (s : State) : exec (.jmul w) s = execJmul w s := rfl
theorem exec_jfma (w : Fields) (s : State) : exec (.jfma w) s = execJfma w s := rfl
theorem exec_jscale (w : Fields) (s : State) : exec (.jscale w) s = execJscale w s := rfl
theorem exec_jshift (w : Fields) (s : State) : exec (.jshift w) s = execJshift w s := rfl
theorem exec_jdfac (w : Fields) (s : State) : exec (.jdfac w) s = execJdfac w s := rfl
theorem exec_jflg (w : Fields) (s : State) : exec (.jflg w) s = execJflg w s := rfl
theorem exec_jdiv (w : Fields) (s : State) : exec (.jdiv w) s = execJdiv w s := rfl
theorem exec_jrcp (w : Fields) (s : State) : exec (.jrcp w) s = execJrcp w s := rfl
theorem exec_jsqrt (w : Fields) (s : State) : exec (.jsqrt w) s = execJsqrt w s := rfl
theorem exec_jrsqrt (w : Fields) (s : State) : exec (.jrsqrt w) s = execJrsqrt w s := rfl
theorem exec_jexp (w : Fields) (s : State) : exec (.jexp w) s = execJexp w s := rfl
theorem exec_jlog (w : Fields) (s : State) : exec (.jlog w) s = execJlog w s := rfl
theorem exec_jsin (w : Fields) (s : State) : exec (.jsin w) s = execJsin w s := rfl
theorem exec_jcos (w : Fields) (s : State) : exec (.jcos w) s = execJcos w s := rfl
theorem exec_jtanh (w : Fields) (s : State) : exec (.jtanh w) s = execJtanh w s := rfl
theorem exec_ld (w : Fields) (s : State) : exec (.ld w) s = execLd w s := rfl
theorem exec_ldv (w : Fields) (s : State) : exec (.ldv w) s = execLdv w s := rfl
theorem exec_ldview (w : Fields) (s : State) : exec (.ldview w) s = execLdview w s := rfl
theorem exec_fpop (w : Fields) (s : State) : exec (.fpop w) s = execFpop w s := rfl
theorem exec_pf (w : Fields) (s : State) : exec (.pf w) s = execPf w s := rfl
theorem exec_st (w : Fields) (s : State) : exec (.st w) s = execSt w s := rfl
theorem exec_stv (w : Fields) (s : State) : exec (.stv w) s = execStv w s := rfl
theorem exec_stflag (w : Fields) (s : State) : exec (.stflag w) s = execStflag w s := rfl
theorem exec_fpush (w : Fields) (s : State) : exec (.fpush w) s = execFpush w s := rfl
theorem exec_stcsg (w : Fields) (s : State) : exec (.stcsg w) s = execStcsg w s := rfl
theorem exec_atom (w : Fields) (s : State) : exec (.atom w) s = execAtom w s := rfl
theorem exec_cas (w : Fields) (s : State) : exec (.cas w) s = execCas w s := rfl
theorem exec_atomr (w : Fields) (s : State) : exec (.atomr w) s = execAtomr w s := rfl
theorem exec_atomf (w : Fields) (s : State) : exec (.atomf w) s = execAtomf w s := rfl
theorem exec_csgOpen (w : Fields) (s : State) : exec (.csgOpen w) s = execCsgOpen w s := rfl
theorem exec_csgSeal (w : Fields) (s : State) : exec (.csgSeal w) s = execCsgSeal w s := rfl
theorem exec_csgAbort (w : Fields) (s : State) : exec (.csgAbort w) s = execCsgAbort w s := rfl
theorem exec_viewOpen (w : Fields) (s : State) : exec (.viewOpen w) s = execViewOpen w s := rfl
theorem exec_viewClose (w : Fields) (s : State) : exec (.viewClose w) s = execViewClose w s := rfl
theorem exec_viewStamp (w : Fields) (s : State) : exec (.viewStamp w) s = execViewStamp w s := rfl
theorem exec_fence (w : Fields) (s : State) : exec (.fence w) s = execFence w s := rfl
theorem exec_fenceSc (w : Fields) (s : State) : exec (.fenceSc w) s = execFenceSc w s := rfl
theorem exec_wait (w : Fields) (s : State) : exec (.wait w) s = execWait w s := rfl
theorem exec_wb (w : Fields) (s : State) : exec (.wb w) s = execWb w s := rfl
theorem exec_inv (w : Fields) (s : State) : exec (.inv w) s = execInv w s := rfl
theorem exec_bra (w : Fields) (lit : BitVec 32) (s : State) : exec (.bra w lit) s = execBra w lit s := rfl
theorem exec_brp (w : Fields) (lit : BitVec 32) (s : State) : exec (.brp w lit) s = execBrp w lit s := rfl
theorem exec_brx (w : Fields) (s : State) : exec (.brx w) s = execBrx w s := rfl
theorem exec_call (w : Fields) (lit : BitVec 32) (s : State) : exec (.call w lit) s = execCall w lit s := rfl
theorem exec_callx (w : Fields) (s : State) : exec (.callx w) s = execCallx w s := rfl
theorem exec_ret (w : Fields) (s : State) : exec (.ret w) s = execRet w s := rfl
theorem exec_switch (w : Fields) (lit : BitVec 32) (s : State) : exec (.switch w lit) s = execSwitch w lit s := rfl
theorem exec_exit (w : Fields) (s : State) : exec (.exit w) s = execExit w s := rfl
theorem exec_meet (w : Fields) (lit : BitVec 32) (s : State) : exec (.meet w lit) s = execMeet w lit s := rfl
theorem exec_loop (w : Fields) (lit : BitVec 32) (s : State) : exec (.loop w lit) s = execLoop w lit s := rfl
theorem exec_nop (w : Fields) (s : State) : exec (.nop w) s = execNop w s := rfl
theorem exec_yield (w : Fields) (s : State) : exec (.yield w) s = execYield w s := rfl
theorem exec_shfl (w : Fields) (s : State) : exec (.shfl w) s = execShfl w s := rfl
theorem exec_vote (w : Fields) (s : State) : exec (.vote w) s = execVote w s := rfl
theorem exec_red (w : Fields) (s : State) : exec (.red w) s = execRed w s := rfl
theorem exec_scan (w : Fields) (s : State) : exec (.scan w) s = execScan w s := rfl
theorem exec_matchLanes (w : Fields) (s : State) : exec (.matchLanes w) s = execMatchLanes w s := rfl
theorem exec_elect (w : Fields) (s : State) : exec (.elect w) s = execElect w s := rfl
theorem exec_tidSet (w : Fields) (lit : BitVec 32) (s : State) : exec (.tidSet w lit) s = execTidSet w lit s := rfl
theorem exec_tidGet (w : Fields) (s : State) : exec (.tidGet w) s = execTidGet w s := rfl
theorem exec_mxLdb (w : Fields) (s : State) : exec (.mxLdb w) s = execMxLdb w s := rfl
theorem exec_mxLda (w : Fields) (s : State) : exec (.mxLda w) s = execMxLda w s := rfl
theorem exec_mxMma (w : Fields) (lit : BitVec 32) (s : State) : exec (.mxMma w lit) s = execMxMma w lit s := rfl
theorem exec_mxZero (w : Fields) (s : State) : exec (.mxZero w) s = execMxZero w s := rfl
theorem exec_accWin (w : Fields) (s : State) : exec (.accWin w) s = execAccWin w s := rfl
theorem exec_accPop (w : Fields) (s : State) : exec (.accPop w) s = execAccPop w s := rfl
theorem exec_accLd (w : Fields) (s : State) : exec (.accLd w) s = execAccLd w s := rfl
theorem exec_accSt (w : Fields) (s : State) : exec (.accSt w) s = execAccSt w s := rfl
theorem exec_cpTile (w : Fields) (s : State) : exec (.cpTile w) s = execCpTile w s := rfl
theorem exec_cpLin (w : Fields) (s : State) : exec (.cpLin w) s = execCpLin w s := rfl
theorem exec_cpMcast (w : Fields) (s : State) : exec (.cpMcast w) s = execCpMcast w s := rfl
theorem exec_cpWptr (w : Fields) (s : State) : exec (.cpWptr w) s = execCpWptr w s := rfl
theorem exec_cpCancel (w : Fields) (s : State) : exec (.cpCancel w) s = execCpCancel w s := rfl
theorem exec_chain (w : Fields) (s : State) : exec (.chain w) s = execChain w s := rfl
theorem exec_chainStat (w : Fields) (s : State) : exec (.chainStat w) s = execChainStat w s := rfl
theorem exec_barInit (w : Fields) (s : State) : exec (.barInit w) s = execBarInit w s := rfl
theorem exec_barArrive (w : Fields) (s : State) : exec (.barArrive w) s = execBarArrive w s := rfl
theorem exec_barWait (w : Fields) (s : State) : exec (.barWait w) s = execBarWait w s := rfl
theorem exec_barExpect (w : Fields) (s : State) : exec (.barExpect w) s = execBarExpect w s := rfl
theorem exec_barTry (w : Fields) (s : State) : exec (.barTry w) s = execBarTry w s := rfl
theorem exec_gbar (w : Fields) (s : State) : exec (.gbar w) s = execGbar w s := rfl
theorem exec_gridbar (w : Fields) (s : State) : exec (.gridbar w) s = execGridbar w s := rfl
theorem exec_trap (w : Fields) (s : State) : exec (.trap w) s = execTrap w s := rfl
theorem exec_brk (w : Fields) (s : State) : exec (.brk w) s = execBrk w s := rfl
theorem exec_featq (w : Fields) (s : State) : exec (.featq w) s = execFeatq w s := rfl
theorem exec_clock (w : Fields) (s : State) : exec (.clock w) s = execClock w s := rfl
theorem exec_emtr (w : Fields) (s : State) : exec (.emtr w) s = execEmtr w s := rfl
theorem exec_opreq (w : Fields) (s : State) : exec (.opreq w) s = execOpreq w s := rfl
theorem exec_prog (w : Fields) (s : State) : exec (.prog w) s = execProg w s := rfl
theorem exec_sleep (w : Fields) (s : State) : exec (.sleep w) s = execSleep w s := rfl
theorem exec_headerPass (c slot lane : Nat) (s : State) : exec (.headerPass c slot lane) s = execHeaderPass c slot lane s := rfl
theorem exec_starvationOverride (c row : Nat) (s : State) : exec (.starvationOverride c row) s = execStarvationOverride c row s := rfl
theorem exec_pcOverride (c slot : Nat) (s : State) : exec (.pcOverride c slot) s = execPcOverride c slot s := rfl
theorem exec_yieldExpiry (c slot lane : Nat) (s : State) : exec (.yieldExpiry c slot lane) s = execYieldExpiry c slot lane s := rfl
theorem exec_sleepExpiry (c slot lane : Nat) (s : State) : exec (.sleepExpiry c slot lane) s = execSleepExpiry c slot lane s := rfl
theorem exec_registerRelease (c slot : Nat) (s : State) : exec (.registerRelease c slot) s = execRegisterRelease c slot s := rfl
theorem exec_blockEnd (c blk : Nat) (s : State) : exec (.blockEnd c blk) s = execBlockEnd c blk s := rfl
theorem exec_walkComplete (p e : Nat) (s : State) : exec (.walkComplete p e) s = execWalkComplete p e s := rfl
theorem exec_walkRead (p e : Nat) (s : State) : exec (.walkRead p e) s = execWalkRead p e s := rfl
theorem exec_adUpdate (p e : Nat) (s : State) : exec (.adUpdate p e) s = execAdUpdate p e s := rfl
theorem exec_heldRequestWrite (f : Nat) (s : State) : exec (.heldRequestWrite f) s = execHeldRequestWrite f s := rfl
theorem exec_retry (f : Nat) (s : State) : exec (.retry f) s = execRetry f s := rfl
theorem exec_deliver (f : Nat) (s : State) : exec (.deliver f) s = execDeliver f s := rfl
theorem exec_abortRsp (f : Nat) (s : State) : exec (.abortRsp f) s = execAbortRsp f s := rfl
theorem exec_tlbiNop (f : Nat) (cmd : BitVec 64) (s : State) : exec (.tlbiNop f cmd) s = execTlbiNop f cmd s := rfl
theorem exec_tlbiRangeCtx (f : Nat) (cmd : BitVec 64) (s : State) : exec (.tlbiRangeCtx f cmd) s = execTlbiRangeCtx f cmd s := rfl
theorem exec_tlbiRangeAll (f : Nat) (cmd : BitVec 64) (s : State) : exec (.tlbiRangeAll f cmd) s = execTlbiRangeAll f cmd s := rfl
theorem exec_tlbiCtx (f : Nat) (cmd : BitVec 64) (s : State) : exec (.tlbiCtx f cmd) s = execTlbiCtx f cmd s := rfl
theorem exec_tlbiFunction (f : Nat) (cmd : BitVec 64) (s : State) : exec (.tlbiFunction f cmd) s = execTlbiFunction f cmd s := rfl
theorem exec_tlbiStage2Range (f : Nat) (cmd : BitVec 64) (s : State) : exec (.tlbiStage2Range f cmd) s = execTlbiStage2Range f cmd s := rfl
theorem exec_tlbiFunctionPf (f : Nat) (cmd : BitVec 64) (s : State) : exec (.tlbiFunctionPf f cmd) s = execTlbiFunctionPf f cmd s := rfl
theorem exec_tlbiComplete (f : Nat) (s : State) : exec (.tlbiComplete f) s = execTlbiComplete f s := rfl
theorem exec_bankmodeReq (f c : Nat) (v : BitVec 64) (s : State) : exec (.bankmodeReq f c v) s = execBankmodeReq f c v s := rfl
theorem exec_bankDrain (c b : Nat) (s : State) : exec (.bankDrain c b) s = execBankDrain c b s := rfl
theorem exec_copyStep (c ch : Nat) (s : State) : exec (.copyStep c ch) s = execCopyStep c ch s := rfl
theorem exec_copyCommandBegin (c ch : Nat) (s : State) : exec (.copyCommandBegin c ch) s = execCopyCommandBegin c ch s := rfl
theorem exec_chainCommandBegin (c : Nat) (s : State) : exec (.chainCommandBegin c) s = execChainCommandBegin c s := rfl
theorem exec_chainElement (c : Nat) (s : State) : exec (.chainElement c) s = execChainElement c s := rfl
theorem exec_mxCommandBegin (c : Nat) (s : State) : exec (.mxCommandBegin c) s = execMxCommandBegin c s := rfl
theorem exec_mxCommandComplete (c : Nat) (s : State) : exec (.mxCommandComplete c) s = execMxCommandComplete c s := rfl
theorem exec_queueRowEnter (c q : Nat) (s : State) : exec (.queueRowEnter c q) s = execQueueRowEnter c q s := rfl
theorem exec_lineFill (slice mr : Nat) (s : State) : exec (.lineFill slice mr) s = execLineFill slice mr s := rfl
theorem exec_missRegisterGrant (slice : Nat) (s : State) : exec (.missRegisterGrant slice) s = execMissRegisterGrant slice s := rfl
theorem exec_evictionAccepted (slice line : Nat) (s : State) : exec (.evictionAccepted slice line) s = execEvictionAccepted slice line s := rfl
theorem exec_evictionPromotion (slice line : Nat) (s : State) : exec (.evictionPromotion slice line) s = execEvictionPromotion slice line s := rfl
theorem exec_escapeMove (die pkt : Nat) (s : State) : exec (.escapeMove die pkt) s = execEscapeMove die pkt s := rfl
theorem exec_promotionRequest (slice line : Nat) (s : State) : exec (.promotionRequest slice line) s = execPromotionRequest slice line s := rfl
theorem exec_promotionAck (slice line : Nat) (s : State) : exec (.promotionAck slice line) s = execPromotionAck slice line s := rfl
theorem exec_l1Writeback (c line : Nat) (s : State) : exec (.l1Writeback c line) s = execL1Writeback c line s := rfl
theorem exec_flushingReadComplete (c slot lane : Nat) (s : State) : exec (.flushingReadComplete c slot lane) s = execFlushingReadComplete c slot lane s := rfl
theorem exec_heartbeatTick (s : State) : exec (.heartbeatTick) s = execHeartbeatTick s := rfl
theorem exec_fabricCadenceTick (s : State) : exec (.fabricCadenceTick) s = execFabricCadenceTick s := rfl
theorem exec_fenceScComplete (c slot lane : Nat) (s : State) : exec (.fenceScComplete c slot lane) s = execFenceScComplete c slot lane s := rfl
theorem exec_timeLockChange (locked : Bool) (s : State) : exec (.timeLockChange locked) s = execTimeLockChange locked s := rfl
theorem exec_remoteAck (tag : Nat) (stamp : BitVec 64) (s : State) : exec (.remoteAck tag stamp) s = execRemoteAck tag stamp s := rfl
theorem exec_remoteResponse (tag : Nat) (stamp : BitVec 64) (data : List (BitVec 8)) (s : State) : exec (.remoteResponse tag stamp data) s = execRemoteResponse tag stamp data s := rfl
theorem exec_stflagDepart (c slot op : Nat) (s : State) : exec (.stflagDepart c slot op) s = execStflagDepart c slot op s := rfl
theorem exec_remoteRequestArrival (r : RemoteReq) (s : State) : exec (.remoteRequestArrival r) s = execRemoteRequestArrival r s := rfl
theorem exec_refusal (tag : Nat) (stamp : BitVec 64) (s : State) : exec (.refusal tag stamp) s = execRefusal tag stamp s := rfl
theorem exec_requestTimeout (tag : Nat) (s : State) : exec (.requestTimeout tag) s = execRequestTimeout tag s := rfl
theorem exec_invalidation (pkg line : Nat) (s : State) : exec (.invalidation pkg line) s = execInvalidation pkg line s := rfl
theorem exec_exportInvalidationAck (line : Nat) (s : State) : exec (.exportInvalidationAck line) s = execExportInvalidationAck line s := rfl
theorem exec_recall (line : Nat) (data : List (BitVec 8)) (s : State) : exec (.recall line data) s = execRecall line data s := rfl
theorem exec_slotTransmit (port : Nat) (s : State) : exec (.slotTransmit port) s = execSlotTransmit port s := rfl
theorem exec_slotReceive (port : Nat) (bytes : List (BitVec 8)) (s : State) : exec (.slotReceive port bytes) s = execSlotReceive port bytes s := rfl
theorem exec_replayTimeout (port : Nat) (s : State) : exec (.replayTimeout port) s = execReplayTimeout port s := rfl
theorem exec_retrainComplete (port : Nat) (s : State) : exec (.retrainComplete port) s = execRetrainComplete port s := rfl
theorem exec_retrainTimeout (port : Nat) (s : State) : exec (.retrainTimeout port) s = execRetrainTimeout port s := rfl
theorem exec_keyRotation (port switchAt : Nat) (s : State) : exec (.keyRotation port switchAt) s = execKeyRotation port switchAt s := rfl
theorem exec_lineHomeStcsg (c slot op lane : Nat) (s : State) : exec (.lineHomeStcsg c slot op lane) s = execLineHomeStcsg c slot op lane s := rfl
theorem exec_sealRecord (c slot cs : Nat) (s : State) : exec (.sealRecord c slot cs) s = execSealRecord c slot cs s := rfl
theorem exec_sealNotice (csgid mrec : Nat) (sealT : BitVec 64) (s : State) : exec (.sealNotice csgid mrec sealT) s = execSealNotice csgid mrec sealT s := rfl
theorem exec_sealNoticeAck (f rec pkg : Nat) (stamp : BitVec 64) (s : State) : exec (.sealNoticeAck f rec pkg stamp) s = execSealNoticeAck f rec pkg stamp s := rfl
theorem exec_restoreTags (csgid mrec : Nat) (s : State) : exec (.restoreTags csgid mrec) s = execRestoreTags csgid mrec s := rfl
theorem exec_abortComplete (c slot cs : Nat) (s : State) : exec (.abortComplete c slot cs) s = execAbortComplete c slot cs s := rfl
theorem exec_lwmReport (dom : Nat) (s : State) : exec (.lwmReport dom) s = execLwmReport dom s := rfl
theorem exec_lwmBroadcast (dom : Nat) (s : State) : exec (.lwmBroadcast dom) s = execLwmBroadcast dom s := rfl
theorem exec_lwmReceive (dom : Nat) (lwm stamp : BitVec 64) (s : State) : exec (.lwmReceive dom lwm stamp) s = execLwmReceive dom lwm stamp s := rfl
theorem exec_tagSweep (f : Nat) (entry : Nat) (s : State) : exec (.tagSweep f entry) s = execTagSweep f entry s := rfl
theorem exec_sqTail (f q : Nat) (v : BitVec 64) (s : State) : exec (.sqTail f q v) s = execSqTail f q v s := rfl
theorem exec_launch (f q : Nat) (s : State) : exec (.launch f q) s = execLaunch f q s := rfl
theorem exec_signalEntry (f q : Nat) (s : State) : exec (.signalEntry f q) s = execSignalEntry f q s := rfl
theorem exec_dependenceRead (f q : Nat) (s : State) : exec (.dependenceRead f q) s = execDependenceRead f q s := rfl
theorem exec_entryComplete (f q : Nat) (s : State) : exec (.entryComplete f q) s = execEntryComplete f q s := rfl
theorem exec_cqHead (f q : Nat) (v : BitVec 64) (s : State) : exec (.cqHead f q v) s = execCqHead f q v s := rfl
theorem exec_dispatchSelect (s : State) : exec (.dispatchSelect) s = execDispatchSelect s := rfl
theorem exec_coopWaitLimit (f ctx : Nat) (s : State) : exec (.coopWaitLimit f ctx) s = execCoopWaitLimit f ctx s := rfl
theorem exec_fairnessPreempt (s : State) : exec (.fairnessPreempt) s = execFairnessPreempt s := rfl
theorem exec_slewBatch (s : State) : exec (.slewBatch) s = execSlewBatch s := rfl
theorem exec_clusterAdmit (c : Nat) (s : State) : exec (.clusterAdmit c) s = execClusterAdmit c s := rfl
theorem exec_tick (s : State) : exec (.tick) s = execTick s := rfl
theorem exec_correctionWindow (s : State) : exec (.correctionWindow) s = execCorrectionWindow s := rfl
theorem exec_corrCtl (v : BitVec 64) (s : State) : exec (.corrCtl v) s = execCorrCtl v s := rfl
theorem exec_sharedUncoreCharge (s : State) : exec (.sharedUncoreCharge) s = execSharedUncoreCharge s := rfl
theorem exec_vfMeterUpdate (f : Nat) (s : State) : exec (.vfMeterUpdate f) s = execVfMeterUpdate f s := rfl
theorem exec_meterLoRead (win : Nat) (m : MeterName) (s : State) : exec (.meterLoRead win m) s = execMeterLoRead win m s := rfl
theorem exec_meterHiRead (win : Nat) (m : MeterName) (s : State) : exec (.meterHiRead win m) s = execMeterHiRead win m s := rfl
theorem exec_meterRead64 (win : Nat) (m : MeterName) (s : State) : exec (.meterRead64 win m) s = execMeterRead64 win m s := rfl
theorem exec_meterMigrationWrite (f off : Nat) (v : BitVec 64) (s : State) : exec (.meterMigrationWrite f off v) s = execMeterMigrationWrite f off v s := rfl
theorem exec_opTransition (p : Nat) (s : State) : exec (.opTransition p) s = execOpTransition p s := rfl
theorem exec_voltageRampDone (p : Nat) (s : State) : exec (.voltageRampDone p) s = execVoltageRampDone p s := rfl
theorem exec_clockSwitchDone (p : Nat) (s : State) : exec (.clockSwitchDone p) s = execClockSwitchDone p s := rfl
theorem exec_powerCheck (watts : Nat) (s : State) : exec (.powerCheck watts) s = execPowerCheck watts s := rfl
theorem exec_pkgOc (s : State) : exec (.pkgOc) s = execPkgOc s := rfl
theorem exec_partOc (p : Nat) (s : State) : exec (.partOc p) s = execPartOc p s := rfl
theorem exec_undervolt (rail : Nat) (s : State) : exec (.undervolt rail) s = execUndervolt rail s := rfl
theorem exec_overtemp (s : State) : exec (.overtemp) s = execOvertemp s := rfl
theorem exec_slewAlarm (s : State) : exec (.slewAlarm) s = execSlewAlarm s := rfl
theorem exec_alarmActionEnd (cause unit : Nat) (s : State) : exec (.alarmActionEnd cause unit) s = execAlarmActionEnd cause unit s := rfl
theorem exec_pwrAlarmWrite (v : BitVec 64) (s : State) : exec (.pwrAlarmWrite v) s = execPwrAlarmWrite v s := rfl
theorem exec_demandSend (avgWatts : Nat) (s : State) : exec (.demandSend avgWatts) s = execDemandSend avgWatts s := rfl
theorem exec_demandReceive (pkg floor demand : Nat) (stamp : BitVec 64) (seq : Nat) (s : State) : exec (.demandReceive pkg floor demand stamp seq) s = execDemandReceive pkg floor demand stamp seq s := rfl
theorem exec_grantCompute (s : State) : exec (.grantCompute) s = execGrantCompute s := rfl
theorem exec_grantReceive (src seq watts : Nat) (stamp : BitVec 64) (s : State) : exec (.grantReceive src seq watts stamp) s = execGrantReceive src seq watts stamp s := rfl
theorem exec_grantLapse (s : State) : exec (.grantLapse) s = execGrantLapse s := rfl
theorem exec_stepStart (unit : Nat) (s : State) : exec (.stepStart unit) s = execStepStart unit s := rfl
theorem exec_trapRingRetry (c : Nat) (s : State) : exec (.trapRingRetry c) s = execTrapRingRetry c s := rfl
theorem exec_gangCtl (c slot : Nat) (v : BitVec 64) (s : State) : exec (.gangCtl c slot v) s = execGangCtl c slot v s := rfl
theorem exec_dbgDataRead (c : Nat) (s : State) : exec (.dbgDataRead c) s = execDbgDataRead c s := rfl
theorem exec_dbgDataWrite (c : Nat) (v : BitVec 64) (s : State) : exec (.dbgDataWrite c v) s = execDbgDataWrite c v s := rfl
theorem exec_userHandler (c : Nat) (s : State) : exec (.userHandler c) s = execUserHandler c s := rfl
theorem exec_handlerTimeout (c : Nat) (s : State) : exec (.handlerTimeout c) s = execHandlerTimeout c s := rfl
theorem exec_ctxPreempt (f ctx : Nat) (s : State) : exec (.ctxPreempt f ctx) s = execCtxPreempt f ctx s := rfl
theorem exec_ctxCmdEnd (f ctx : Nat) (s : State) : exec (.ctxCmdEnd f ctx) s = execCtxCmdEnd f ctx s := rfl
theorem exec_contextSave (f ctx : Nat) (s : State) : exec (.contextSave f ctx) s = execContextSave f ctx s := rfl
theorem exec_contextResume (f ctx : Nat) (s : State) : exec (.contextResume f ctx) s = execContextResume f ctx s := rfl
theorem exec_sessionClaim (f p res : Nat) (cmd : BitVec 64) (s : State) : exec (.sessionClaim f p res cmd) s = execSessionClaim f p res cmd s := rfl
theorem exec_sessionRelease (f p res : Nat) (cmd : BitVec 64) (s : State) : exec (.sessionRelease f p res cmd) s = execSessionRelease f p res cmd s := rfl
theorem exec_sessionStart (f p res : Nat) (cmd : BitVec 64) (s : State) : exec (.sessionStart f p res cmd) s = execSessionStart f p res cmd s := rfl
theorem exec_sessionStop (f p res : Nat) (cmd : BitVec 64) (s : State) : exec (.sessionStop f p res cmd) s = execSessionStop f p res cmd s := rfl
theorem exec_sessionRestore (f p res : Nat) (cmd : BitVec 64) (s : State) : exec (.sessionRestore f p res cmd) s = execSessionRestore f p res cmd s := rfl
theorem exec_sessionClear (f p res : Nat) (cmd : BitVec 64) (s : State) : exec (.sessionClear f p res cmd) s = execSessionClear f p res cmd s := rfl
theorem exec_pcSample (c row : Nat) (s : State) : exec (.pcSample c row) s = execPcSample c row s := rfl
theorem exec_trialEnd (p : Nat) (s : State) : exec (.trialEnd p) s = execTrialEnd p s := rfl
theorem exec_captureSample (p u : Nat) (v : BitVec 32) (s : State) : exec (.captureSample p u v) s = execCaptureSample p u v s := rfl
theorem exec_hcuClear (p u : Nat) (v : BitVec 64) (s : State) : exec (.hcuClear p u v) s = execHcuClear p u v s := rfl
theorem exec_ctxCreate (f : Nat) (s : State) : exec (.ctxCreate f) s = execCtxCreate f s := rfl
theorem exec_ctxDestroy (f : Nat) (s : State) : exec (.ctxDestroy f) s = execCtxDestroy f s := rfl
theorem exec_ctxOpEnd (f : Nat) (s : State) : exec (.ctxOpEnd f) s = execCtxOpEnd f s := rfl
theorem exec_descriptorWrite (f word : Nat) (v : BitVec 64) (s : State) : exec (.descriptorWrite f word v) s = execDescriptorWrite f word v s := rfl
theorem exec_coldReset (s : State) : exec (.coldReset) s = execColdReset s := rfl
theorem exec_warmReset (s : State) : exec (.warmReset) s = execWarmReset s := rfl
theorem exec_hotReset (s : State) : exec (.hotReset) s = execHotReset s := rfl
theorem exec_functionLevelReset (f : Nat) (s : State) : exec (.functionLevelReset f) s = execFunctionLevelReset f s := rfl
theorem exec_boot (found : List (BitVec 64)) (s : State) : exec (.boot found) s = execBoot found s := rfl
theorem exec_msixUnmask (f vec : Nat) (s : State) : exec (.msixUnmask f vec) s = execMsixUnmask f vec s := rfl
theorem exec_mbxStatus (port : Port) (cmd : BitVec 64) (body : List (BitVec 8)) (s : State) : exec (.mbxStatus port cmd body) s = execMbxStatus port cmd body s := rfl
theorem exec_signedMeterReading (port : Port) (cmd : BitVec 64) (body : List (BitVec 8)) (s : State) : exec (.signedMeterReading port cmd body) s = execSignedMeterReading port cmd body s := rfl
theorem exec_spdmMessage (port : Port) (cmd : BitVec 64) (body : List (BitVec 8)) (s : State) : exec (.spdmMessage port cmd body) s = execSpdmMessage port cmd body s := rfl
theorem exec_stageImage (port : Port) (cmd : BitVec 64) (body : List (BitVec 8)) (s : State) : exec (.stageImage port cmd body) s = execStageImage port cmd body s := rfl
theorem exec_activateSlot (port : Port) (cmd : BitVec 64) (body : List (BitVec 8)) (s : State) : exec (.activateSlot port cmd body) s = execActivateSlot port cmd body s := rfl
theorem exec_writeConfigurationRecord (port : Port) (cmd : BitVec 64) (body : List (BitVec 8)) (s : State) : exec (.writeConfigurationRecord port cmd body) s = execWriteConfigurationRecord port cmd body s := rfl
theorem exec_readConfigurationRecord (port : Port) (cmd : BitVec 64) (body : List (BitVec 8)) (s : State) : exec (.readConfigurationRecord port cmd body) s = execReadConfigurationRecord port cmd body s := rfl
theorem exec_mbxWarmReset (port : Port) (cmd : BitVec 64) (body : List (BitVec 8)) (s : State) : exec (.mbxWarmReset port cmd body) s = execMbxWarmReset port cmd body s := rfl
theorem exec_semAcquire (port : Port) (s : State) : exec (.semAcquire port) s = execSemAcquire port s := rfl
theorem exec_semRelease (port : Port) (s : State) : exec (.semRelease port) s = execSemRelease port s := rfl
theorem exec_semRenew (port : Port) (s : State) : exec (.semRenew port) s = execSemRenew port s := rfl
theorem exec_semTimeout (s : State) : exec (.semTimeout) s = execSemTimeout s := rfl
theorem exec_translatorRequest (f : Nat) (v : BitVec 64) (s : State) : exec (.translatorRequest f v) s = execTranslatorRequest f v s := rfl
theorem exec_translatorDone (f : Nat) (s : State) : exec (.translatorDone f) s = execTranslatorDone f s := rfl
theorem exec_hostWrite (pa : Nat) (bytes : List (BitVec 8)) (s : State) : exec (.hostWrite pa bytes) s = execHostWrite pa bytes s := rfl
theorem exec_registerWrite (win off len : Nat) (v : BitVec 64) (s : State) : exec (.registerWrite win off len v) s = execRegisterWrite win off len v s := rfl
theorem exec_illegalInstruction (s : State) : exec (.illegalInstruction) s = execIllegalInstruction s := rfl
theorem exec_localAccessResponse (c slot op : Nat) (data : List (BitVec 8)) (s : State) : exec (.localAccessResponse c slot op data) s = execLocalAccessResponse c slot op data s := rfl
theorem exec_softError (place : ErrorPlace) (dbl : Bool) (s : State) : exec (.softError place dbl) s = execSoftError place dbl s := rfl
theorem exec_patrolScrubbing (slice line : Nat) (s : State) : exec (.patrolScrubbing slice line) s = execPatrolScrubbing slice line s := rfl
theorem exec_functionLevelResetEnd (f : Nat) (s : State) : exec (.functionLevelResetEnd f) s = execFunctionLevelResetEnd f s := rfl
theorem exec_vfOpmaxWrite (f : Nat) (v : BitVec 64) (s : State) : exec (.vfOpmaxWrite f v) s = execVfOpmaxWrite f v s := rfl
theorem exec_tlbiCmdRefused (f : Nat) (cmd : BitVec 64) (s : State) : exec (.tlbiCmdRefused f cmd) s = execTlbiCmdRefused f cmd s := rfl
theorem exec_badCmd (port : Port) (cmd : BitVec 64) (body : List (BitVec 8)) (s : State) : exec (.badCmd port cmd body) s = execBadCmd port cmd body s := rfl
theorem exec_recordRead (f rec csgid : Nat) (snap : BitVec 64) (asker : Nat) (s : State) : exec (.recordRead f rec csgid snap asker) s = execRecordRead f rec csgid snap asker s := rfl
theorem exec_recordReadAnswer (line : Nat) (word0 sealT stamp : BitVec 64) (s : State) : exec (.recordReadAnswer line word0 sealT stamp) s = execRecordReadAnswer line word0 sealT stamp s := rfl
theorem exec_sqCtlEnable (f q : Nat) (v : BitVec 64) (s : State) : exec (.sqCtlEnable f q v) s = execSqCtlEnable f q v s := rfl
theorem exec_xcBaseEnable (f : Nat) (v : BitVec 64) (s : State) : exec (.xcBaseEnable f v) s = execXcBaseEnable f v s := rfl
theorem exec_sessionCmdRefused (f p res : Nat) (cmd : BitVec 64) (s : State) : exec (.sessionCmdRefused f p res cmd) s = execSessionCmdRefused f p res cmd s := rfl
theorem exec_ctxOpRefused (f : Nat) (v : BitVec 64) (s : State) : exec (.ctxOpRefused f v) s = execCtxOpRefused f v s := rfl

end Sys2Proof.Machine
end

