-- ==== Sys2Proof/Laws/Issue.lean ====
section
/-! SUPPORT. What an issue does around an instruction's own effect: the one lemma for an effect that is performed, one for a trap, one
for a wait. -/

namespace Sys2Proof.Machine

/-! ## Changes that `strip` does not see -/

theorem Gang.strip_threads (g : Gang) : g.strip.threads = g.threads.map Thread.still := rfl

/-- A change of one gang leaves all but that gang. -/
theorem State.updGang_same (s : State) (c slot : Nat) (f : Gang → Gang) :
    State.Same (fun d k => d = c ∧ k = slot) s (s.updGang c slot f) := by
  refine ⟨rfl, fun d => ?_, fun d => ?_, fun _ => rfl, fun _ => rfl, fun _ => rfl, fun d k h => ?_⟩
  · unfold State.updGang
    by_cases hd : d = c
    · subst hd
      rw [State.updCluster_cluster_self]
      split <;> rfl
    · rw [State.updCluster_cluster_ne _ _ hd]
  · unfold State.updGang
    by_cases hd : d = c
    · subst hd
      rw [State.updCluster_cluster_self]
      split
      · cases (s.cluster d).handler <;> rfl
      · rfl
    · rw [State.updCluster_cluster_ne _ _ hd]
  · rw [State.updGang_gang_ne]
    by_cases hd : d = c
    · exact .inr fun hk => h ⟨hd, hk⟩
    · exact .inl hd

theorem State.updIss_same (s : State) (q : Issue) (f : Gang → Gang) : State.Same q.owns s (s.updIss q f) := State.updGang_same _ _ _ _

/-- A gang's change that keeps what `strip` keeps, of one gang, keeps it of the state. -/
theorem State.updGang_kept (s : State) (c slot : Nat) (f : Gang → Gang) (hf : ∀ g, (f g).strip = g.strip) :
    s.Kept (s.updGang c slot f) := by
  have h := State.updGang_same s c slot f
  refine ⟨h.1, h.2, h.3, h.4, h.5, h.6, fun d k _ => ?_⟩
  by_cases e : d = c ∧ k = slot
  · obtain ⟨rfl, rfl⟩ := e
    rw [State.updGang_gang_self, Option.map_map]
    congr 1
    funext g
    exact hf g
  · exact h.7 d k e

theorem State.causalHold_kept (s : State) (c : Ctxt) : s.Kept (s.causalHold c) := by
  unfold State.causalHold
  dsimp only
  split
  · exact .refl s
  · split
    · refine (State.setPart_kept s (partOf c.q.cl) _ ?_).trans (State.updGang_kept _ _ _ _ fun g => ?_)
      · rfl
      · rfl
    · exact .refl s

/-- The issue tolls leave what a charge leaves. -/
theorem chargeIssue_kept (s : State) (c : Ctxt) : s.Kept (chargeIssue s c) := by
  unfold chargeIssue
  dsimp only
  have h := ((State.causalHold_kept s c).trans (State.charge_kept _ (partOf c.q.cl) c.g.ctx 0 1)).trans
    (State.count_kept _ (partOf c.q.cl) (c.g.ctx / 4096) 0x002 c.act.length)
  split
  · split
    · exact h.trans (State.count_kept _ _ _ _ _)
    · exact h
  · split
    · exact (h.trans (State.count_kept _ _ _ _ _)).trans (State.charge_kept _ _ _ _ _)
    · exact h.trans (State.charge_kept _ _ _ _ _)

/-! ## Book-keeping of an issue -/

theorem Gang.updThread_threads (g : Gang) (l : Nat) (f : Thread → Thread) : (g.updThread l f).threads = g.threads.modify l f := rfl

theorem List.map_modify_congr {α β : Type} (h : α → β) (f f' : α → α) (xs ys : List α) (l : Nat)
    (hxy : xs.map h = ys.map h) (hf : ∀ a b, h a = h b → h (f a) = h (f' b)) :
    (xs.modify l f).map h = (ys.modify l f').map h := by
  induction xs generalizing ys l with
  | nil =>
    cases ys with
    | nil => simp
    | cons y ys => simp at hxy
  | cons x xs ih =>
    cases ys with
    | nil => simp at hxy
    | cons y ys =>
      simp only [List.map_cons, List.cons.injEq] at hxy
      cases l with
      | zero => simp [hf x y hxy.1, hxy.2]
      | succ l => simp [hxy.1, ih ys l hxy.2]

/-- Everything of a gang but its threads and what `strip` leaves out. -/
def Gang.shell (g : Gang) : Gang := { g with delayed := 0, picked := 0, estop := false, threads := [] }

theorem Gang.strip_eq (a b : Gang) : a.strip = b.strip ↔ a.shell = b.shell ∧ a.threads.map Thread.still = b.threads.map Thread.still := by
  constructor
  · intro h
    refine ⟨?_, congrArg Gang.threads h⟩
    have := congrArg (fun g => ({ g with threads := [] } : Gang)) h
    exact this
  · intro ⟨h1, h2⟩
    have : ({ a.shell with threads := a.threads.map Thread.still } : Gang) = { b.shell with threads := b.threads.map Thread.still } := by
      rw [h1, h2]
    exact this

theorem Gang.updLanes_shell (ls : List Nat) (f : Nat → Thread → Thread) : ∀ g : Gang, (g.updLanes ls f).shell = g.shell := by
  induction ls with
  | nil => intro g; rfl
  | cons l ls ih => intro g; exact (ih _).trans rfl

theorem Gang.updLanes_still (ls : List Nat) (f f' : Nat → Thread → Thread)
    (hf : ∀ l a b, Thread.still a = Thread.still b → Thread.still (f l a) = Thread.still (f' l b)) : ∀ a b : Gang,
    a.threads.map Thread.still = b.threads.map Thread.still →
    (a.updLanes ls f).threads.map Thread.still = (b.updLanes ls f').threads.map Thread.still := by
  induction ls with
  | nil => intro a b h; exact h
  | cons l ls ih =>
    intro a b h
    exact ih _ _ (List.map_modify_congr _ _ _ _ _ _ h (hf l))

theorem Gang.updLanes_strip (ls : List Nat) (f f' : Nat → Thread → Thread)
    (hf : ∀ l a b, Thread.still a = Thread.still b → Thread.still (f l a) = Thread.still (f' l b)) (a b : Gang)
    (h : a.strip = b.strip) : (a.updLanes ls f).strip = (b.updLanes ls f').strip := by
  rw [Gang.strip_eq] at h ⊢
  exact ⟨by rw [Gang.updLanes_shell, Gang.updLanes_shell, h.1], Gang.updLanes_still ls f f' hf a b h.2⟩

/-- A change of a thread that neither reads nor writes its pending wake. -/
def Blind (f : Thread → Thread) : Prop := ∀ t w, f { t with wake := w } = { f t with wake := w }

theorem Blind.still {f : Thread → Thread} (hf : Blind f) (a b : Thread) (h : Thread.still a = Thread.still b) :
    Thread.still (f a) = Thread.still (f b) := by
  have e : b = { a with wake := b.wake } := by
    cases a; cases b
    simp only [Thread.still, Thread.mk.injEq] at h
    obtain ⟨h1, h2, h3, h4, h5, h6, h7, h8, h9, h10, h11, h12, h13, h14, h15, h16, h17, h18, h19, h20, h21⟩ := h
    subst_vars
    simp
  have e2 : f b = { f a with wake := b.wake } := (congrArg f e).trans (hf a b.wake)
  rw [e2]
  rfl

theorem Thread.leave_blind (hdr h : DWord) : Blind fun t => t.leave hdr h := by
  intro t w
  simp only [Thread.leave]
  repeat' split
  all_goals simp_all
  all_goals first | rfl | (split <;> rfl)

theorem Thread.advance_blind (len : Nat) : Blind fun t => t.advance len := by
  intro t w
  simp only [Thread.advance]
  cases h : t.clause with
  | none => rfl
  | some c =>
    dsimp only
    split
    · exact Thread.leave_blind _ _ t w
    · rfl

theorem Thread.unyield_blind (a : DWord) : Blind fun t => t.unyield a := by
  intro t w
  simp only [Thread.unyield]
  split
  · split <;> rfl
  · rfl

/-- One thread's book-keeping at a performed issue. -/
def issuedThread (addr : DWord) (len : Nat) (ts : List (Nat × DWord)) (l : Nat) (t : Thread) : Thread :=
  let t := { t with last := addr, wait := keptWait t.wait }
  match ts.find? (fun x => x.1 == l) with
  | some x => t.transfer x.2
  | none => t.advance len

theorem issuedThread_blind (addr : DWord) (len : Nat) (ts : List (Nat × DWord)) (l : Nat) : Blind (issuedThread addr len ts l) := by
  intro t w
  unfold issuedThread
  dsimp only
  split
  · rfl
  · exact Thread.advance_blind len { t with last := addr, wait := keptWait t.wait } w

/-- The book-keeping of an issue sees of a gang only what `strip` keeps. -/
theorem Gang.issued_strip (q : Issue) (len : Nat) (ts : List (Nat × DWord)) (a b : Gang) (h : a.strip = b.strip) :
    (a.issued q len ts).strip = (b.issued q len ts).strip := by
  refine Gang.updLanes_strip q.lanes _ _ (fun l x y hxy => (issuedThread_blind q.addr len ts l).still x y hxy) _ _ ?_
  refine Gang.updLanes_strip _ _ _ (fun _ x y hxy => (Thread.unyield_blind q.addr).still x y hxy) _ _ ?_
  rw [Gang.strip_eq] at h ⊢
  refine ⟨?_, h.2⟩
  have h1 := h.1
  have hs : a.shell.rsb = b.shell.rsb := by rw [h1]
  have hr : a.rsb = b.rsb := hs
  have hs' : a.shell.restarted = b.shell.restarted := by rw [h1]
  have hr' : a.restarted = b.restarted := hs'
  have := congrArg (fun g => ({ g with rsb := if a.restarted then 0 else Nat.min 0xFFFF (a.rsb + 1), restarted := false } : Gang)) h1
  rw [hr, hr'] at this
  simpa [Gang.shell, hr, hr'] using this

/-! ## The issue as a whole -/

/-- The driver, once the issue is ready. -/
theorem issueWith_ready {i : Instr} {f : Fields} {s : State} {q : Issue} {g : Gang} (h : Ready i f s q g)
    (body : Ctxt → State → Eff) :
    issueWith i f s body =
      .next (finishIssue (ctxtOf q g f) (encode i).length (body (ctxtOf q g f) { s with cur := none }) { s with cur := none }) := by
  unfold issueWith
  rw [h.cur]
  dsimp only
  rw [h.gang]
  dsimp only
  rw [show judgeOperands ({ q, g, f, act := q.lanes.filter fun l => guardTrue f (g.thread l) } : Ctxt) (shape i) = none from h.judged]
  rfl

/-- A change of a cluster that is none. -/
theorem State.updCluster_kept (s : State) (c : Nat) (F : Cluster → Cluster) (h : F (s.cluster c) = s.cluster c) :
    s.Kept (s.updCluster c F) := by
  have e : ∀ d, (s.updCluster c F).cluster d = s.cluster d := fun d => by
    by_cases hd : d = c
    · rw [hd, State.updCluster_cluster_self, h]
    · rw [State.updCluster_cluster_ne _ _ hd]
  refine ⟨rfl, fun d => by rw [e], fun d => by rw [e], fun _ => rfl, fun _ => rfl, fun _ => rfl, fun d k _ => ?_⟩
  unfold State.gang?
  rw [e]

/-- An effect that has brought about no record leaves none to be completed. -/
theorem State.boundary_kept (s s0 : State) (q : Issue) (h : (s.cluster q.cl).ring.length ≤ (s0.cluster q.cl).ring.length)
    (h' : (s.cluster q.cl).held.length ≤ (s0.cluster q.cl).held.length) : s.Kept (s.boundary s0 q) := by
  unfold State.boundary
  split
  · exact .refl s
  · split
    · exact .refl s
    · refine State.updCluster_kept _ _ _ ?_
      dsimp only
      rw [List.drop_eq_nil_of_le h, List.drop_eq_nil_of_le h', List.take_of_length_le h, List.take_of_length_le h']
      simp

/-- The records of a cluster stand as in another state. -/
def State.SameRecords (s t : State) (c : Nat) : Prop :=
  (t.cluster c).ring = (s.cluster c).ring ∧ (t.cluster c).held = (s.cluster c).held

theorem State.Same.sameRecords {w : Nat → Nat → Prop} {s t : State} (a : State.Same w s t) (c : Nat) : s.SameRecords t c := by
  have r := congrArg Cluster.ring (a.clusters c)
  have h := congrArg Cluster.held (a.clusters c)
  exact ⟨r, h⟩

/-- The end of a performed effect that has brought about no record. -/
theorem finish_go (s1 s0 : State) (c : Ctxt) (len : Nat) (ts : List (Nat × DWord)) (g1 : Gang) (hg : s1.issGang? c.q = some g1)
    (hr : s0.SameRecords s1 c.q.cl) :
    State.Same c.q.owns s1 (finishIssue c len (.go s1 ts) s0) ∧
      ((finishIssue c len (.go s1 ts) s0).issGang? c.q).map Gang.strip = some (g1.issued c.q len ts).strip := by
  have su := (State.Kept.same (chargeIssue_kept s1 c)).trans (State.updIss_same _ c.q (·.issued c.q len ts))
  have hu := su.sameRecords c.q.cl
  have kb : State.Kept _ (finishIssue c len (.go s1 ts) s0) := State.boundary_kept _ s0 c.q
    (Nat.le_of_eq (congrArg List.length (hu.1.trans hr.1))) (Nat.le_of_eq (congrArg List.length (hu.2.trans hr.2)))
  refine ⟨su.trans kb.same, (kb.gang c.q.cl c.q.gangSlot).trans ?_⟩
  have k := (chargeIssue_kept s1 c).gang c.q.cl c.q.gangSlot
  have hg' : s1.gang? c.q.cl c.q.gangSlot = some g1 := hg
  rw [hg'] at k
  change (((chargeIssue s1 c).updIss c.q fun g => g.issued c.q len ts).issGang? c.q).map Gang.strip = _
  rw [State.updIss_gang]
  unfold State.issGang?
  cases hh : (chargeIssue s1 c).gang? c.q.cl c.q.gangSlot with
  | none => rw [hh] at k; simp at k
  | some g2 =>
    rw [hh] at k
    simp only [Option.map_some, Option.some.injEq] at k ⊢
    exact Gang.issued_strip _ _ _ _ _ k

/-- An effect that is performed. -/
theorem issueWith_go {i : Instr} {f : Fields} {s s1 : State} {q : Issue} {g g1 : Gang} {ts : List (Nat × DWord)}
    {body : Ctxt → State → Eff} (h : Ready i f s q g) (hb : body (ctxtOf q g f) { s with cur := none } = .go s1 ts)
    (hg : s1.issGang? q = some g1) (hr : s.SameRecords s1 q.cl) :
    ∃ t, issueWith i f s body = .next t ∧ State.Same q.owns s1 t ∧
      (t.issGang? q).map Gang.strip = some (g1.issued q (encode i).length ts).strip := by
  have k := finish_go s1 { s with cur := none } (ctxtOf q g f) (encode i).length ts g1 hg hr
  exact ⟨_, by rw [issueWith_ready h, hb], k.1, k.2⟩

/-- A change of the issuing gang after charges: what the gang is afterwards, up to `strip`. -/
theorem State.Kept.updIss_gang {s s1 : State} {q : Issue} {g : Gang} (k : s.Kept s1) (hg : s.issGang? q = some g) (f : Gang → Gang)
    (hf : ∀ a b : Gang, a.strip = b.strip → (f a).strip = (f b).strip) :
    ∃ g1, (s1.updIss q f).issGang? q = some g1 ∧ g1.strip = (f g).strip := by
  have e := k.gang q.cl q.gangSlot
  have hg' : s.gang? q.cl q.gangSlot = some g := hg
  rw [hg'] at e
  rw [State.updIss_gang]
  unfold State.issGang?
  cases hh : s1.gang? q.cl q.gangSlot with
  | none => rw [hh] at e; simp at e
  | some g2 =>
    rw [hh] at e
    simp only [Option.map_some, Option.some.injEq] at e
    exact ⟨_, rfl, hf _ _ e⟩

/-- From `s` to `t` only the gang of `q` has changed, by `k`. -/
structure Acts (q : Issue) (k : Gang → Gang) (s t : State) : Prop where
  same : State.Same q.owns s t
  gang : ∀ g : Gang, (s.issGang? q).map Gang.strip = some g.strip → (t.issGang? q).map Gang.strip = some (k g).strip

theorem Acts.trans {q : Issue} {k h : Gang → Gang} {s t u : State} (a : Acts q k s t) (b : Acts q h t u) : Acts q (fun g => h (k g)) s u :=
  ⟨a.same.trans b.same, fun g e => b.gang _ (a.gang g e)⟩

theorem State.Kept.acts {q : Issue} {s t : State} (a : s.Kept t) : Acts q (fun g => g) s t :=
  ⟨a.same, fun g e => by rw [← e]; exact a.gang _ _⟩

theorem State.updIss_acts (s : State) (q : Issue) (k : Gang → Gang) (hf : ∀ a b : Gang, a.strip = b.strip → (k a).strip = (k b).strip) :
    Acts q k s (s.updIss q k) := by
  refine ⟨State.updIss_same s q k, fun g e => ?_⟩
  rw [State.updIss_gang]
  cases h : s.issGang? q with
  | none => rw [h] at e; simp at e
  | some g2 =>
    rw [h] at e
    simp only [Option.map_some, Option.some.injEq] at e ⊢
    exact hf _ _ e

/-- **The effect of an instruction.** When the issue is ready, the effect starts from `s1` (the state with what it changes outside the
gang) and acts on the issuing gang by `k`, the issue performs it. -/
theorem performs_of {i : Instr} {f : Fields} {s s1 s2 : State} {q : Issue} {g : Gang} {ts : List (Nat × DWord)}
    {body : Ctxt → State → Eff} (h : Ready i f s q g) (he : exec i s = issueWith i f s body) {k : Gang → Gang}
    (hb : body (ctxtOf q g f) { s with cur := none } = .go s2 ts)
    (h1 : s1.issGang? q = some g) (ha : Acts q k s1 s2) (hr : s.SameRecords s1 q.cl := by exact ⟨rfl, rfl⟩) :
    PerformsFrom i s s1 q (k g) ts := by
  have e := ha.gang g (by rw [h1]; rfl)
  cases hh : s2.issGang? q with
  | none => rw [hh] at e; simp at e
  | some g2 =>
    rw [hh] at e
    simp only [Option.map_some, Option.some.injEq] at e
    have r2 := ha.same.sameRecords q.cl
    obtain ⟨t, ht, sm, gt⟩ := issueWith_go h hb hh ⟨r2.1.trans hr.1, r2.2.trans hr.2⟩
    exact ⟨t, he.trans ht, ha.same.trans sm, by rw [gt, Gang.issued_strip _ _ _ _ _ e]⟩

/-- A change of a cluster that leaves its gangs leaves every gang. -/
theorem State.updCluster_gang (s : State) (c d k : Nat) (F : Cluster → Cluster) (hg : ∀ k, (F k).gangs = k.gangs)
    (hh : ∀ k, (F k).handler = k.handler) : (s.updCluster c F).gang? d k = s.gang? d k := by
  unfold State.gang?
  by_cases h : d = c
  · rw [h, State.updCluster_cluster_self, hg, hh]
  · rw [State.updCluster_cluster_ne _ _ h]

/-- A change of one cluster outside its gangs, made on both sides. -/
theorem State.Same.updCluster {w : Nat → Nat → Prop} {s t : State} (a : State.Same w s t) (c : Nat) (F : Cluster → Cluster)
    (hg : ∀ k, (F k).gangs = k.gangs) (hh : ∀ k, (F k).handler = k.handler) (hs : ∀ k, (F k).still = (F k.still).still) :
    State.Same w (s.updCluster c F) (t.updCluster c F) := by
  refine ⟨?_, fun d => ?_, fun d => ?_, a.parts, a.funcs, a.ctxs, fun d k h => ?_⟩
  · have : ∀ u : State, (u.updCluster c F).still = u.still := fun _ => rfl
    rw [this, this, a.still]
  · by_cases h : d = c
    · subst h
      rw [State.updCluster_cluster_self, State.updCluster_cluster_self, hs, hs (s.cluster d), a.clusters]
    · rw [State.updCluster_cluster_ne _ _ h, State.updCluster_cluster_ne _ _ h, a.clusters]
  · by_cases h : d = c
    · subst h
      rw [State.updCluster_cluster_self, State.updCluster_cluster_self, hh, hh, a.handlers]
    · rw [State.updCluster_cluster_ne _ _ h, State.updCluster_cluster_ne _ _ h, a.handlers]
  · rw [State.updCluster_gang _ _ _ _ _ hg hh, State.updCluster_gang _ _ _ _ _ hg hh, a.gangs d k h]

/-- A change of one cluster outside its gangs, made before instead of after a change of the issuing gang. -/
theorem Acts.updCluster {q : Issue} {k : Gang → Gang} {s t : State} (a : Acts q k s t) (c : Nat) (F : Cluster → Cluster)
    (hg : ∀ k, (F k).gangs = k.gangs) (hh : ∀ k, (F k).handler = k.handler) (hs : ∀ k, (F k).still = (F k.still).still) :
    Acts q k (s.updCluster c F) (t.updCluster c F) := by
  refine ⟨a.same.updCluster c F hg hh hs, fun g e => ?_⟩
  have h := a.gang g
  unfold State.issGang? at h e ⊢
  rw [State.updCluster_gang _ _ _ _ _ hg hh] at e ⊢
  exact h e

/-! ## Lane results -/

theorem Thread.setReg_blind (n v : Nat) : Blind fun t => t.setReg n v := fun _ _ => rfl

theorem Thread.setRegs_blind : ∀ (n k v : Nat), Blind fun t => t.setRegs n k v
  | _, 0, _ => fun _ _ => rfl
  | n, k + 1, v => fun t w => Thread.setRegs_blind (n + 1) k (v / 2 ^ 32) (t.setReg n v) w

theorem Thread.setPred_blind (p : Nat) (v : Bool) : Blind fun t => t.setPred p v := by
  intro t w
  unfold Thread.setPred
  split <;> rfl

/-- A change of lanes that does not see pending wakes. -/
theorem Gang.updLanes_blind (ls : List Nat) (f : Nat → Thread → Thread) (hf : ∀ l, Blind (f l)) (a b : Gang) (h : a.strip = b.strip) :
    (a.updLanes ls f).strip = (b.updLanes ls f).strip :=
  Gang.updLanes_strip ls f f (fun l x y e => (hf l).still x y e) a b h

theorem chargeLanes_kept (s : State) (c : Ctxt) (e k : Nat) : s.Kept (chargeLanes s c e k) := State.charge_kept _ _ _ _ _

/-- A new operation sees no pending wake. -/
theorem addOp_acts (s : State) (q : Issue) (i : Instr) (act : List Nat) (cs : List Ctr) (lanes : List LaneAcc) (ds ps : List Nat)
    (n : Nat) (b : Bool) : Acts q (fun g => g.addOp i q act cs lanes ds ps n b) s
      (s.updIss q fun g => g.addOp i q act cs lanes ds ps n b) := by
  refine State.updIss_acts s q _ fun x y e => ?_
  have hops : x.ops = y.ops := by
    change x.strip.ops = y.strip.ops
    rw [e]
  have hnext : x.nextOp = y.nextOp := by
    change x.strip.nextOp = y.strip.nextOp
    rw [e]
  have hmode : x.fpmode = y.fpmode := by
    change x.strip.fpmode = y.strip.fpmode
    rw [e]
  have hret : ∀ u v : Gang, u.strip = v.strip → u.retire.strip = v.retire.strip := by
    intro u v h
    have ho : u.ops = v.ops := by
      change u.strip.ops = v.strip.ops
      rw [h]
    have := congrArg (fun g : Gang => ({ g with ops := retireOps [] u.ops } : Gang)) h
    have h2 : retireOps [] u.ops = retireOps [] v.ops := by rw [ho]
    calc u.retire.strip = ({ u.strip with ops := retireOps [] u.ops } : Gang) := rfl
      _ = ({ v.strip with ops := retireOps [] u.ops } : Gang) := this
      _ = v.retire.strip := by rw [h2]; rfl
  unfold Gang.addOp
  refine hret _ _ ?_
  dsimp only
  rw [hnext]
  refine Gang.updLanes_blind _ _ (fun _ _ _ => rfl) _ _ ?_
  rw [hops, hmode]
  have key : ∀ (os : List Op) (m : Word), ({ x with ops := os, nextOp := y.nextOp + 1, fpmode := m } : Gang).strip =
      ({ y with ops := os, nextOp := y.nextOp + 1, fpmode := m } : Gang).strip := fun os m =>
    congrArg (fun g : Gang => ({ g with ops := os, nextOp := y.nextOp + 1, fpmode := m } : Gang)) e
  exact key _ _

theorem writeRegs_acts (s : State) (c : Ctxt) (r n : Nat) (v : Nat → Nat) :
    Acts c.q (fun g => g.updLanes c.act fun l t => t.setRegs r n (v l)) s (writeRegs s c r n v) :=
  State.updIss_acts _ _ _ fun a b e => Gang.updLanes_blind _ _ (fun _ => Thread.setRegs_blind _ _ _) a b e

theorem writePred_acts (s : State) (c : Ctxt) (p : Nat) (v : Nat → Bool) :
    Acts c.q (fun g => g.updLanes c.act fun l t => t.setPred p (v l)) s (writePred s c p v) :=
  State.updIss_acts _ _ _ fun a b e => Gang.updLanes_blind _ _ (fun _ => Thread.setPred_blind _ _) a b e

/-- A change of the gang itself that neither reads nor writes its threads and what `strip` leaves out. -/
theorem gangField_acts (s : State) (q : Issue) (k : Gang → Gang) (hk : ∀ g : Gang, (k g).strip = k g.strip) : Acts q k s (s.updIss q k) :=
  State.updIss_acts _ _ _ fun a b e => by rw [hk, hk, e]

/-- An integer effect is performed: the active lanes hold the results. -/
theorem performs_int {i : Instr} {f : Fields} {s : State} {q : Issue} {g : Gang} {body : Ctxt → State → Eff} (h : Ready i f s q g)
    (he : exec i s = issueWith i f s body) (n k : Nat) (v : Nat → Nat)
    (hb : body (ctxtOf q g f) { s with cur := none } = intEff (ctxtOf q g f) { s with cur := none } n k v) :
    Performs i s q ((ctxtOf q g f).writes n v) [] :=
  performs_of (s1 := s.idle) h he hb h.gang ((State.Kept.acts (chargeLanes_kept _ _ _ _)).trans (writeRegs_acts _ (ctxtOf q g f) _ _ _))

/-- A predicate effect is performed. -/
theorem performs_pred {i : Instr} {f : Fields} {s : State} {q : Issue} {g : Gang} {body : Ctxt → State → Eff} (h : Ready i f s q g)
    (he : exec i s = issueWith i f s body) (k : Nat) (v : Nat → Bool)
    (hb : body (ctxtOf q g f) { s with cur := none } = predEff (ctxtOf q g f) { s with cur := none } k v) :
    Performs i s q ((ctxtOf q g f).writesPred (f.vd.toNat % 8) v) [] :=
  performs_of (s1 := s.idle) h he hb h.gang ((State.Kept.acts (chargeLanes_kept _ _ _ _)).trans (writePred_acts _ (ctxtOf q g f) _ _))

/-- A floating-point effect that raises no enabled flag is performed. -/
theorem performs_float {i : Instr} {f : Fields} {s s1 : State} {q : Issue} {g : Gang} {body : Ctxt → State → Eff} (h : Ready i f s q g)
    (he : exec i s = issueWith i f s body) (n e k : Nat) (r : Nat → LaneRes) (h1 : s1.issGang? q = some g)
    (hb : body (ctxtOf q g f) { s with cur := none } = floatEff (ctxtOf q g f) s1 n e k r)
    (hen : orLanes (ctxtOf q g f) (fun l => (r l).fl) &&& fpEnables (ctxtOf q g f).mode = 0)
    (hr : s.SameRecords s1 q.cl := by exact ⟨rfl, rfl⟩) :
    PerformsFrom i s s1 q ((ctxtOf q g f).writesFloat n r) [] := by
  unfold floatEff endFlags at hb
  dsimp only at hb
  rw [if_pos hen] at hb
  refine performs_of h he hb h1 (((State.Kept.acts (chargeLanes_kept _ _ _ _)).trans
    (State.updIss_acts _ q (fun g' => g'.updLanes (ctxtOf q g f).act fun l t =>
      { t.setRegs (ctxtOf q g f).f.vd.toNat n (r l).v with seed := BitVec.ofNat 32 (r l).seed }) fun a b e =>
        Gang.updLanes_blind _ _ (fun l t w =>
          congrArg (fun x : Thread => { x with seed := BitVec.ofNat 32 (r l).seed }) (Thread.setRegs_blind _ _ _ t w)) a b e)).trans
    (gangField_acts _ q (fun g' => { g' with fpflags := g'.fpflags ||| orLanes (ctxtOf q g f) fun l => (r l).fl }) fun _ => rfl)) hr

/-- What follows a jet effect that raises no enabled flag. -/
theorem jetEnd_acts (s : State) (c : Ctxt) (r : Nat → JAcc) :
    Acts c.q (fun g => ({ (g.updLanes c.act fun l t => t.setRegs c.f.vd.toNat (jetG c.g.jord) (groupWord c.g.jord (r l).cs)) with
        jflags := (g.updLanes c.act fun l t => t.setRegs c.f.vd.toNat (jetG c.g.jord) (groupWord c.g.jord (r l).cs)).jflags |||
          orLanes c fun l => (r l).fl } : Gang)) s
      ((writeGroup c s fun l => (r l).cs).updIss c.q fun g => { g with jflags := g.jflags ||| orLanes c fun l => (r l).fl }) :=
  (writeRegs_acts s c _ _ _).trans
    (gangField_acts _ c.q (fun g => { g with jflags := g.jflags ||| orLanes c fun l => (r l).fl }) fun _ => rfl)

theorem Gang.updLanes_jflags (ls : List Nat) (f : Nat → Thread → Thread) (g : Gang) : (g.updLanes ls f).jflags = g.jflags := by
  change (g.updLanes ls f).shell.jflags = g.shell.jflags
  rw [Gang.updLanes_shell]

theorem Gang.updLanes_fpflags (ls : List Nat) (f : Nat → Thread → Thread) (g : Gang) : (g.updLanes ls f).fpflags = g.fpflags := by
  change (g.updLanes ls f).shell.fpflags = g.shell.fpflags
  rw [Gang.updLanes_shell]

/-- The special-function unit's row is no gang. -/
theorem sfuServed_gang (s : State) (q r : Issue) (n : Nat) : (sfuServed s q n).issGang? r = s.issGang? r := by
  unfold sfuServed
  split
  · rfl
  · unfold State.issGang? State.gang?
    by_cases h : r.cl = q.cl
    · rw [h, State.updCluster_cluster_self]
    · rw [State.updCluster_cluster_ne _ _ h]

/-- It reports nothing. -/
theorem sfuServed_records (s : State) (q : Issue) (n c : Nat) : s.SameRecords (sfuServed s q n) c := by
  unfold sfuServed
  split
  · exact ⟨rfl, rfl⟩
  · unfold State.SameRecords
    by_cases h : c = q.cl
    · rw [h, State.updCluster_cluster_self]
      exact ⟨rfl, rfl⟩
    · rw [State.updCluster_cluster_ne _ _ h]
      exact ⟨rfl, rfl⟩

/-- Nor is what a jet instruction holds, and it reports nothing. -/
theorem jetHold_gang (s : State) (q r : Issue) (p sf : Nat) : (jetHold s q p sf).issGang? r = s.issGang? r := by
  unfold jetHold
  split
  · unfold fpHeld
    split
    · rfl
    · unfold State.issGang? State.gang?
      by_cases h : r.cl = q.cl
      · rw [h, State.updCluster_cluster_self]
      · rw [State.updCluster_cluster_ne _ _ h]
  · exact sfuServed_gang _ _ _ _

theorem jetHold_records (s : State) (q : Issue) (p sf c : Nat) : s.SameRecords (jetHold s q p sf) c := by
  unfold jetHold
  split
  · unfold fpHeld
    split
    · exact ⟨rfl, rfl⟩
    · unfold State.SameRecords
      by_cases h : c = q.cl
      · rw [h, State.updCluster_cluster_self]
        exact ⟨rfl, rfl⟩
      · rw [State.updCluster_cluster_ne _ _ h]
        exact ⟨rfl, rfl⟩
  · exact sfuServed_records _ _ _ _

/-- A jet effect that raises no enabled flag is performed. -/
theorem performs_jet {i : Instr} {f : Fields} {s : State} {q : Issue} {g : Gang} (h : Ready i f s q g) (e : Nat) (p sf : Nat → Nat)
    (r : Ctxt → Nat → JAcc) (he : exec i s = jetEff i f s e p sf r) (hb : jetBad (ctxtOf q g f) (shape i) = false)
    (hen : jEnabled (ctxtOf q g f).mode (orLanes (ctxtOf q g f) fun l => (r (ctxtOf q g f) l).fl) = 0) :
    PerformsFrom i s (jetHold s.idle q (p g.jord) (sf g.jord)) q ((ctxtOf q g f).writesJet (r (ctxtOf q g f))) [] := by
  unfold jetEff at he
  have key : ∀ s0 : State, ∀ s1 : State, s1.issGang? q = some g → State.Kept s1 s0 →
      (if jetBad (ctxtOf q g f) (shape i) then Eff.trap (trapOf clsIllegalOperand (ctxtOf q g f).act)
        else endJFlags (ctxtOf q g f) (writeGroup (ctxtOf q g f) s0 fun l => (r (ctxtOf q g f) l).cs) fun l => (r (ctxtOf q g f) l).fl) =
        .go ((writeGroup (ctxtOf q g f) s0 fun l => (r (ctxtOf q g f) l).cs).updIss q fun g' =>
          { g' with jflags := g'.jflags ||| orLanes (ctxtOf q g f) fun l => (r (ctxtOf q g f) l).fl }) [] := by
    intro s0 s1 _ _
    rw [if_neg (by rw [hb]; exact Bool.false_ne_true)]
    unfold endJFlags
    dsimp only
    rw [if_pos hen]
    rfl
  have hg : (jetHold s.idle q (p g.jord) (sf g.jord)).issGang? q = some g := (jetHold_gang s.idle q q _ _).trans h.gang
  have k0 := chargeLanes_kept (jetHold s.idle q (p g.jord) (sf g.jord)) (ctxtOf q g f) e (p g.jord)
  have k1 : State.Kept (jetHold s.idle q (p g.jord) (sf g.jord))
      (if sf g.jord = 0 then chargeLanes (jetHold s.idle q (p g.jord) (sf g.jord)) (ctxtOf q g f) e (p g.jord)
        else chargeLanes (chargeLanes (jetHold s.idle q (p g.jord) (sf g.jord)) (ctxtOf q g f) e (p g.jord)) (ctxtOf q g f) 6 (sf g.jord)) := by
    split
    · exact k0
    · exact k0.trans (chargeLanes_kept _ (ctxtOf q g f) 6 (sf g.jord))
  exact performs_of h he (key _ _ hg k1) hg ((State.Kept.acts k1).trans (jetEnd_acts _ (ctxtOf q g f) (r (ctxtOf q g f))))
    (jetHold_records s.idle q _ _ q.cl)

end Sys2Proof.Machine
end

