-- ==== Sys2Proof/Laws/Memory.lean ====
section
/-! SUPPORT. Laws of physical memory: reading after writing, and that every memory operation keeps the canonical form. -/

namespace Sys2Proof.Machine

open Host (Cell)

/-! ## The canonical form -/

theorem Memory.wf_iff (m : List Cell) : Memory.wf m = true ↔ FMap.sorted m = true ∧ ∀ c ∈ m, c.2 ≠ 0 := by
  simp [Memory.wf]

theorem mem_set {α : Type} (m : FMap α) (n : Nat) (v : α) (c : Nat × α) (h : c ∈ m.set n v) : c = (n, v) ∨ c ∈ m := by
  induction m with
  | nil => simpa [FMap.set] using h
  | cons e m ih =>
    obtain ⟨k, w⟩ := e
    simp only [FMap.set] at h
    split at h
    · simpa using h
    · split at h
      · simp only [List.mem_cons] at h ⊢; rcases h with h | h
        · exact .inl h
        · exact .inr (.inr h)
      · simp only [List.mem_cons] at h ⊢
        rcases h with h | h
        · exact .inr (.inl h)
        · rcases ih h with h | h
          · exact .inl h
          · exact .inr (.inr h)

theorem mem_del {α : Type} (m : FMap α) (n : Nat) (c : Nat × α) (h : c ∈ m.del n) : c ∈ m := by
  induction m with
  | nil => simpa [FMap.del] using h
  | cons e m ih =>
    obtain ⟨k, w⟩ := e
    simp only [FMap.del] at h
    split at h
    · exact List.mem_cons_of_mem _ h
    · split at h
      · exact h
      · simp only [List.mem_cons] at h ⊢
        exact h.imp_right ih

/-- A byte written keeps the form. -/
theorem writeByte_wf (m : List Cell) (a : Nat) (v : Byte) (h : Memory.wf m = true) : Memory.wf (writeByte m a v) = true := by
  rw [Memory.wf_iff] at h ⊢
  unfold writeByte
  split
  · exact ⟨FMap.sorted_del m a h.1, fun c hc => h.2 c (mem_del m a c hc)⟩
  · rename_i hv
    refine ⟨FMap.sorted_set m a v h.1, fun c hc => ?_⟩
    rcases mem_set m a v c hc with rfl | hc
    · exact hv
    · exact h.2 c hc

/-- Bytes written keep the form. -/
theorem writeBytes_wf (bs : List Byte) : ∀ (m : List Cell) (a : Nat), Memory.wf m = true → Memory.wf (writeBytes m a bs) = true := by
  induction bs with
  | nil => intro m a h; exact h
  | cons b bs ih => intro m a h; exact ih _ _ (writeByte_wf m a b h)

/-- Cells left out keep the form. -/
theorem sorted_filter {α : Type} (p : Nat × α → Bool) (m : FMap α) (h : FMap.sorted m = true) :
    FMap.sorted (m.filter p) = true ∧ ∀ b, FMap.below m b = true → FMap.below (m.filter p) b = true := by
  induction m with
  | nil => exact ⟨rfl, fun _ h => h⟩
  | cons e m ih =>
    obtain ⟨k, w⟩ := e
    rw [FMap.sorted_cons, Bool.and_eq_true] at h
    have ih := ih h.2
    by_cases hp : p (k, w) = true
    · rw [List.filter_cons_of_pos hp]
      refine ⟨?_, fun b hb => by simpa [FMap.below] using hb⟩
      rw [FMap.sorted_cons, ih.1, ih.2 k h.1]; rfl
    · rw [List.filter_cons_of_neg hp]
      refine ⟨ih.1, fun b hb => ih.2 b (FMap.below_trans m b k h.1 ?_)⟩
      simp only [FMap.below, decide_eq_true_eq] at hb; omega

theorem Memory.wf_filter (p : Cell → Bool) (m : List Cell) (h : Memory.wf m = true) : Memory.wf (m.filter p) = true := by
  rw [Memory.wf_iff] at h ⊢
  exact ⟨(sorted_filter p m h.1).1, fun c hc => h.2 c (List.mem_filter.mp hc).1⟩

/-! ## Reading after writing -/

/-- A byte written reads as written, in memory of the canonical form. -/
theorem readByte_write_self (m : List Cell) (a : Nat) (v : Byte) (h : Memory.wf m = true) :
    readByte (writeByte m a v) a = v := by
  rw [Memory.wf_iff] at h
  unfold readByte writeByte
  split
  · rename_i hv; subst hv; simp [FMap.getD, FMap.find?_del_self m a h.1]
  · simp

/-- A byte written leaves every other address alone. -/
theorem readByte_write_ne (m : List Cell) (a b : Nat) (v : Byte) (h : Memory.wf m = true) (hab : b ≠ a) :
    readByte (writeByte m a v) b = readByte m b := by
  rw [Memory.wf_iff] at h
  unfold readByte writeByte
  split
  · simp [FMap.getD, FMap.find?_del_ne m h.1 hab]
  · exact FMap.getD_set_ne m v 0 hab

/-- Bytes written leave every address outside them alone. -/
theorem readByte_writeBytes_ne (bs : List Byte) : ∀ (m : List Cell) (a b : Nat), Memory.wf m = true → b < a ∨ a + bs.length ≤ b →
    readByte (writeBytes m a bs) b = readByte m b := by
  induction bs with
  | nil => intro m a b _ _; rfl
  | cons v bs ih =>
    intro m a b h hb
    simp only [List.length_cons] at hb
    rw [writeBytes, ih _ _ _ (writeByte_wf m a v h) (by omega), readByte_write_ne m a b v h (by omega)]

/-- Bytes written read as written. -/
theorem readByte_writeBytes (bs : List Byte) : ∀ (m : List Cell) (a i : Nat), Memory.wf m = true → i < bs.length →
    readByte (writeBytes m a bs) (a + i) = bs.getD i 0 := by
  induction bs with
  | nil => intro m a i _ hi; simp at hi
  | cons v bs ih =>
    intro m a i h hi
    rw [writeBytes]
    cases i with
    | zero =>
      rw [readByte_writeBytes_ne bs _ _ _ (writeByte_wf m a v h) (by omega), Nat.add_zero, readByte_write_self m a v h]
      rfl
    | succ i =>
      have := ih (writeByte m a v) (a + 1) i (writeByte_wf m a v h) (by simpa using hi)
      rw [show a + (i + 1) = a + 1 + i by omega, this]
      rfl

/-! ## Operations of the state -/

theorem State.writeNum_wf (s : State) (a n v : Nat) (h : Memory.wf s.mem = true) : Memory.wf (s.writeNum a n v).mem = true :=
  writeBytes_wf _ _ _ h

@[simp] theorem State.updSlice_mem (s : State) (k : Nat) (f : Slice → Slice) : (s.updSlice k f).mem = s.mem := rfl
@[simp] theorem State.cleanHalves_mem (s : State) (a : Span) : (s.cleanHalves a).mem = s.mem := rfl
@[simp] theorem State.poisonHalf_mem (s : State) (h : Nat) : (s.poisonHalf h).mem = s.mem := rfl
@[simp] theorem State.exportWrite_mem (s : State) (l : Nat) : (s.exportWrite l).mem = s.mem := by
  unfold State.exportWrite; split <;> rfl

/-- A store writes the bytes at the address, and nothing else of memory. -/
theorem State.store_mem (s : State) (pa : Nat) (bs : List Byte) : (s.store pa bs).mem = writeBytes s.mem pa bs := by
  unfold State.store; split <;> simp

theorem State.store_wf (s : State) (pa : Nat) (bs : List Byte) (h : Memory.wf s.mem = true) : Memory.wf (s.store pa bs).mem = true := by
  rw [State.store_mem]; exact writeBytes_wf _ _ _ h

theorem storeMasked_fold_wf (is : List Nat) (line : Nat) (data : List Byte) : ∀ s : State, Memory.wf s.mem = true →
    Memory.wf (is.foldl (fun (s : State) i => { s with mem := writeByte s.mem (line * 128 + i) (data.getD i 0) }) s).mem = true := by
  induction is with
  | nil => intro s h; exact h
  | cons i is ih => intro s h; exact ih _ (writeByte_wf _ _ _ h)

@[simp] theorem State.cleanMasked_mem (s : State) (line mask : Nat) : (s.cleanMasked line mask).mem = s.mem := by
  unfold State.cleanMasked
  split <;> split <;> rfl

theorem State.storeMasked_wf (s : State) (line mask : Nat) (data : List Byte) (h : Memory.wf s.mem = true) :
    Memory.wf (s.storeMasked line mask data).mem = true := by
  unfold State.storeMasked
  have := storeMasked_fold_wf (bitList 128 mask) line data s h
  simpa using this

end Sys2Proof.Machine
end

