-- ==== Sys2Proof/Laws/Messages.lean ====
section
/-! SUPPORT. What sending can do: messages join what has left, in order, and wait without a live port; packets enter the torus; a unit's
access asks its slice. None of them changes memory, clusters or which ports are up. -/

namespace Sys2Proof.Machine

/-- Two states with the same memory, clusters, contexts and ports that are up. -/
abbrev State.Beside (s t : State) : Prop := t.mem = s.mem ∧ t.clusters = s.clusters ∧ t.ctxs = s.ctxs ∧ t.ports = s.ports

theorem State.Beside.refl (s : State) : s.Beside s := ⟨rfl, rfl, rfl, rfl⟩

theorem State.Beside.trans {s t u : State} (a : s.Beside t) (b : t.Beside u) : s.Beside u :=
  ⟨b.1.trans a.1, b.2.1.trans a.2.1, b.2.2.1.trans a.2.2.1, b.2.2.2.trans a.2.2.2⟩

/-- Which port a line is sent through depends on the ports that are up alone. -/
theorem State.Beside.portOf {s t : State} (h : s.Beside t) (pkg pa : Nat) : t.portOf pkg pa = s.portOf pkg pa := by
  unfold State.portOf; rw [h.2.2.2]

theorem State.take_beside (s : State) : s.Beside s.take.2 := State.Beside.refl s

@[simp] theorem State.take_fabOut (s : State) : s.take.2.fabOut = s.fabOut := rfl

theorem State.emit_beside (s : State) (q : SentMsg) : s.Beside (s.emit q) := by
  unfold State.emit; split <;> exact State.Beside.refl s

/-- A message leaves at once where its plane has a live port (R102). -/
theorem State.emit_live (s : State) (q : SentMsg) (h : (s.portOf q.m.dst q.pa).isSome = true) :
    (s.emit q).fabOut = s.fabOut ++ [q.m] := by
  obtain ⟨k, hk⟩ := Option.isSome_iff_exists.mp h
  unfold State.emit; rw [hk]; rfl

/-- It waits where the plane has none. -/
theorem State.emit_down (s : State) (q : SentMsg) (h : s.portOf q.m.dst q.pa = none) :
    s.emit q = { s with sentMsgs := s.sentMsgs ++ [{ q with port := none }] } := by
  unfold State.emit; rw [h]

theorem State.reply_beside (s : State) (kind : FabKind) (dst id pa quarters : Nat) (words : List Nat) (bytes : List Byte) :
    s.Beside (s.reply kind dst id pa quarters words bytes) :=
  s.take_beside.trans (State.emit_beside _ _)

theorem State.reply_live (s : State) (kind : FabKind) (dst id pa quarters : Nat) (words : List Nat) (bytes : List Byte)
    (h : (s.portOf dst pa).isSome = true) :
    (s.reply kind dst id pa quarters words bytes).fabOut = s.fabOut ++ [⟨kind, dst, id, words, bytes, s.take.1⟩] :=
  State.emit_live s.take.2 ⟨⟨kind, dst, id, words, bytes, s.take.1⟩, pa, quarters, none⟩ (by rw [s.take_beside.portOf]; exact h)

theorem emitAll_beside (m : Nat → SentMsg) : ∀ (ds : List Nat) (s : State), s.Beside (ds.foldl (fun s p => s.emit (m p)) s)
  | [], s => .refl s
  | d :: ds, s => (s.emit_beside (m d)).trans (emitAll_beside m ds (s.emit (m d)))

theorem emitAll_live (m : Nat → SentMsg) : ∀ (ds : List Nat) (s : State), (∀ p ∈ ds, (s.portOf (m p).m.dst (m p).pa).isSome = true) →
    (ds.foldl (fun s p => s.emit (m p)) s).fabOut = s.fabOut ++ ds.map fun p => (m p).m
  | [], s, _ => by simp
  | d :: ds, s, h => by
    have hb := s.emit_beside (m d)
    simp only [List.foldl_cons, List.map_cons]
    rw [emitAll_live m ds (s.emit (m d)) fun p hp => by rw [hb.portOf]; exact h p (by simp [hp]), s.emit_live (m d) (h d (by simp))]
    simp

theorem State.castAll_beside (s : State) (kind : FabKind) (id : Nat) (words dsts : List Nat) : s.Beside (s.castAll kind id words dsts) :=
  s.take_beside.trans (emitAll_beside (fun p => ⟨⟨kind, p, id, words, [], s.take.1⟩, 0, 0, none⟩) dsts s.take.2)

/-- Copies of one message, with one stamp, to packages that live ports reach. -/
theorem State.castAll_live (s : State) (kind : FabKind) (id : Nat) (words dsts : List Nat)
    (h : ∀ p ∈ dsts, (s.portOf p 0).isSome = true) :
    (s.castAll kind id words dsts).fabOut = s.fabOut ++ dsts.map fun p => ⟨kind, p, id, words, [], s.take.1⟩ :=
  emitAll_live (fun p => ⟨⟨kind, p, id, words, [], s.take.1⟩, 0, 0, none⟩) dsts s.take.2 fun p hp => by
    rw [s.take_beside.portOf]; exact h p hp

theorem State.inject_beside (s : State) (cls flits : Nat) (src dst : Stop) (dev : Bool) (answer : Option (Nat × Nat)) (who : LaneRef) :
    s.Beside (s.inject cls flits src dst dev answer who) := .refl s

theorem State.unitTrip_beside (s : State) (cl pa : Nat) (write : Bool) : s.Beside (s.unitTrip cl pa write) := .refl s

theorem State.hostAnswer_beside (s : State) (cl flits cls : Nat) (dev : Bool) (who : LaneRef) : s.Beside (s.hostAnswer cl flits cls dev who) :=
  .refl s

theorem State.updSlice_beside (s : State) (k : Nat) (f : Slice → Slice) : s.Beside (s.updSlice k f) := .refl s

theorem State.recallLine_beside (s : State) (line : Nat) : s.Beside (s.recallLine line) := by
  unfold State.recallLine; split <;> exact .refl s

/-- A miss that asks its slice changes the slice alone. -/
theorem State.askFor_beside (s : State) (p x fn line : Nat) (write whole : Bool) (who : LaneRef) :
    s.Beside (s.askFor p x fn line write whole who) := by
  unfold State.askFor
  dsimp only
  repeat' split
  all_goals exact .refl s

/-- A unit that has to wait for a line has asked for it and done nothing else (R91, R109). -/
theorem State.unitWaitsFor_beside (s : State) (cl x fn line : Nat) (write whole : Bool) : s.Beside (s.unitWaitsFor cl x fn line write whole).1 := by
  unfold State.unitWaitsFor
  split
  · exact s.recallLine_beside line
  · split
    · exact .refl s
    · dsimp only
      repeat' split
      all_goals first | exact .refl s | exact State.askFor_beside ..

theorem State.linesWait_beside (p x : Nat) : ∀ (qs : List (Nat × Bool × Bool)) (s : State), s.Beside (State.linesWait p x qs s).1
  | [], s => .refl s
  | q :: qs, s => by
    have h := s.unitWaitsFor_beside (4 * p) x (fnOf x) q.1 q.2.1 q.2.2
    unfold State.linesWait State.unitWaits
    split
    · rename_i e; rw [e] at h; exact h
    · rename_i e; rw [e] at h; exact h.trans (State.linesWait_beside p x qs _)

end Sys2Proof.Machine
end

