-- ==== Sys2Proof/Laws/Trap.lean ====
section
/-! SUPPORT. What taking a trap can do: one record at the end of the cluster's ring and its waiting records, the gang stopped, and what
a charge may move; no memory. -/

namespace Sys2Proof.Machine

/-- The record of a trap as it is written: completed with the gang's identity and a stamp. -/
def TrapRec.completed (r : TrapRec) (c slot : Nat) (g : Gang) (st : DWord) : TrapRec :=
  { r with gang := slot, cluster := c, ctxid := g.ctx % 4096
           vf := if g.ctx / 4096 = 128 then 0 else g.ctx / 4096, pfn := g.ctx / 4096 == 128, stamp := st }

theorem Cluster.report_records (k : Cluster) (r : TrapRec) : (k.report r).ring ++ (k.report r).held = k.ring ++ k.held ++ [r] := by
  unfold Cluster.report
  split
  · rename_i h; simp [h.2]
  · simp

theorem State.traceTrap_kept (s : State) (c x row : Nat) (r : TrapRec) : s.Kept (s.traceTrap c x row r) := by
  unfold State.traceTrap
  dsimp only
  split
  · exact (State.count_kept _ _ _ _ _).trans (State.trace_kept _ _ _ _ _ _ _ _ _ _)
  · exact ((State.count_kept _ _ _ _ _).trans (State.trace_kept _ _ _ _ _ _ _ _ _ _)).trans (State.trace_kept _ _ _ _ _ _ _ _ _ _)

theorem State.Same.records {w : Nat → Nat → Prop} {s t : State} (a : State.Same w s t) (c : Nat) :
    (t.cluster c).ring ++ (t.cluster c).held = (s.cluster c).ring ++ (s.cluster c).held := by
  change (t.cluster c).still.ring ++ (t.cluster c).still.held = (s.cluster c).still.ring ++ (s.cluster c).still.held
  rw [a.clusters]

/-- A trap of a resident gang: memory stands, the gang is stopped, and the record is the last one of the cluster. -/
theorem trapGang_spec (s : State) (c slot : Nat) (r : TrapRec) (g : Gang) (hs : slot ≠ handlerSlot) (hg : s.gang? c slot = some g) :
    (trapGang s c slot r).mem = s.mem ∧
      ((trapGang s c slot r).gang? c slot).map Gang.strip = some { g.strip with tstop := true, halt := true } ∧
      ((trapGang s c slot r).cluster c).ring ++ ((trapGang s c slot r).cluster c).held =
        (s.cluster c).ring ++ (s.cluster c).held ++ [r.completed c slot g s.take.1] := by
  unfold trapGang
  rw [if_neg hs, hg]
  dsimp only
  have k0 := State.take_kept s
  have k1 := fun t x row (r : TrapRec) => State.traceTrap_kept t c x row r
  have g0 := k0.gang c slot
  rw [hg] at g0
  have gr : ∀ (u : State) (r : TrapRec), (u.updCluster c (·.report r)).gang? c slot = u.gang? c slot := by
    intro u r
    have e : ((u.cluster c).report r).gangs = (u.cluster c).gangs := by unfold Cluster.report; split <;> rfl
    unfold State.gang?
    rw [State.updCluster_cluster_self, if_neg hs, if_neg hs, e]
  refine ⟨?_, ?_, ?_⟩
  · rw [(k1 _ _ _ _).mem]
    exact k0.mem
  · rw [(k1 _ _ _ _).gang, State.updGang_gang_self, gr]
    cases h : s.take.2.gang? c slot with
    | none => rw [h] at g0; simp at g0
    | some g1 =>
      rw [h] at g0
      simp only [Option.map_some, Option.some.injEq] at g0 ⊢
      rw [← g0]
      rfl
  · rw [(k1 _ _ _ _).records, (State.updGang_same _ c slot _).records, State.updCluster_cluster_self, Cluster.report_records,
      k0.records]
    rfl

end Sys2Proof.Machine
end

