-- ==== Sys2Proof/Tests/Slice0.lean ====
section
/-! SUPPORT. Checks of the model: words of the spec's worked encodings, terms that a check of WellFormed refuses, results of the spec's
worked examples, and for every statement a state and operands that meet its hypotheses. -/

namespace Sys2Proof.Tests

set_option Elab.async false

open Sys2Proof Sys2Proof.Machine

/-! ## A small state -/

/-- Fields with an extension word, identity permutations and no guard. -/
def fd (aux vd vs0 vs1 : Nat) : Fields :=
  { x := true, guard := ⟨false, false, 0⟩, perm0 := .ident, perm1 := .ident, aux := BitVec.ofNat 11 aux, vd := BitVec.ofNat 7 vd
    vs0 := BitVec.ofNat 7 vs0, vs1 := BitVec.ofNat 7 vs1 }

/-- The same under the guard p1, which is false in every thread. -/
def fdNone (aux vd vs0 vs1 : Nat) : Fields := { fd aux vd vs0 vs1 with guard := ⟨true, false, 1⟩ }

/-- Fields without an extension word. -/
def plain (vd vs0 vs1 : Nat) : Fields := { fd 0 vd vs0 vs1 with x := false }

def tRole : Role := { entry := 0x100000, mx := true, cp := true, ch := true, gangs := 1, allot := 128 }
/-- A gang of block 7 of context 0 of function 1. -/
def tGang : Gang := Gang.start 4096 7 0 0 tRole 16 0
/-- The issue of all its threads on port A. -/
def tIssue : Issue := { cl := 0, slot := 0, portB := false, addr := 0x100004, lanes := List.range 32, scalar := false }
def tBlock : Block :=
  { ctx := 4096, launch := 0, lin := 0, bx := 0, by' := 0, bz := 0, sbase := 0, ssize := 4096, accBase := 0, accRows := 64
    cbase := 0x200000, csize := 4096, gangs := [some 0], groups := [1], coop := false, gridBlocks := 1, fifomask := 0 }

/-- The package with one cluster that is as said and a resident context. -/
def withCluster (k : Cluster) : State :=
  { State.reset with cur := some tIssue, ctxs := [(4096, { Ctx.new with st := 2 })], clusters := [(0, k)] }

def tCluster (g : Gang) : Cluster := { Cluster.reset with gangs := [(0, g)], blocks := [(7, tBlock)] }
/-- The package with one gang, whose issue is in progress. -/
def stateOf (g : Gang) : State := withCluster (tCluster g)
def tState : State := stateOf tGang

/-- The gang with registers set alike in all threads. -/
def regs (l : List (Nat × Nat)) (g : Gang) : Gang :=
  g.updLanes (List.range 32) fun _ t => l.foldl (fun t e => t.setReg e.1 e.2) t

def judged (g : Gang) (i : Instr) : Bool :=
  match fieldsOf i with
  | some f => (judgeOperands (ctxtOf tIssue g f) (shape i)).isNone
  | none => false

theorem readyIn (k : Cluster) (g : Gang) (hk : k.gangs.find? 0 = some g) (i : Instr) (f : Fields) (hf : fieldsOf i = some f)
    (h : judged g i = true) : Ready i f (withCluster k) tIssue g := by
  refine ⟨rfl, hk, ?_⟩
  unfold judged at h
  rw [hf] at h
  simpa using h

theorem ready (g : Gang) (i : Instr) (f : Fields) (hf : fieldsOf i = some f) (h : judged g i = true) :
    Ready i f (stateOf g) tIssue g := readyIn _ g rfl i f hf h

/-- Every instruction of a list is well-formed and ready in the small state. -/
def ReadyAll (l : List Instr) : Prop := ∀ i ∈ l, i.wf = true ∧ ∀ f, fieldsOf i = some f → Ready i f tState tIssue tGang

theorem readyAll (l : List Instr) (h : (l.all fun i => i.wf && judged tGang i) = true) : ReadyAll l := by
  intro i hi
  have := List.all_eq_true.1 h i hi
  simp only [Bool.and_eq_true] at this
  exact ⟨this.1, fun f hf => ready tGang i f hf this.2⟩

theorem noEnable (f : Fields) : fpEnables (ctxtOf tIssue tGang f).mode = 0 := by
  have : (ctxtOf tIssue tGang f).mode = 0x00040000 := rfl
  rw [this]
  decide

/-- No arithmetic exception is enabled in the small state, so no flag that is raised is an enabled one. -/
theorem noEnables (f : Fields) (fl : Nat) : fl &&& fpEnables (ctxtOf tIssue tGang f).mode = 0 := by
  rw [noEnable, Nat.and_zero]

theorem noJetEnables (f : Fields) (fl : Nat) : jEnabled (ctxtOf tIssue tGang f).mode fl = 0 := by
  simp [jEnabled, noEnable, List.range, List.range.loop]

theorem jetsOk (l : List Instr) (h : (l.all fun i => match fieldsOf i with
    | some f => !jetBad (ctxtOf tIssue tGang f) (shape i)
    | none => true) = true) :
    ∀ i ∈ l, ∀ f, fieldsOf i = some f → jetBad (ctxtOf tIssue tGang f) (shape i) = false := by
  intro i hi f hf
  have := List.all_eq_true.1 h i hi
  rw [hf] at this
  simpa using this

/-! ## Well-formedness: a term that each check refuses -/

theorem test_wf_guard : (Instr.add { fd 0 8 4 6 with guard := ⟨false, true, 0⟩ }).judge = some .guardBits := by decide
theorem test_wf_perm : (Instr.add { fd 0 8 4 6 with perm0 := .xor 0 }).judge = some .permutation := by decide
theorem test_wf_indexed : (Instr.add { fd 0 8 4 6 with perm0 := .idx 1 0 }).judge = some .permutation := by decide
theorem test_wf_unused : (Instr.neg (fd 0 8 4 6)).judge = some .unusedField := by decide
theorem test_wf_aux : (Instr.csgOpen (fd 1 8 0 0)).judge = some .unusedField := by decide
theorem test_wf_code : (Instr.icmp (fd 0x61 2 4 5)).judge = some .reservedCode := by decide
theorem test_wf_plain : (Instr.add { fd 1 8 4 6 with x := false }).wf = false := by decide
theorem test_wf_good : (Instr.add (fd 0 8 4 6)).wf = true := by decide
theorem test_unassigned : decode [0] = .error .unassigned := rfl
theorem test_truncated : decode [0x06020206] = .error .truncated := rfl

/-! ## Decoding: words of the spec's worked encodings -/

/-- 10: `add` with a guard and a rotation, `movl` and `sreg`. -/
theorem test_decode_moves :
    decode [0x06020206, 0x99180000] = .ok (.add { fd 0 8 4 6 with guard := ⟨true, false, 3⟩, perm0 := .rot 3 }, []) ∧
    decode [0x0D224000, 0x000003E8] = .ok (.movl (plain 9 0 0) 1000, []) ∧
    (∃ f, decode [0x0D628000] = .ok (.sreg f, [])) := ⟨rfl, rfl, _, rfl⟩
/-- 11: a compare and a selection. -/
theorem test_decode_integer :
    decode [0x16008205, 0x00000021] = .ok (.icmp (fd 0x21 2 4 5), []) ∧
    decode [0x0F424307, 0x00000020] = .ok (.sel (fd 0x20 9 6 7), []) := ⟨rfl, rfl⟩
/-- 12: `fma` with the third source v6 and its rounding, `cvtf`. -/
theorem test_decode_float :
    decode [0x42620205, 0x00000063] = .ok (.fma (fd 0x63 8 4 5), []) ∧
    decode [0x46020201, 0x0000018C] = .ok (.cvtf (fd 0x18C 8 4 1), []) := ⟨rfl, rfl⟩
/-- 13: jets. -/
theorem test_decode_jet :
    decode [0x50000002] = .ok (.jord (plain 0 0 2), []) ∧ decode [0x52210100, 0x00000001] = .ok (.jseed (fd 1 4 2 0), []) ∧
    decode [0x54820200] = .ok (.jexp (plain 8 4 0), []) ∧ (∃ f, decode [0x51850000] = .ok (.jflg f, [])) := ⟨rfl, rfl, rfl, _, rfl⟩
/-- 14: loads, stores, atomics, consignments, waits. -/
theorem test_decode_memory :
    decode [0x82020504, 0x0000001A] = .ok (.ld (fd 0x1A 8 10 4), []) ∧
    decode [0x8600C67E, 0x0000004A] = .ok (.st (fd 0x4A 3 12 0x7E), []) ∧
    decode [0x88014506] = .ok (.atom (plain 5 10 6), []) ∧ decode [0x8C050001] = .ok (.csgOpen (plain 20 0 1), []) ∧
    decode [0x9040C000] = .ok (.wait (plain 3 0 0), []) := ⟨rfl, rfl, rfl, rfl, rfl⟩
/-- 15: control flow and cross-lane. -/
theorem test_decode_control :
    decode [0xB1000000, 0x000000C8] = .ok (.meet (plain 0 0 0) 0xC8, []) ∧
    decode [0xB0204000, 0x00200010] = .ok (.brp (plain 1 0 0) 0x00200010, []) ∧
    decode [0xB1204180, 0x00000008] = .ok (.loop (plain 1 3 0) 8, []) ∧
    (∃ f, decode [0xB4424280] = .ok (.red f, [])) := ⟨rfl, rfl, rfl, _, rfl⟩
/-- 16: matrix instructions. -/
theorem test_decode_matrix :
    (∃ f, decode [0xC0008300, 0x00000040] = .ok (.tidSet f 0x40, [])) ∧ (∃ f, decode [0xC0408503] = .ok (.mxLdb f, [])) ∧
    (∃ f, decode [0xC0604603] = .ok (.mxLda f, [])) ∧ decode [0xC0800000, 0x28080C10] = .ok (.mxMma (plain 0 0 0) 0x28080C10, []) ∧
    (∃ f, decode [0xC0E50002] = .ok (.accPop f, [])) := ⟨⟨_, rfl⟩, ⟨_, rfl⟩, ⟨_, rfl⟩, rfl, _, rfl⟩
/-- 17: engines and barriers. -/
theorem test_decode_engine :
    (∃ f, decode [0xE0600207] = .ok (.barExpect f, [])) ∧ (∃ f, decode [0xE0218200] = .ok (.barArrive f, [])) ∧
    (∃ f, decode [0xE0400206] = .ok (.barWait f, [])) ∧ decode [0xD0624002] = .ok (.cpWptr (plain 9 0 2), []) :=
  ⟨⟨_, rfl⟩, ⟨_, rfl⟩, ⟨_, rfl⟩, rfl⟩

/-! ## Statements about families: their instructions are ready -/

theorem witness_IntegerArithmetic : ReadyAll
  [.add (fd 0 8 24 40), .sub (fd 0 8 24 40), .neg (fd 0 8 24 0), .abs (fd 0 8 24 0), .min (fd 0 8 24 40),
   .max (fd 0 8 24 40), .sad (fd 0 8 24 40), .avg (fd 0 8 24 40), .clamp (fd 0 8 24 40), .mul (fd 0 8 24 40),
   .mulhi (fd 0 8 24 40), .mulw (fd 0 8 24 40), .mad (fd 0 8 24 40), .madhi (fd 0 8 24 40)] :=
  readyAll _ (by decide +kernel)

theorem witness_IntegerDivision : ReadyAll
  [.div (fd 0 8 24 40), .rem (fd 0 8 24 40)] :=
  readyAll _ (by decide +kernel)

theorem witness_CarryChains : ReadyAll
  [.addc (fd 0 8 24 40), .subc (fd 0 8 24 40)] :=
  readyAll _ (by decide +kernel)

theorem witness_BitOperations : ReadyAll
  [.and (fd 0 8 24 40), .or (fd 0 8 24 40), .xor (fd 0 8 24 40), .andn (fd 0 8 24 40), .not (fd 0 8 24 0),
   .shl (fd 0 8 24 40), .shr (fd 0 8 24 40), .sar (fd 0 8 24 40), .rotl (fd 0 8 24 40), .rotr (fd 0 8 24 40),
   .shf (fd 0 8 24 40), .lop3 (fd 0 8 24 40)] :=
  readyAll _ (by decide +kernel)

theorem witness_BitFields : ReadyAll
  [.bfe (fd 0 8 24 40), .bfi (fd 0 8 24 40), .brev (fd 0 8 24 0), .popc (fd 0 8 24 0), .clz (fd 0 8 24 0),
   .ffs (fd 0 8 24 0)] :=
  readyAll _ (by decide +kernel)

theorem witness_MovesAndAddresses : ReadyAll
  [.ext (fd 0 8 24 2), .sat (fd 0 8 24 2), .pack (fd 2 8 24 40), .unpack (fd 2 8 24 0), .mov (fd 0 8 24 0),
   .movl (fd 0 8 0 0) 0, .sel (fd 0 8 24 40), .lea (fd 0 8 24 40), .wadd (fd 0 8 24 40), .xget (fd 0 8 1 0),
   .sreg (fd 0 8 0 2)] :=
  readyAll _ (by decide +kernel)

theorem witness_Predicates : ReadyAll
  [.icmp (fd 0 3 24 40), .icmpc (fd 0 3 24 40), .pand (fd 0 3 1 2), .por (fd 0 3 1 2), .pxor (fd 0 3 1 2),
   .pnot (fd 0 3 1 0), .pset (fd 0 3 24 2), .pget (fd 0 8 0 0)] :=
  readyAll _ (by decide +kernel)

theorem witness_FloatArithmetic : ReadyAll
  [.fadd (fd 0 8 24 40), .fsub (fd 0 8 24 40), .fmul (fd 0 8 24 40), .fma (fd 0 8 24 40), .fms (fd 0 8 24 40),
   .fnma (fd 0 8 24 40), .fdot2 (fd 8 8 24 40), .fdot4 (fd 0 8 24 40)] :=
  readyAll _ (by decide +kernel)

theorem witness_FloatSelections : ReadyAll
  [.fmin (fd 0 8 24 40), .fmax (fd 0 8 24 40), .fabs (fd 0 8 24 0), .fneg (fd 0 8 24 0), .fclamp (fd 0 8 24 40)] :=
  readyAll _ (by decide +kernel)

theorem witness_FloatControl : ReadyAll
  [.fcmp (fd 0 3 24 40), .fclass (fd 0 8 24 2), .fmode (fd 0 8 0 0) 0, .fsr (fd 0 8 24 0)] :=
  readyAll _ (by decide +kernel)

theorem witness_Conversions : ReadyAll
  [.cvtf (fd 0 8 24 0), .cvtfi (fd 0 8 24 0), .cvtif (fd 0 8 24 0), .frnd (fd 0 8 24 0), .fpack2 (fd 32 8 24 40),
   .funpack2 (fd 32 8 24 0)] :=
  readyAll _ (by decide +kernel)

theorem witness_SpecialFunctions : ReadyAll
  [.rcp (fd 0 8 24 0), .rsqrt (fd 0 8 24 0), .sqrt (fd 0 8 24 0), .fdiv (fd 0 8 24 40), .exp2 (fd 0 8 24 0),
   .log2 (fd 0 8 24 0), .sin (fd 0 8 24 0), .cos (fd 0 8 24 0), .tanh (fd 0 8 24 0), .sigm (fd 0 8 24 0),
   .erf (fd 0 8 24 0)] :=
  readyAll _ (by decide +kernel)

theorem witness_CrossLane : ReadyAll
  [.shfl (fd 0 8 24 40), .vote (fd 0 8 1 0), .red (fd 0 8 24 0), .scan (fd 0 8 24 0), .matchLanes (fd 0 8 24 0),
   .elect (fd 0 3 0 0)] :=
  readyAll _ (by decide +kernel)

theorem witness_JetMoves : ReadyAll
  [.jseed (fd 0 8 24 40), .jput (fd 0 8 24 2), .jzero (fd 0 8 0 0), .jshift (fd 0 8 24 2), .jget (fd 0 8 24 2),
   .jord (fd 0 0 0 2), .jflg (fd 0 8 0 0)] ∧
  ∀ i ∈ ([.jseed (fd 0 8 24 40), .jput (fd 0 8 24 2), .jzero (fd 0 8 0 0), .jshift (fd 0 8 24 2), .jget (fd 0 8 24 2),
   .jord (fd 0 0 0 2), .jflg (fd 0 8 0 0)] : List Instr),
    ∀ f, fieldsOf i = some f → jetBad (ctxtOf tIssue tGang f) (shape i) = false :=
  ⟨readyAll _ (by decide +kernel), jetsOk _ (by decide +kernel)⟩

theorem witness_JetArithmetic : ReadyAll
  [.jadd (fd 0 8 24 40), .jsub (fd 0 8 24 40), .jmul (fd 0 8 24 40), .jfma (fd 0 8 24 40), .jscale (fd 0 8 24 40),
   .jdfac (fd 0 8 24 0), .jdiv (fd 0 8 24 40), .jrcp (fd 0 8 24 0), .jsqrt (fd 0 8 24 0), .jrsqrt (fd 0 8 24 0),
   .jexp (fd 0 8 24 0), .jlog (fd 0 8 24 0), .jsin (fd 0 8 24 0), .jcos (fd 0 8 24 0), .jtanh (fd 0 8 24 0)] ∧
  ∀ i ∈ ([.jadd (fd 0 8 24 40), .jsub (fd 0 8 24 40), .jmul (fd 0 8 24 40), .jfma (fd 0 8 24 40), .jscale (fd 0 8 24 40),
   .jdfac (fd 0 8 24 0), .jdiv (fd 0 8 24 40), .jrcp (fd 0 8 24 0), .jsqrt (fd 0 8 24 0), .jrsqrt (fd 0 8 24 0),
   .jexp (fd 0 8 24 0), .jlog (fd 0 8 24 0), .jsin (fd 0 8 24 0), .jcos (fd 0 8 24 0), .jtanh (fd 0 8 24 0)] : List Instr),
    ∀ f, fieldsOf i = some f → jetBad (ctxtOf tIssue tGang f) (shape i) = false :=
  ⟨readyAll _ (by decide +kernel), jetsOk _ (by decide +kernel)⟩

/-! ## Statements about instructions with more hypotheses -/

/-- Identity translations of the pages of data, code and constants. -/
def tTlb (page : Nat) : TlbEntry :=
  { fn := 1, ctxid := 0, glob := false, page, big := false, pa := page, w := page != 4, x := page == 4, cg := true, mt := 0, far := none
    dirty := true, gpage := page, tables := [] }
/-- A line of two clause headers of two words each, at 0x100000. -/
def tLine : List Byte := (List.range 32).flatMap fun i => toBytes 4 (if i % 2 = 0 then 0xB0140000 else 0x0)
def fCluster (g : Gang) : Cluster := { tCluster g with tlb := [tTlb 0, tTlb 4, tTlb 8], icache := [⟨4096, 0x100000 / 128, 1, tLine⟩] }
/-- As `stateOf`, with translations and code. -/
def fState (g : Gang) : State := withCluster (fCluster g)

theorem readyF (g : Gang) (i : Instr) (f : Fields) (hf : fieldsOf i = some f) (h : judged g i = true) :
    Ready i f (fState g) tIssue g := readyIn _ g rfl i f hf h

/-- A gang whose threads have x0 with BASE 40, LEN 16 and IDX 14. -/
def xGang : Gang := tGang.updLanes (List.range 32) fun _ t => { t with xregs := [(0, 40 * 2 ^ 24 + 16 * 2 ^ 17 + 14)] }

theorem witness_IndexRegisters :
    ReadyAll [.xset (fd 0 1 0 0) 0, .xadd (fd 0 1 0 2)] ∧ Ready (.xmov (fd 0 4 24 0)) (fd 0 4 24 0) (stateOf xGang) tIssue xGang ∧
    (tIssue.lanes.all fun l => (xGang.thread l).winOk xGang.usable 0 1 1 1) = true :=
  ⟨readyAll _ (by decide +kernel), ready _ _ _ rfl (by decide +kernel), by decide +kernel⟩

theorem witness_Quantisation :
    ReadyAll [.qscale (fd 0 8 24 0), .quant (fd 64 8 24 40), .dequant (fd 32 8 24 40), .tepack (fd 16 8 24 0), .teunpack (fd 16 32 24 0)] ∧
    teBad (ctxtOf tIssue tGang (fd 16 8 24 0)) (teRegs 1) 16 = false ∧ teBad (ctxtOf tIssue tGang (fd 16 32 24 0)) 16 (teRegs 1) = false := by
  refine ⟨readyAll _ ?_, ?_, ?_⟩ <;> decide +kernel

/-- A gang with every exception enabled whose v24 and v40 hold the largest FP32 number. -/
def eGang : Gang := { regs [(24, 0x7F7FFFFF), (40, 0x7F7FFFFF)] tGang with fpmode := 0x00F80000 }

theorem witness_EnabledFlagTraps :
    Ready (.fadd (fd 0 8 24 40)) (fd 0 8 24 40) (stateOf eGang) tIssue eGang ∧ tIssue.slot ≠ handlerSlot ∧
    (let c := ctxtOf tIssue eGang (fd 0 8 24 40)
     orLanes c (fun l => (noDraw c l (mapElems (fmtOf 0) 1 fun j => (fmtOf 0).add c.mode (noSr (modeA c))
        ((fmtOf 0).read c.mode (elem (fmtOf 0) (c.a 1 l) j)) ((fmtOf 0).read c.mode (elem (fmtOf 0) (c.b 1 l) j)))).fl) &&&
      fpEnables c.mode) ≠ 0 :=
  ⟨ready _ _ _ rfl (by decide +kernel), by decide, by decide +kernel⟩

theorem witness_UserTraps :
    ReadyAll [.trap (fd 0 0 0 5), .brk (fd 0 0 0 5), .trap (fdNone 0 0 0 5), .brk (fdNone 0 0 0 5)] ∧
    (ctxtOf tIssue tGang (fd 0 0 0 5)).act ≠ [] ∧ (ctxtOf tIssue tGang (fdNone 0 0 0 5)).act = [] := by
  refine ⟨readyAll _ ?_, ?_, ?_⟩ <;> decide +kernel

theorem witness_SystemRegisters :
    ReadyAll [.featq (fd 0 8 0 0), .clock (fd 0 8 0 0), .emtr (fd 0 8 0 0), .opreq (fd 0 8 0 13), .prog (fd 0 0 0 3), .sleep (fd 0 0 0 2),
      .opreq (fdNone 0 8 0 13), .prog (fdNone 0 0 0 3)] ∧
    (ctxtOf tIssue tGang (fd 0 8 0 13)).act ≠ [] ∧ (ctxtOf tIssue tGang (fdNone 0 0 0 3)).act = [] := by
  refine ⟨readyAll _ ?_, ?_, ?_⟩ <;> decide +kernel

/-- A gang whose threads have one call on their stacks and a clause from which they issue. -/
def rGang : Gang := tGang.updLanes (List.range 32) fun _ t =>
  { t.push tGang.usable 4 with clause := some ⟨0x100000, [0xB0140000, 0]⟩ }

theorem witness_BranchesAndCalls :
    ReadyAll [.bra (fd 0 0 0 0) 8, .brp (fd 0 1 0 0) 8, .brx (fd 0 0 24 0), .nop (fd 0 0 0 0), .yield (fd 0 0 0 0), .ret (fd 0 0 0 0)] ∧
    ((ctxtOf tIssue tGang (fd 0 0 24 0)).act.all fun l => canonical ((ctxtOf tIssue tGang (fd 0 0 24 0)).a 2 l) &&
      (ctxtOf tIssue tGang (fd 0 0 24 0)).a 2 l % 4 == 0) = true ∧
    (tGang.thread 0).scnt = 0 ∧ (let c := ctxtOf tIssue rGang (fd 0 0 24 0)
    Ready (.call (fd 0 0 24 0) 8) (fd 0 0 24 0) (stateOf rGang) tIssue rGang ∧
    Ready (.callx (fd 0 0 24 0)) (fd 0 0 24 0) (stateOf rGang) tIssue rGang ∧
    Ready (.ret (fd 0 0 24 0)) (fd 0 0 24 0) (stateOf rGang) tIssue rGang ∧
    (c.act.all fun l => decide ((rGang.thread l).scnt < rGang.depth) && (rGang.thread l).scnt != 0 && canonical (c.a 2 l) && c.a 2 l % 4 == 0 &&
      ((rGang.thread l).reg (rGang.usable + (rGang.thread l).scnt - 1)) / 2 ^ 30 == 0) = true ∧
    pushOk rGang.entry c.nextHeader = true) := by
  refine ⟨readyAll _ ?_, ?_, ?_, ready _ _ _ rfl ?_, ready _ _ _ rfl ?_, ready _ _ _ rfl ?_, ?_, ?_⟩ <;> decide +kernel

/-- The handler of a trap in scalar mode, in issue. -/
def hIssue : Issue := { tIssue with slot := handlerSlot, lanes := [0], scalar := true }
def hGang : Gang := { tGang with threads := tGang.threads.take 1 }
def hState : State :=
  { withCluster { Cluster.reset with handler := some { slot := 0, record := { cls := 1 }, gang := hGang, mem := [], began := 0, verdict := none } } with
    cur := some hIssue }

theorem witness_MeetLoopSwitchExit :
    (let f := fd 0 0 24 0
     let c := ctxtOf tIssue rGang f
     Ready (.meet f 8) f (stateOf rGang) tIssue rGang ∧
     (c.act.all fun l => decide ((rGang.thread l).scnt < rGang.depth) && (rGang.thread l).mr == BitVec.allOnes 64) = true ∧
     Ready (.exit f) f (stateOf rGang) tIssue rGang) ∧
    (let g := regs [(24, 3)] rGang
     Ready (.loop (fd 0 0 24 0) 8) (fd 0 0 24 0) (stateOf g) tIssue g ∧
     ((ctxtOf tIssue g (fd 0 0 24 0)).act.all fun l => (ctxtOf tIssue g (fd 0 0 24 0)).a 1 l != 0) = true) ∧
    (let f := fd 0 0 24 0
     let s := fState rGang
     Ready (.loop f 4) f s tIssue rGang ∧ rGang.tstop = false ∧ (ctxtOf tIssue rGang f).a 1 0 = 0 ∧
     (headerWalk tIssue rGang.ctx rGang.ownIds 1 (tIssue.addr + (4 : BitVec 32).signExtend 64) s.idle []).2.2.isNone = true ∧
     (headerWalk tIssue rGang.ctx rGang.ownIds 1 (tIssue.addr + (4 : BitVec 32).signExtend 64) s.idle []).1.issGang? tIssue = some rGang ∧
     Ready (.switch f 0) f s tIssue rGang ∧
     (headerWalk tIssue rGang.ctx rGang.ownIds (((ctxtOf tIssue rGang f).act.map fun l => switchCase f 0 ((ctxtOf tIssue rGang f).a 1 l)).foldl Nat.max 0)
       (ctxtOf tIssue rGang f).nextHeader s.idle []).2.2.isNone = true) ∧
    (Ready (.exit (fd 0 0 0 0)) (fd 0 0 0 0) hState hIssue hGang ∧ (ctxtOf hIssue hGang (fd 0 0 0 0)).act ≠ [] ∧
     Ready (.exit (fdNone 0 0 0 0)) (fdNone 0 0 0 0) hState hIssue hGang ∧ (ctxtOf hIssue hGang (fdNone 0 0 0 0)).act = []) := by
  refine ⟨⟨ready _ _ _ rfl ?_, ?_, ready _ _ _ rfl ?_⟩, ⟨ready _ _ _ rfl ?_, ?_⟩,
    ⟨readyF _ _ _ rfl ?_, ?_, ?_, ?_, ?_, readyF _ _ _ rfl ?_, ?_⟩, ⟨⟨rfl, rfl, ?_⟩, ?_, ⟨rfl, rfl, ?_⟩, ?_⟩⟩ <;> decide +kernel

/-- What `State.passes` asks, evaluated: the lanes' causes, the scope, earlier acquires and the release. -/
def passesB (s : State) (c : Ctxt) (a : Acc) (off : Bool) : Bool :=
  (c.act.all fun l => s.laneCause c a (c.laneAddr a off l) == 0) &&
    s.scopeOf c a.named == a.named && c.g.openAcquires c.act == [] &&
    (if a.isRel then s.releaseGate c (if a.sp = 1 then 2 else if a.named = 0 then a.sc else s.scopeOf c a.named)
      else if a.kind = .flag then s.flagGate c (c.act.map (c.laneAddr a off)) else (s, none)).2.isNone

theorem passes_of (s : State) (c : Ctxt) (a : Acc) (off : Bool) (h : passesB s c a off = true) : ∃ s2, s.passes s2 c a off := by
  unfold passesB at h
  simp only [Bool.and_eq_true, List.all_eq_true, beq_iff_eq, Option.isNone_iff_eq_none] at h
  obtain ⟨⟨⟨h1, h2⟩, h3⟩, h4⟩ := h
  exact ⟨_, h1, fun h => absurd h2 h, h3, _, Prod.ext rfl h4, rfl⟩

theorem witness_GlobalAccesses :
    -- global loads, stores and atomics, a load of the scratchpad and one of the constants
    (Ready (.ld (fd 0 8 24 0)) (fd 0 8 24 0) tState tIssue tGang ∧ (memAcc (fd 0 8 24 0) .load false).sp = 0 ∧
      (∃ s2, tState.idle.passes s2 (ctxtOf tIssue tGang (fd 0 8 24 0)) (memAcc (fd 0 8 24 0) .load false) true) ∧
      tGang.full [.ld, .rm] = false) ∧
    (let f := fd 0 8 24 0
     let c := ctxtOf tIssue tGang f
     let a := memAcc f .store false
     a.sp = 0 ∧ (∃ s2, tState.idle.passes s2 c a true) ∧
      tGang.full (tState.idle.classes c a (c.act.map (c.accAddr tState.idle a true))) = false ∧
      destTakes tGang.dests ((c.act.filterMap fun l => tState.knownFar c a (c.accAddr tState.idle a true l)).eraseDups) = true) ∧
    ReadyAll [.ldv (fd 0 8 24 0), .st (fd 0 8 24 0), .stv (fd 0 8 24 0), .stflag (fd 0 8 24 0), .atom (fd 0 8 24 40), .atomr (fd 0 0 24 40),
      .atomf (fd 0 0 24 40), .cas (fd 0 8 24 40)] ∧
    (Ready (.ld (fd 64 8 24 0)) (fd 64 8 24 0) tState tIssue tGang ∧ (memAcc (fd 64 8 24 0) .load false).sp = 1 ∧
      ∃ s2, tState.idle.passes s2 (ctxtOf tIssue tGang (fd 64 8 24 0)) (memAcc (fd 64 8 24 0) .load false) true) ∧
    (Ready (.ld (fd 128 8 24 0)) (fd 128 8 24 0) tState tIssue tGang ∧ (memAcc (fd 128 8 24 0) .load false).sp = 2 ∧
      ∃ s2, tState.idle.passes s2 (ctxtOf tIssue tGang (fd 128 8 24 0)) (memAcc (fd 128 8 24 0) .load false) true) := by
  refine ⟨⟨ready _ _ _ rfl ?_, ?_, passes_of _ _ _ _ ?_, ?_⟩, ⟨?_, passes_of _ _ _ _ ?_, ?_, ?_⟩, readyAll _ ?_, ⟨ready _ _ _ rfl ?_, ?_, passes_of _ _ _ _ ?_⟩,
    ⟨ready _ _ _ rfl ?_, ?_, passes_of _ _ _ _ ?_⟩⟩ <;> decide +kernel

theorem witness_ScratchpadStores :
    (let f := fd 64 8 24 0
     let a := memAcc f .store false
     Ready (.st f) f tState tIssue tGang ∧ a.sp = 1 ∧ a.ord = 0 ∧ tGang.openAcquires (ctxtOf tIssue tGang f).act = [] ∧
       tGang.full [.st] = false ∧
       ((ctxtOf tIssue tGang f).act.all fun l => tState.laneCause (ctxtOf tIssue tGang f) a ((ctxtOf tIssue tGang f).laneAddr a true l) == 0) = true) ∧
    Ready (.stv (fd 64 8 24 0)) (fd 64 8 24 0) tState tIssue tGang ∧
    (Cluster.reset.scratchBanks.length ≠ 0) := by
  refine ⟨⟨ready _ _ _ rfl ?_, ?_, ?_, ?_, ?_, ?_⟩, ready _ _ _ rfl ?_, ?_⟩ <;> decide +kernel

/-- A gang with an open consignment slot and an open view in slot 0. -/
def oGang : Gang :=
  { tGang with slots := tGang.slots.set 0 ⟨1, 0x2000000001, 0, [], [], 0⟩, views := tGang.views.set 0 ⟨true, 5, false⟩ }

theorem witness_SpecialAccesses :
    (let f := fd 0 8 24 0
     let c := ctxtOf tIssue oGang f
     Ready (.ldview f) f (stateOf oGang) tIssue oGang ∧ (oGang.views.getD 0 ⟨false, 0, false⟩).isOpen = true ∧
     Ready (.stcsg f) f (stateOf oGang) tIssue oGang ∧ (oGang.slotAt 0).st = 1 ∧
     Ready (.stflag f) f (stateOf oGang) tIssue oGang ∧
     (∃ s2, (stateOf oGang).idle.passes s2 c { kind := .view, bytes := 4, sext := false, regs := 1, slot := 0 } true) ∧
     (∃ s2, (stateOf oGang).idle.passes s2 c { kind := .csg, bytes := 4, slot := 0 } true) ∧
     (∃ s2, (stateOf oGang).idle.passes s2 c { kind := .flag, bytes := 4 } true) ∧
     oGang.full [.ld, .rm] = false ∧ oGang.full [.st, .rm] = false) ∧
    ReadyAll [.pf (fd 0 0 24 0), .wb (fd 0 0 24 0), .inv (fd 0 0 24 0), .inv (fd 1 0 0 0)] ∧
    (ctxtOf tIssue tGang (fd 1 0 0 0)).act ≠ [] := by
  refine ⟨⟨ready _ _ _ rfl ?_, ?_, ready _ _ _ rfl ?_, ?_, ready _ _ _ rfl ?_, passes_of _ _ _ _ ?_, passes_of _ _ _ _ ?_,
    passes_of _ _ _ _ ?_, ?_, ?_⟩, readyAll _ ?_, ?_⟩ <;> decide +kernel

/-- A cluster whose bank 24 is a FIFO that the context owns, with `n` rows in it. -/
def qCluster (n : Nat) : Cluster :=
  { tCluster tGang with bankCur := BitVec.ofNat 64 (setBits 0x5555000000000000 48 2 2), fifos := [(24, ⟨some 4096, 0, n⟩)] }

theorem witness_FifoAccesses :
    (∀ n ∈ [0, 1, 512], (withCluster (qCluster n)).fifoOk (ctxtOf tIssue tGang (fd 0 8 0 24)) 24 = true) ∧
    (ctxtOf tIssue tGang (fd 0 8 0 24)).act ≠ [] ∧ judged tGang (.fpop (fd 0 8 0 24)) = true ∧ judged tGang (.fpush (fd 0 8 0 24)) = true ∧
    FifoReg.fill ⟨some 4096, 0, 0⟩ = 0 ∧ FifoReg.fill ⟨some 4096, 0, 1⟩ = 1 ∧ FifoReg.fill ⟨some 4096, 0, 512⟩ = 512 := by
  decide +kernel

/-- Function 1 with a version store. -/
def vFunc : Func := { Func.reset with vstoreBase := 0x40000001, vstoreGeom := 0x0001000100010000 }

theorem witness_Consignments :
    (let f := fd 0 8 0 0
     let s : State := { tState with funcs := [(1, vFunc)] }
     (ctxtOf tIssue tGang f).act = tGang.liveLanes ∧ judged tGang (.csgOpen f) = true ∧ (tGang.slotAt 0).st = 0 ∧
     (s.func 1).vOn = true ∧ lowestFree 0 (min (s.func 1).recCount ((s.func 1).recUsed.length + 1)) (s.func 1).recUsed = some 0 ∧
     s.openCsgs 4096 < 4096) ∧
    (judged oGang (.csgSeal (fd 0 8 0 0)) = true ∧ judged oGang (.csgAbort (fd 0 0 0 0)) = true ∧ (oGang.slotAt 0).st = 1 ∧
     oGang.full [.rm] = false) := by decide +kernel

theorem witness_Consignments_views :
    (let f := fd 0 0 0 0
     (tGang.views.getD 0 ⟨false, 0, false⟩).isOpen = false ∧ (ctxtOf tIssue tGang f).act = tGang.liveLanes ∧
     tGang.pendingOps (ctxtOf tIssue tGang f).act = [] ∧ judged tGang (.viewOpen f) = true) ∧
    (judged oGang (.viewClose (fd 0 3 0 0)) = true ∧ judged oGang (.viewStamp (fd 0 8 0 0)) = true ∧
     (oGang.views.getD 0 ⟨false, 0, false⟩).isOpen = true ∧ (ctxtOf tIssue oGang (fd 0 3 0 0)).act = oGang.liveLanes ∧ oGang.ops = []) := by
  decide +kernel

/-- A gang with three incomplete loads. -/
def wGang : Gang :=
  (List.range 3).foldl (fun g i => g.addOp (.ld (fd 0 8 24 0)) tIssue [0] [.ld] [{ lane := 0, va := 128 * i, data := 0, cmp := 0, st := .walking }] [] [] 0 false) tGang

theorem witness_Fences :
    ReadyAll [.fence (fd 8 0 0 0), .fenceSc (fd 0 0 0 0), .wait (fd 0 1 0 0), .wb (fd 1 0 0 0)] ∧
    (tState.idle.releaseGate (ctxtOf tIssue tGang (fd 8 0 0 0)) 0).2.isNone = true ∧
    tState.scopeOf (ctxtOf tIssue tGang (fd 8 0 0 0)) 0 = 0 ∧ tGang.ops = [] ∧ tGang.count (ctrOf 1) ≤ 0 ∧
    tGang.openLoads (ctxtOf tIssue tGang (fd 8 0 0 0)).act = [] ∧
    ReadyAll [.fence (fdNone 8 0 0 0), .fenceSc (fdNone 0 0 0 0)] ∧ (ctxtOf tIssue tGang (fdNone 8 0 0 0)).act = [] ∧
    tGang.pendingOps (ctxtOf tIssue tGang (fd 1 0 0 0)).act = [] ∧
    (let r := State.writeOutList 0 false (tState.idle.dirtyLines 0 (· == 4096)) tState.idle
     r.2.isNone = true ∧ r.1.wbLost 4096 = none ∧ r.1.wbAway 4096 = false) ∧ tGang.full [.st] = false ∧
    (Ready (.wait (fd 0 1 0 2)) (fd 0 1 0 2) (stateOf wGang) tIssue wGang ∧ 2 < wGang.count (ctrOf 1)) := by
  refine ⟨readyAll _ ?_, ?_, ?_, ?_, ?_, ?_, readyAll _ ?_, ?_, ?_, ?_, ?_, ready _ _ _ rfl ?_, ?_⟩ <;> decide +kernel

theorem witness_IssueEnds : tState.issGang? tIssue = some tGang := by decide +kernel

/-- A cluster with a barrier object of two participants at offset 64 of the block. -/
def bCluster (g : Gang) : Cluster := (tCluster g).scratchWrite 64 (toBytes 16 (2 + 2 * 2 ^ 48))
def bGang : Gang := regs [(24, 64), (40, 1)] tGang

theorem witness_BlockBarriers :
    (let f := fd 0 8 24 40
     let c := ctxtOf tIssue bGang f
     let s := { withCluster (bCluster bGang) with parts := [(0, { Part.reset with op := 8 })] }
     let b := (s.cluster 0).bar (s.scratchBase c + c.barOff)
     c.act ≠ [] ∧ s.barAddr c = none ∧ c.b 1 c.low ≠ 0 ∧ c.b 1 c.low ≤ 2048 ∧ b.refused = false ∧ b.arrived + 1 ≤ b.expect ∧
     (s.cluster 0).scratchPoison (s.scratchBase c + c.barOff) 16 = false ∧
     bGang.pendingOps c.act = [] ∧ bGang.openLoads c.act = [] ∧
     (((chargeBar s.idle c).barArrive tIssue bGang.blk (s.scratchBase c + c.barOff) fun b => { b with arrived := b.arrived + 1 }).issGang?
       tIssue).isSome = true ∧ (c.act.all fun l => bitOf (c.b 1 l) 0 != b.phase) = true) ∧
    (([.barInit (fd 0 0 24 40), .barArrive (fd 0 8 24 0), .barExpect (fd 0 0 24 40), .barWait (fd 0 0 24 40), .barTry (fd 0 3 24 40)] :
      List Instr).all (judged bGang)) = true := by decide +kernel

theorem witness_GroupAndGridBarriers :
    (let f := fd 1 0 0 0
     let c := ctxtOf tIssue tGang f
     let n : Launch := { ctx := 4096, queue := 0, seq := 0, compAddr := 0, compInc := 0, coop := true, gridX := 2, gridY := 1, gridZ := 1
                         accRows := 64, scratch := 4096, fifomask := 0, depth := 16, cbase := 0x200000, csize := 4096, roles := [tRole]
                         acq := false, member := [], placed := 2, ended := 0, clusters := [0], arrived := 0, phase := 0, since := 0
                         waited := false, lost := 0, fault := none }
     let s : State := { tState with launches := [(0, n)] }
     c.act ≠ [] ∧ (s.idle.releaseGate c 0).2.isNone = true ∧ tBlock.groups.contains (auxBits f 0 8) = true ∧ s.blockOf tIssue tGang = some tBlock ∧
     s.launches.find? tBlock.launch = some n ∧ n.coop = true ∧ n.arrived + 1 < n.gridX * n.gridY * n.gridZ ∧
     (let m := { n with arrived := 1 }; m.gridX * m.gridY * m.gridZ ≤ m.arrived + 1) ∧
     (s.ctx 4096).groups.getD 1 ⟨1, 0, 0⟩ = ⟨1, 0, 0⟩ ∧
     (let e := ({ Ctx.new with groups := [(1, ⟨2, 0, 0⟩)] } : Ctx).groups.getD 1 ⟨1, 0, 0⟩; e.arrived + 1 < e.members) ∧ judged tGang (.gbar f) = true ∧ judged tGang (.gridbar (fd 0 0 0 0)) = true ∧
     (c.act.all fun l => (tGang.thread l).wait == none) = true) := by decide +kernel

/-- The leader of a block with a window of accumulator rows 0 to 63 and queues 0 to 3. -/
def mGang : Gang := { tGang with acclim := 64, qmask := 15 }

theorem witness_MatrixCommands :
    (let c := ctxtOf tIssue mGang (fd 0 8 24 2)
     c.act.length = 32 ∧ mGang.full [.mx] = false ∧ (stateOf mGang).blockOf tIssue mGang = some tBlock ∧
     (c.a 1 0 + (0x40 : BitVec 32).toNat) % 2 ^ 32 % 32 = 0 ∧ 0x40 + 32 ≤ tBlock.csize ∧ mGang.accbase + 0 + 3 ≤ mGang.acclim ∧
     (mmaOf 0x28080C10).d + (mmaOf 0x28080C10).rows ≤ mGang.acclim ∧
     ((mmaOf 0x28080C10).q = true → bitOf mGang.qmask (mmaOf 0x28080C10).qn = true) ∧
     ((stateOf mGang).cluster 0).rowsBusy 0 0 32 = false) ∧
    (([.tidSet (fd 0 8 24 0) 0x40, .tidGet (fd 0 8 0 40), .mxLdb (fd 0 8 24 2), .mxLda (fd 0 8 24 2), .mxMma (fd 0 0 0 0) 0x28080C10,
      .mxZero (fd 0 0 24 2), .accLd (fd 0 8 24 2), .accSt (fd 0 8 24 2)] : List Instr).all (judged mGang)) = true := by decide +kernel

theorem witness_AccumulatorAccess :
    (Ready (.mxZero (fd 0 0 24 2)) (fd 0 0 24 2) tState tIssue tGang ∧ tIssue.slot ≠ handlerSlot ∧
      (ctxtOf tIssue tGang (fd 0 0 24 2)).act.length = 32 ∧ tGang.acclim < tGang.accbase + (ctxtOf tIssue tGang (fd 0 0 24 2)).a 1 0 + (2 + 1)) ∧
    (let g := regs [(40, 32)] mGang
     Ready (.accWin (fd 1 0 24 40)) (fd 1 0 24 40) (stateOf g) tIssue g ∧ g.index = 0 ∧ (stateOf g).blockOf tIssue g = some tBlock ∧
     (ctxtOf tIssue g (fd 1 0 24 40)).b 1 0 = 32 ∧ tBlock.gangs.length = 1) ∧
    (Ready (.accPop (fd 0 8 0 0)) (fd 0 8 0 0)
       (withCluster { tCluster mGang with rowqs := [(some 7, [List.replicate 128 1]), (none, []), (none, []), (none, [])] }) tIssue mGang ∧
     bitOf mGang.qmask 0 = true) := by
  refine ⟨⟨ready _ _ _ rfl ?_, ?_, ?_, ?_⟩, ⟨ready _ _ _ rfl ?_, ?_, ?_, ?_, ?_⟩, readyIn _ _ rfl _ _ rfl ?_, ?_⟩ <;> decide +kernel

/-- Copies: a tile of 16 rows of 16 columns, 128 bytes of a linear copy to offset 256, a multicast to the only member of group 1. -/
def cGang : Gang := regs [(24, 0x1000), (26, 256), (27, 1), (40, 128), (41, 0), (42, 16 + 16 * 2 ^ 16), (43, 64)] tGang

theorem witness_CopyAndChainCommands :
    (let c := ctxtOf tIssue cGang (fd 0 3 24 40)
     cGang.full [.cp] = false ∧ c.act ≠ [] ∧
     (reg32 (c.b 4 c.low) 2 % 2 ^ 16 ≠ 0 ∧ reg32 (c.b 4 c.low) 2 / 2 ^ 16 ≠ 0 ∧ reg32 (c.b 4 c.low) 0 % 16 = 0 ∧ reg32 (c.b 4 c.low) 3 % 16 = 0) ∧
     (c.b 1 c.low ≠ 0 ∧ c.b 1 c.low % 4 = 0 ∧ reg32 (c.a 4 c.low) 2 + c.b 1 c.low ≤ (stateOf cGang).scratchSize c ∧
       (c.a 4 c.low % 2 ^ 64) % 4 = 0 ∧ reg32 (c.a 4 c.low) 2 % 4 = 0) ∧
     (reg32 (c.a 4 c.low) 3 ≠ 0 ∧ reg32 (c.b 2 c.low) 0 ≠ 0 ∧ reg32 (c.b 2 c.low) 0 % 4 = 0 ∧ reg32 (c.b 2 c.low) 1 % 16 = 0 ∧
       tBlock.groups.contains (auxBits (fd 8 3 24 40) 3 8) = true)) ∧
    (([.cpTile (fd 0 3 24 40), .cpLin (fd 0 3 24 40), .cpMcast (fd 8 3 24 40), .cpWptr (fd 0 8 0 2), .cpCancel (fd 0 0 0 2),
      .chain (fd 0 0 24 0), .chainStat (fd 0 8 0 1)] : List Instr).all (judged cGang)) = true ∧
    (stateOf cGang).inStep 0 4096 6 = false ∧
    ({ stateOf cGang with farGot := [⟨{ cl := 0, x := 4096, eng := 2, write := false, pkg := 9, pa := 0, n := 128, unit := 6 }, [], none, false⟩] } :
      State).inStep 0 4096 6 = true ∧
    (ctxtOf tIssue cGang (fd 0 0 24 0)).a 2 0 % 128 = 0 ∧ cGang.full [.ch] = false := by decide +kernel

/-! ## The step, traps of the operand judgements, the invariant -/

/-- The small state with an `add` in the clause of its gang. -/
def sGang : Gang := tGang.updLanes (List.range 32) fun _ t => { t with pc := 0x100004, clause := some ⟨0x100000, [0xB0140000, 0x04020206]⟩ }
def sState : State := { stateOf sGang with cur := none, sels := [tIssue] }

theorem witness_StepRunsDecoded :
    sState.regq = [] ∧ sState.sels = [tIssue] ∧ sState.issGang? tIssue = some sGang ∧ sGang.exempt = none ∧
    (tIssue.lanes.filter fun l => (sGang.thread l).pc == tIssue.addr && (sState.eligibles 0 tIssue.gangSlot sGang).contains l) = List.range 32 ∧
    (sState.dropSel.judgeBreak tIssue sGang tIssue.lanes).isNone = true ∧
    (∃ i, decode (sGang.thread 0).words = .ok (i, [])) ∧
    (let s : State := { State.reset with inputs := [⟨0, 5, .timeLockChange true⟩] }
     s.sels = [] ∧ (0 : Nat) ≤ s.cycles ∧ Instr.isEvent (.timeLockChange true) = true) := by
  refine ⟨rfl, rfl, ?_, rfl, ?_, ?_, ⟨_, rfl⟩, ?_⟩ <;> decide +kernel

theorem witness_IllegalInstructions :
    tState.cur = some tIssue ∧ tState.issGang? tIssue = some tGang ∧ tIssue.scalar = false ∧ tIssue.slot ≠ handlerSlot := by decide +kernel

/-- A gang of eight registers a thread, none of them usable above the stack. -/
def nGang : Gang := { tGang with allot := 32 }

theorem witness_OperandTraps :
    (stateOf nGang).issGang? tIssue = some nGang ∧
    operandBad nGang.usable (shape (.add (fd 0 8 24 40))) (fd 0 8 24 40) = true ∧
    (let f : Fields := { fd 0 8 0 2 with perm0 := .idx 1 0 }
     operandBad tGang.usable (shape (.add f)) f = false ∧
     indexBad tGang tIssue.lanes (shape (.add f)).vs0 f.perm0 ++ indexBad tGang tIssue.lanes (shape (.add f)).vs1 f.perm1 ≠ []) := by
  decide +kernel

theorem witness_DecodeEncode : (Instr.add (fd 0 8 24 40)).wf = true ∧ fieldsOf (Instr.add (fd 0 8 24 40)) = some (fd 0 8 24 40) ∧
    decode (encode (.add (fd 0 8 24 40))) = .ok (.add (fd 0 8 24 40), []) := ⟨by decide, rfl, rfl⟩
theorem witness_EncodeDecode : decode [0x06020206, 0x00000000] = .ok (.add (fd 0 8 4 6), []) := rfl
theorem witness_AssignedOpcodes : majorOf 0x04000000 = 1 ∧ majorOf 0 = 0 ∧ fieldsOf (.add (fd 0 8 4 6)) = some (fd 0 8 4 6) := by decide
theorem witness_Progress : State.reset.eventsOnly = true := by decide
theorem witness_InvariantKept : State.reset.Inv = true ∧ ∃ t, State.reset.steps t := ⟨by decide, _, rfl⟩

/-! ## Events: states that meet each clause -/

/-- A context whose tables map its first 2 GiB onto the first 2 GiB of memory, writable and executable. -/
def eCtx : Ctx := { Ctx.new with st := 2, sroot := 0x10001 }
def eMem : List Host.Cell := writeBytes (writeBytes [] 0x10000 (toBytes 8 0x20003)) 0x20000 (toBytes 8 0x18D)
/-- A partition at the operating point whose tolls the manual tabulates. -/
def ePart : Part := { Part.reset with op := 8 }
/-- The package with one cluster and that context, of function 1 and of the physical function. -/
def eState (k : Cluster) : State :=
  { State.reset with ctxs := [(4096, eCtx), (524288, eCtx)], clusters := [(0, k)], mem := eMem, parts := [(0, ePart)] }
/-- With queue 0 of the physical function. -/
def qState (u : Queue) : State :=
  { eState Cluster.reset with funcs := [(128, { Func.reset with queues := [(0, u)] })] }
def qOn : Queue := { Queue.reset with ctl := 1, base := 0x4000, tail := 1 }

/-- Code at 0x100000: a clause of one `add`, with no wait and with a wait for `oc.ld`. -/
def cdState (h : Nat) (g : Gang) : State :=
  let s := eState (tCluster g)
  { s with mem := writeBytes s.mem 0x100000 (toBytes 4 h ++ toBytes 4 0x06020206 ++ toBytes 4 0) }
def cntGang : Gang := tGang.addOp (.ld (fd 0 8 24 0)) tIssue [0] [.ld] [] [] [] 0 false
def fetched (s : State) (n : Nat) : List Word := match (fetchWords s 0 4096 [] 0x100000 n).2 with | .words ws => ws | _ => []
def passable (s : State) (g : Gang) (wc : Nat) : Prop :=
  s.gang? 0 0 = some g ∧ s.atHeader 0 0 g 0 = true ∧
    ∃ h, (fetchWords s 0 4096 [] 0x100000 1).2 = .words [h] ∧ headerBad h = false ∧ bitsOf h.toNat 10 4 = wc ∧
      ∃ ws, (fetchWords (fetchWords s 0 4096 [] 0x100000 1).1 0 4096 [] 0x100000 (bitsOf h.toNat 18 6 + 1)).2 = .words ws ∧ ws.head? = some h ∧
        clauseBad (bitsOf h.toNat 24 4) (bitsOf h.toNat 14 4) 47 0 ws.tail = false ∧ roleBad g false (bitsOf h.toNat 24 4) = false

theorem witness_header_free : passable (cdState 0xB0084000 tGang) tGang 0 := by
  refine ⟨by decide +kernel, by decide +kernel, 0xB0084000, by decide +kernel, by decide +kernel, by decide +kernel,
    [0xB0084000, 0x06020206, 0], ?_⟩
  decide +kernel
theorem witness_header_waits : passable (cdState 0xB0084400 cntGang) cntGang 1 ∧ ¬ cntGang.count .ld ≤ 0 := by
  refine ⟨⟨by decide +kernel, by decide +kernel, 0xB0084400, by decide +kernel, by decide +kernel, by decide +kernel,
    [0xB0084400, 0x06020206, 0], ?_⟩, ?_⟩ <;> decide +kernel

def odState : State := { stateOf sGang with cur := none, cycles := 100 }
def pGang : Gang := sGang.updLanes [0] fun _ t => { t with passed := 32 }
def ywGang : Gang := (tGang.updLanes [0] fun _ t => { t with wait := some (.yield 0 5) }).updLanes [1] fun _ t => { t with wait := some (.sleep 7) }
def dGang : Gang := tGang.updLanes (List.range 32) fun _ t => { t with live := false }
def endBlock : Block := { tBlock with gangs := [none] }

theorem witness_FrontEndEvents :
    (overdue odState.cycles ((odState.candidates 0 0).filter fun c => c.2.1.delayed ≤ odState.cycles)).isSome = true ∧
    ((stateOf pGang).choice 0 0).map (fun c => (c.1, c.2.2.contains 0)) = some (0, true) ∧ 32 ≤ (pGang.thread 0).passed ∧
    (ywGang.thread 0).wait = some (.yield 0 5) ∧ (ywGang.thread 1).wait = some (.sleep 7) ∧
    FMap.sorted (tCluster dGang).gangs = true ∧ dGang.liveLanes = [] ∧ dGang.settledAll = true ∧ dGang.finished = true ∧
    (let k := { Cluster.reset with blocks := [(7, endBlock)] }
     FMap.sorted k.blocks = true ∧ (∀ x ∈ endBlock.gangs, x = none) ∧ k.cmdsOf 7 = [] ∧ k.rowWait = []) := by decide +kernel

/-! Translation. -/

def tWalk : Walk :=
  { cl := 0, ctx := 4096, va := 0x1000, at' := 0, s1 := 1, gpa := 0, s2 := 0, node := 0, pa := 0x10000, leaf1 := none, leafT := none
    leaf2 := none, tables := [], upd := [], found := [], nodes := [], result := none }
def tEntry : TlbEntry :=
  { fn := 1, ctxid := 0, glob := false, page := 0, big := true, pa := 0, w := true, x := true, cg := false, mt := 0, far := none
    dirty := true, gpage := 0, tables := [] }
def withWalk (w : Walk) : State := { eState Cluster.reset with parts := [(0, { ePart with walks := [(0, w)] })] }
def tReq : PageReq :=
  { seq := 5, ctx := 4096, part := 0, va := 0, gpa := 0, eng := 0, tbl := false, cmdseq := 0, atype := 0, kind := 0, stage := 1, level := 1
    iaddr := 0, held := false }
/-- Function 1 with a request 5, held or not, and a response of a code in its ring. -/
def rState (held : Bool) (code st : Nat) : State :=
  { State.reset with
    ctxs := [(4096, { eCtx with st := st })], mem := writeBytes [] 0x2000 (toBytes 8 (5 + code * 2 ^ 32))
    funcs := [(1, { Func.reset with live := [{ tReq with held := held }], prqCtl := 1, rsqCtl := 1, rsqBase := 0x2000, rsqTail := 1 })] }

theorem witness_TranslationEvents :
    (tWalk.next = some (1, 1, 0x10000) ∧ inHbm 0x10000 = true ∧ ((withWalk tWalk).unitWaits 0 4096 (0x10000 / 128) false false).2 = false ∧
      ((withWalk tWalk).resolve 0 4096 0x10000 [] none).2.1 = .inPlace ∧
      (let s1 := ((withWalk tWalk).resolve 0 4096 0x10000 [] none).1
       spanBad (halfMask (s1.badHalves (0x10000 / 128))) (0x10000 % 128) 8 = false) ∧
      (let s := { withWalk tWalk with poison := [(2 * (0x10000 / 128), true)] }
       let r := s.resolve 0 4096 0x10000 [] none
       r.2.1 = .inPlace ∧ spanBad (halfMask (r.1.badHalves (0x10000 / 128))) (0x10000 % 128) 8 = true) ∧
      ({ tWalk with pa := 0 } : Walk).next = some (1, 1, 0) ∧ inHbm (2 ^ 51) = false) ∧
    (let w : Walk := { tWalk with s1 := 4, upd := [⟨0x20000, 0x18D, 0x18D⟩, ⟨0x20000, 0, 1⟩] }
     let s := (((withWalk w).writeGate 0 4096 0x20000).1.unitTrip w.cl 0x20000 true).l2Access 0 4096 ⟨0x20000, 8⟩ true
     w.next = none ∧ ((withWalk w).unitWaits 0 4096 (0x20000 / 128) true false).2 = false ∧
     ((withWalk w).writeGate 0 4096 0x20000).2 = .go ∧ s.readNum 0x20000 8 = 0x18D) ∧
    (let w : Walk := { tWalk with s1 := 4, result := some (.inl tEntry) }
     w.next = none ∧ (withWalk w).lanesWhere (fun _ _ _ l => l.st == .walking) = [] ∧ FMap.sorted ((withWalk w).part 0).walks = true) ∧
    (((rState true 0 2).func 1).live.find? (·.held) = some { tReq with held := true } ∧ ((rState true 0 2).func 1).prqRoom = true ∧
      (rState true 0 2).lanesWhere (fun _ _ _ l => l.st == .stalled) = [] ∧ (rState true 0 2).exportSt = []) ∧
    (∀ code < 3, (rState false code 2).nextResponse 1 = some (5 + code * 2 ^ 32, 0) ∧ ((rState false code 3).ctx 4096).st = 3 ∧
      ((rState false code 3).recordResponse tReq code).2 = true) ∧
    ((rState false 0 2).func 1).live.find? (·.seq == 5) = some tReq ∧
    (State.reset.shut 1 = false ∧ (∀ op < 5, tlbiBad 1 (BitVec.ofNat 64 op) = false ∧ tlbiOp (BitVec.ofNat 64 op) = op) ∧
      (∀ op < 7, tlbiBad 128 (BitVec.ofNat 64 (op + 0x1000)) = false ∧ tlbiOp (BitVec.ofNat 64 (op + 0x1000)) = op) ∧ tlbiBad 1 5 = true) ∧
    (let s : State := { State.reset with funcs := [(1, { Func.reset with tlbiPend := List.replicate 16 (0, []) })] }
     16 ≤ (s.func 1).tlbiPend.length ∧ (s.func 1).tlbiPend.head? = some (0, [])) := by decide +kernel

theorem witness_InvalidEntries : inHbm 0x10000 = true ∧ (0xFFFE : Nat) % 2 = 0 ∧ tWalk.refused = none ∧
    (let l : Leaf := { level := 3, addr := 0x20000, val := 1 }; ({ tWalk with at' := atAtomic, leaf1 := some l } : Walk).refused = some l) := by decide

/-- A cluster whose bank 3 is an owned FIFO. -/
def bkCluster : Cluster := { Cluster.reset with bankCur := 0x5555000000000080, fifos := [(3, ⟨some 7, 0, 1⟩)] }
theorem witness_FifoBanks :
    State.reset.shut 128 = false ∧ bkCluster.bmCode ≠ 1 ∧ bkCluster.mode 3 = 2 ∧ modeAt 0x5555000000000000 3 ≠ 2 ∧
    ((bkCluster.fifos.getD 3 ⟨none, 0, 0⟩).owner.isSome) = true := by decide

/-! Memory. -/

def l1Line (dirty : Nat) : L1Line :=
  { way := 0, valid := 2 ^ 128 - 1, dirty, data := List.replicate 128 7, ctx := 4096, va := 0x3000, pinned := false }
def lState (dirty : Nat) : State := eState { Cluster.reset with l1 := [(0x60, l1Line dirty)], tlb := [tEntry] }
def xState (l : L2Line) : State := { State.reset with l2 := [(setKey (0x60 * 128), [l])] }
def tL2 : L2Line := { line := 0x60, far := none, way := 0, dirty := true, data := [], rel := none }
/-- A gang whose thread 0 has read the host window, thread 1 waits in `fence.sc` and a load of thread 2 is ready to be performed. -/
def memGang : Gang :=
  ((tGang.updLanes [0] fun _ t => { t with hostWrote := some 1, wait := some (.flushing false) }).updLanes [1] fun _ t =>
    { t with wait := some (.fenceSc 0 0 (some 0)) }).addOp (.ld (fd 0 8 24 0)) tIssue [2] [.ld]
      [{ lane := 2, va := 0x3000, data := 0, cmp := 0, st := .ready none 0x3000 0 false }] [8] [] 0 false
def memState : State := { eState (tCluster memGang) with timeNs := 5000, timeLocked := true }

theorem witness_MemoryEvents :
    (State.reset.shut 128 = false ∧ (let k : Cluster := { Cluster.reset with drains := [3], bmCode := 1 }; k.bmCode = 1 ∧ k.drains.contains 3 = true ∧ k.l1 = [])) ∧
    ((lState 0).l1Find 0 0x60).map (·.dirty) = some 0 ∧
    (let m : MissReg := { line := 0x60, ctx := 4096, part := 0, ways := 0xFFFF, write := false, joined := [] }
     FMap.sorted [(0, m)] = true ∧ (m.write && bitsOf m.ways 0 32 == 0) = false ∧ (freeWay m.ways []).isSome = true) ∧
    (let w : SliceWait := { line := 0x60, write := false, ctx := 4096, part := 0, who := ⟨0, 0, 0, 0⟩ }
     let s : State := { State.reset with slices := [(1, { Slice.reset with waits := [w] })] }
     (∀ v ∈ (s.slice 1).waits, (s.slice 1).accepts v = true ∧ s.l2Find none (v.line * 128) = none) ∧ (s.slice 1).freeReg = some 0 ∧
     (s.slice 1).waits.find? (fun w => !(s.slice 1).mrs.any fun m => m.2.line == w.line) = some w) ∧
    ((State.reset.slice 0).waits = []) ∧
    ((xState { tL2 with rel := some (0, 1) }).l2Find none (0x60 * 128) = some { tL2 with rel := some (0, 1) } ∧
      (xState { tL2 with promoted := [1] }).l2Find none (0x60 * 128) = some { tL2 with promoted := [1] }) ∧
    (memState.gang? 0 0 = some memGang ∧ (memGang.thread 0).hostWrote.isSome = true ∧ (memGang.thread 0).wait = some (.flushing false) ∧
      (memGang.thread 1).wait = some (.fenceSc 0 0 (some 0)) ∧ 0 + 32 ≤ memState.timeNs ∧ memState.timeLocked = true) ∧
    (let g := { memGang with engWrote := some 0 }.updLanes [0] fun _ t => { t with wait := some (.flushing true) }
     g.engWrote.isSome = true ∧ 0 ∈ g.liveLanes ∧ (g.thread 0).wait = some (.flushing true)) ∧
    (let t := fun n : Nat => { State.reset with timeNs := n }
     32 < (t 100).timeNs % 256 ∧ (t 256).timeNs % 256 ≤ 32 ∧ (t 256).beats ≠ (t 256).timeNs / 256 + 1 ∧
     ({ t 256 with beats := 2 } : State).beats = (t 256).timeNs / 256 + 1) ∧
    (inHbm 0x100 = true ∧ State.reset.exportSt.getD (0x100 / 128) 0 ≠ 2 ∧ Memory.wf State.reset.mem = true) ∧
    ((memGang.op? 0).isSome = true ∧ (memGang.op? 0).all fun o => match accOf o.instr with
      | some a => memState.countLanes 0 0 o a memGang.ctx == memState && ((memGang.readyLanes o a).map fun r => (r.far, r.line)).eraseDups.length == 1 &&
          o.lanes.all fun l => match l.st with | .ready _ pa _ _ => !inHost pa | _ => true
      | none => false) = true := by decide +kernel

/-- A promoting acquire of thread 2, ready at line 0x60, which cluster 0 released for function 1. -/
def promGang : Gang :=
  tGang.addOp (.ld (fd 0x1A 8 24 4)) tIssue [2] [.ld]
    [{ lane := 2, va := 0x3000, data := 0, cmp := 0, st := .ready none 0x3000 0 false }] [8] [] 0 false
def promState (L : L2Line) : State := { eState (tCluster promGang) with l2 := [(setKey (0x60 * 128), [L])] }

theorem witness_promotions :
    (let s := promState { tL2 with rel := some (0, 1) }
     (s.l2Find none (0x60 * 128)).map (·.rel) = some (some (0, 1)) ∧ (s.promote 0 1).2 = true ∧
     ((s.promoters 0x60).map (·.2)).eraseDups = [1]) ∧
    (let s := promState { tL2 with promoted := [1] }; (∀ r ∈ s.promoters 0x60, r.2 ∈ [1])) ∧
    (let s := promState { tL2 with promoted := [3] }; (∃ r ∈ s.promoters 0x60, r.2 ∉ [3])) := by decide +kernel

/-- A packet at the injection buffer of cluster 0's stop on its way to slice 1, refused for 40 cycles. -/
def tPkt : Packet :=
  { cls := 0, flits := 1, die := 0, x := 0, y := 0, toDie := 0, toX := 5, toY := 0, chan := 0, inp := 4, dev := false, blocked := 40
    busy := 0, order := 0, answer := none, who := ⟨0, 0, 0, 0⟩ }
def pktState (p : Packet) : State := { State.reset with net := [(0, p)], nextPkt := 1 }

theorem witness_torus :
    (pktState tPkt).net.find? 0 = some tPkt ∧ (pktState tPkt).pktHead tPkt = true ∧ tPkt.here ≠ tPkt.target ∧ tPkt.toDie = tPkt.die ∧ tPkt.die ≠ hDie ∧
    tPkt.here ≠ tPkt.final ∧ FMap.sorted (pktState tPkt).net = true ∧ max 1 ((pktState tPkt).torus.getD 0 (0x20, 0)).1 ≤ tPkt.blocked ∧
    escapeDir 0 0 5 0 = some 1 ∧ (pktState tPkt).linkBusy (tPkt.here.next 1) 1 = false ∧
    (pktState tPkt).inBuf (tPkt.here.next 1) 1 0 2 = 0 ∧ ({ tPkt with blocked := 3 } : Packet).blocked < 0x20 := by decide +kernel

theorem witness_writeback :
    (lState 0xFF).l1Find 0 0x60 = some (l1Line 0xFF) ∧
    ∃ s1 x s2, (lState 0xFF).translate 0 4096 0x3000 atWrite = (s1, .ok x) ∧ x.far = none ∧ inHbm x.pa = true ∧
      (s1.unitWaits 0 4096 (x.pa / 128) true (0xFF == fullMask)).2 = false ∧ s1.writeGate 0 4096 x.pa = (s2, .go) ∧ Memory.wf s2.mem = true := by
  refine ⟨by decide +kernel, _, tEntry.xlat 0x3000, _, Prod.ext rfl ?_, ?_, ?_, ?_, Prod.ext rfl ?_, ?_⟩ <;> decide +kernel
/-! Engines. -/

def tCmd (i : Instr) (args : List Nat) : Cmd :=
  { slot := 0, ctx := 4096, blk := 7, op := 0, iaddr := 0x100004, cmdseq := 0, instr := i, args, fpmode := 0, begun := false, done := 0
    entry := [], fault := none, asked := none }
def begun (c : Cmd) : Cmd := { c with begun := true }
/-- A chain of one operation of no cost: copy 16 single-precision numbers of memory to the scratchpad, from a descriptor at 0x8000. -/
def chainWords : List Nat := [1 + 2 ^ 18 + 16 * 2 ^ 32, 0x9000, 0, 0x100, 6] ++ List.replicate 11 0
def chCmd : Cmd := tCmd (.chain (fd 0 0 24 0)) [0x8000, 0]
def chState : State :=
  let s := eState { tCluster tGang with chainq := [chCmd] }
  { s with mem := writeBytes s.mem 0x8000 ((chainWords.map (toBytes 8)).flatten) }
def linCmd : Cmd := tCmd (.cpLin (fd 0 3 24 40)) [0x9000, 256, 0, 128]
def mmaLit : BitVec 32 := 0x00080C10
def mxCmd : Cmd := tCmd (.mxMma (fd 0 0 0 0) mmaLit) [0]
def mxCluster (c : Cmd) : Cluster := 
  { tCluster tGang with
    mxq := [c], arow := List.replicate 4 ⟨4096, 0, 1, false, 0, 0, [], []⟩
    units8 := List.replicate 8 ⟨some 4096, 1, false, 0, 0, 0, [], []⟩ }

theorem witness_copies :
    ((eState (tCluster tGang)).cmdReady 0 linCmd = true ∧ linDir (fd 0 3 24 40) = 0 ∧ linBar (fd 0 3 24 40) = false ∧
      (begun linCmd).free (eState (tCluster tGang)) = true) ∧
    (let c := tCmd (.cpTile (fd 0 3 24 40)) [0, 0, 0, 1, 16, 64]
     let s := eState { tCluster tGang with tids := [(4096 * 64, [0x10000, 0, 0x0000004000100010, 1])] }
     (s.cluster 0).tileBad c (tileBar (fd 0 3 24 40)) (s.cmdBlock 0 c).2 = none ∧ s.cmdReady 0 c = true) ∧
    (∃ s1 bs, engRead (eState (tCluster tGang)) (linCmd.engOf (eState (tCluster tGang)) 0 2) 0x9000 (stepLen 0x9000 128) = (s1, .inl bs)) := by
  refine ⟨by decide +kernel, by decide +kernel, _, List.replicate 128 0, Prod.ext rfl ?_⟩
  decide +kernel

theorem witness_chains :
    (engRead chState (chCmd.engOf chState 0 3) 0x8000 128).2 = .inl (chainWords.map (toBytes 8)).flatten ∧
    ((engRead chState (chCmd.engOf chState 0 3) 0x8000 128).1.cmdBlock 0 chCmd).2 = 4096 ∧ chState.cmdReady 0 chCmd = true ∧ chCmd.free chState = true ∧
    badChain chainWords = false ∧ (chainA chainWords).beyond 16 4096 = false ∧ (chainD chainWords).beyond 16 4096 = false ∧
    usesB chainWords = false ∧ chainCount chainWords = 16 ∧
    (let c := { begun chCmd with entry := chainWords }
     (readStream chState 0 c (chainA chainWords) 0).2 = .inl 0 ∧
       (writeStream (readStream chState 0 c (chainA chainWords) 0).1 0 c (chainD chainWords) 0 (chainValue 0 chainWords 0 0).v).2 = none) := by decide +kernel

theorem witness_EngineEvents :
    (let s := eState (mxCluster mxCmd)
     s.cmdReady 0 mxCmd = true ∧ ((s.cluster 0).rowWait.any fun w => mxCmd.unitsOf.contains w.unit) = false ∧
       (s.cluster 0).badTensor mxCmd = false ∧ (s.cluster 0).desync mxCmd = false ∧ (begun mxCmd).free s = true ∧
       (mmaOf mmaLit).acc = false ∧ (mmaOf mmaLit).q = false) ∧
    (let w : RowWait := { q := 1, unit := 0, words := [], row := 0, slot := 0, op := 0 }
     let k : Cluster := { Cluster.reset with rowWait := [w] }
     k.rowWait.find? (·.q == 1) = some w ∧ (k.rowqs.getD 1 (none, [])).2.length < 16 ∧ 1 < k.rowqs.length) := by decide +kernel

/-! The fabric. -/

def tSent : RemoteSent :=
  { cl := 0, slot := 0, op := 0, lanes := [2], far := 9, pa := 0x3000, plane := 0, port := 0, store := false, ctx := 4096, sentNs := 0
    noCopy := false, reply := 1, mt := 1, resent := false }
def sentGang (i : Instr) : Gang :=
  tGang.addOp i tIssue [2] [.ld] [{ lane := 2, va := 0x3000, data := 0, cmp := 0, st := .remote 4 }] [] [] 0 false
def sentState (i : Instr) : State := { eState (tCluster (sentGang i)) with remotes := [(4, tSent)], timeNs := 10 ^ 9, ports := 2, portSt := [(1, { PortSt.reset with credit := 8 })] }
def rRead : RemoteReq := { src := 9, tag := 1, dom := 0, stamp := 0, pa := 0x3000, op := .write [1, 2] 3 }
def livePort : PortSt := { PortSt.reset with keyed := true, queued := 8 }
def portState (p : PortSt) : State := { State.reset with ports := 2, portSt := [(1, p)], timeNs := 10 ^ 12 }
def slotBytes (h : Nat) : List Byte := let b := toBytes 4 h ++ List.replicate 248 0; b ++ toBytes 4 (crc32 b)

/-- The package after reset with 8 quarters at hand that slots brought. -/
def credited : State := { State.reset with ports := 0xFFFF, portSt := [(1, { PortSt.reset with credit := 8 })] }
/-- An instruction fetch's read of a line of package 9. -/
def tAsk : FarAsk := { cl := 0, x := 4096, eng := 1, write := false, pkg := 9, pa := 0x3000, n := 128 }
def unitState : State := { sentState (.ld (fd 0 8 24 0)) with remotes := [(4, { tSent with unit := some tAsk })] }
/-- A request with room to be re-sent: port 1 has gone down and waits to retrain, port 0 is up. -/
def downState (rs : FMap RemoteSent) : State :=
  { State.reset with timeNs := 10 ^ 9, ports := 1, portSt := [(1, { PortSt.reset with retrain := true })], remotes := rs }

theorem witness_FabricEvents :
    (∀ i ∈ [Instr.ld (fd 0 8 24 0), .st (fd 0 8 24 0)],
      (sentState i).remotes.find? 4 = some tSent ∧ tSent.unit = none ∧
      (match (sentState i).takeCredit tSent.reply with
        | none => false
        | some s0 => ((((s0.merge 0).chargeReply tSent tSent.reply).dropSent 4 tSent).sentGroup 4 tSent).isSome) = true ∧
      (((((sentState i).merge 0).chargeReply tSent 1).dropSent 4 tSent).sentGroup 4 tSent).isSome = true ∧
      (((sentState i).dropSent 4 tSent).sentGroup 4 tSent).isSome = true ∧ ((sentState i).takeCredit 1).isSome = true ∧
      tSent.sentNs + (sentState i).fabTimeout ≤ (sentState i).timeNs) ∧
    (((sentState (.st (fd 0 8 24 0))).dropSent 4 tSent).sentGroup 4 tSent).all (fun G => G.a.kind == .store) = true ∧
    (unitState.remotes.find? 4).map (·.unit) = some (some tAsk) ∧ (State.reset.takeCredit 1).isNone = true ∧
    (credited.admits rRead = false ∧ (credited.portOf rRead.src rRead.pa).isSome = true ∧ (credited.takeCredit (reqQuarters rRead.op)).isSome = true ∧
      (let s : State := { credited with exports := [(3, 2 ^ 39 - 1)] }
       s.admits rRead = true ∧ (s.portOf rRead.src rRead.pa).isSome = true ∧ s.tagBit.getD (rRead.pa / 128) false = false ∧ s.heldReqs = [] ∧
       (s.unitWaits 0 nobody (rRead.pa / 128) true false).2 = false)) ∧
    (let s : State := { credited with exportInv := [5], invSent := [5] }; 5 ∈ s.exportInv ∧ 5 ∈ s.invSent ∧ (credited.takeCredit 1).isSome = true) ∧
    (let s : State := { credited with exportSt := [(5, 2)], recalls := [(5, true)] }; s.exportSt.getD 5 0 = 2 ∧ s.recalls.getD 5 false = true ∧ s.heldWrites = [] ∧ (s.takeCredit 3).isSome = true ∧ s.readyAt 5 = []) := by decide +kernel

theorem witness_slots :
    ((portState livePort).carries 1 = true ∧ livePort.nak = false ∧ livePort.mgmtOut = false ∧ livePort.unsent = 0 ∧ 0 < livePort.queued ∧
      livePort.replay.length < 1024) ∧
    (∀ p ∈ [{ livePort with nak := true }, { livePort with mgmtOut := true }, { livePort with replay := [(0, [])], unsent := 1 },
      { livePort with queued := 0 }], (portState p).carries 1 = true) ∧
    (crc32 ((List.replicate 256 1 : List Byte).take 252) ≠ fromBytes ((List.replicate 256 1 : List Byte).drop 252)) ∧
    ((slotBytes 0).length = 256 ∧ crc32 ((slotBytes 0).take 252) = fromBytes ((slotBytes 0).drop 252) ∧
      fromBytes ((slotBytes 0).take 4) % 16 = 0 ∧ bitOf (fromBytes ((slotBytes 0).take 4)) 4 = false ∧
      bitsOf (fromBytes ((slotBytes 0).take 4)) 6 2 = 0 ∧
      bitsOf (fromBytes ((slotBytes 0).take 4)) 5 1 = livePort.epochAt livePort.rxCtr % 2 ∧
      bitsOf (fromBytes ((slotBytes 0).take 4)) 20 12 = livePort.rxSeq) ∧
    (let s := portState { livePort with replay := [(0, [])] }
     s.carries 1 = true ∧ (s.port 1).ackNs + 4000 ≤ s.timeNs ∧ (s.port 1).replay ≠ [] ∧ (s.port 1).tries < 16 ∧
     16 ≤ ((portState { livePort with replay := [(0, [])], tries := 16 }).port 1).tries) ∧
    ((downState []).carries 1 = false ∧ ((downState []).port 1).retrain = true ∧
      ((downState []).port 1).downNs + (downState []).fabTimeout ≤ (downState []).timeNs ∧ (∀ e ∈ (downState []).remotes, e.2.port ≠ 1) ∧
      (let r : RemoteSent := { tSent with far := 0, pa := 0, port := 1 }
       (downState [(4, r)]).portOf r.far r.pa = some 0)) ∧
    (livePort.switchAt = none ∧ livePort.proposed = none ∧ livePort.keyNs + (portState livePort).keyPeriod ≤ (portState livePort).timeNs ∧
      (2 ^ 16) % 2 ^ 16 = 0 ∧ livePort.txCtr + 2 ^ 16 ≤ 2 ^ 16 ∧ livePort.rxCtr + 2 ^ 16 ≤ 2 ^ 16) := by decide +kernel

/-! Consignments. -/

def slotGang (st : Nat) : Gang := { tGang with slots := tGang.slots.set 0 ⟨st, 2 ^ 13, 3, [], [], 5⟩ }
def csState (st : Nat) : State := stateOf (slotGang st)

/-- Function 0 with record 3 sealed at 9 for the package's own identifier and a notice due to this package. -/
def noticeState : State :=
  { State.reset with
    funcs := [(csgVf 8192, { Func.reset with vstoreBase := 0x40000001, vstoreGeom := 0x0001000100010000, notices := [(3, [State.reset.pkgId, 9], false, 4096)] })]
    mem := writeBytes (writeBytes [] (({ Func.reset with vstoreBase := 0x40000001, vstoreGeom := 0x0001000100010000 } : Func).recAt 3)
      (toBytes 8 (2 ^ 48 + 8192))) (({ Func.reset with vstoreBase := 0x40000001, vstoreGeom := 0x0001000100010000 } : Func).recAt 3 + 8) (toBytes 8 9) }

/-- A consignment store of thread 2 whose line has been counted. -/
def csgGang : Gang :=
  tGang.addOp (.stcsg (fd 0 8 24 0)) tIssue [2] [.st]
    [{ lane := 2, va := 0x3000, data := 0, cmp := 1, st := .ready none 0x3000 0 true }] [] [] 0 false

/-- A sealed tag at the head of function 1's version store. -/
def tagState : State :=
  let s : State := { State.reset with funcs := [(1, { Func.reset with vstoreGeom := 0x100000000000001, vstoreBase := 1, viewLwm := 100 })] }
  { s with mem := writeBytes [] ((s.func 1).vBase) (toBytes 8 (2 * 2 ^ 48 + 8192) ++ toBytes 8 5 ++ toBytes 8 0 ++ toBytes 8 0) }

theorem witness_ConsignmentEvents :
    ((csgGang.op? 0).isSome = true ∧ (csgGang.op? 0).all fun o => match accOf o.instr with
      | some a => (stateOf csgGang).countLanes 0 0 o a csgGang.ctx == stateOf csgGang &&
          ((csgGang.readyLanes o a).map fun r => (r.far, r.line)).eraseDups.length == 1
      | none => false) = true ∧
    (∀ st ∈ [2, 3, 4], (csState st).gang? 0 0 = some (slotGang st) ∧ ((slotGang st).slotAt 0).st = st ∧ (slotGang st).csgDone 0 = true ∧
      (csState st).csgExported ((slotGang st).slotAt 0) = false ∧ ((csState st).abortWaits 0 4096 ((slotGang st).slotAt 0)).2 = false ∧
      ((csState st).unitWaits 0 4096 (((csState st).func (csgVf (2 ^ 13))).recAt 3 / 128) true false).2 = false ∧
      Memory.wf (csState st).mem = true ∧ (csState st).noticeOf (csgVf 8192) 3 = none) ∧
    (noticeState.noticeOf (csgVf 8192) 3 = some ([State.reset.pkgId, 9], false, 4096) ∧ (noticeState.sealRec 8192 3).st = 1 ∧
      (noticeState.sealRec 8192 3).csgid = 8192 ∧ (noticeState.tagsWait 8192).2 = false) ∧
    csgPkg 8192 = State.reset.pkgId ∧ csgPkg (8192 + 9 * 2 ^ 38) ≠ State.reset.pkgId ∧ (credited.takeCredit 1).isSome = true ∧
    ((credited.portOf 9 0).isSome = true ∧ (credited.tagsWait (8192 + 9 * 2 ^ 38)).2 = false ∧
      (State.linesWait 0 nobody (credited.restoreNeeds (8192 + 9 * 2 ^ 38)) credited).2 = false ∧
      (credited.portOf 9 ((credited.func 1).recAt 3)).isSome = true ∧
      (credited.unitWaits 0 nobody ((credited.func 1).recAt 3 / 128) false false).2 = false) ∧
    ([9, 10].filter (· != 9) = [10] ∧ [9].filter (· != 9) = []) ∧
    (let s : State := { credited with asks := [(5, 8192, 0)] }
     s.asks.find? (·.1 == 5) = some (5, 8192, 0) ∧ s.parkedOps 5 = [] ∧ s.heldReqs = []) ∧
    ((0 : Nat) ∈ State.reset.domains) ∧
    (let s : State := { State.reset with funcs := [(1, { Func.reset with vstoreGeom := 0x100000000000001, vstoreBase := 1 })] }
     (s.func 1).vOn = true ∧ 0 < (s.func 1).tagPages * 8192 ∧ (s.tagAt 1 ((s.func 1).vBase)).st ≠ 2) ∧
    (tagState.tagAway (tagState.tagAt 1 (tagState.func 1).vBase) = false ∧
      (let s := { tagState with exportSt := [((tagState.tagAt 1 (tagState.func 1).vBase).addr / 128, 2)] }
       s.tagAway (tagState.tagAt 1 (tagState.func 1).vBase) = true) ∧
      (tagState.tagAt 1 (tagState.func 1).vBase).st = 2 ∧ (tagState.tagAt 1 (tagState.func 1).vBase).sealT ≤ (tagState.func 1).viewLwm.toNat) := by
  decide +kernel

/-- Some live port carries every line of every package when all ports are up, and the least member is the package itself when its number is 0. -/
theorem portOf_allUp (s : State) (h : s.ports = 0xFFFF) (pkg pa : Nat) : (s.portOf pkg pa).isSome = true := by
  have hp : planeOf pkg pa < 4 := by
    unfold planeOf bitsOf
    exact Nat.xor_lt_two_pow (n := 2) (Nat.xor_lt_two_pow (n := 2) (by omega) (by omega)) (by omega)
  unfold State.portOf
  rw [List.find?_isSome]
  refine ⟨4 * planeOf pkg pa + (bitsOf pa 13 2 ^^^ bitsOf pa 15 2) % 4, List.mem_map.mpr ⟨0, by simp, by simp⟩, ?_⟩
  have : ∀ k < 16, bitOf 0xFFFF k = true := by decide
  rw [h]; exact this _ (by omega)

theorem witness_domains : (0 : Nat) ∈ credited.domains ∧ leastOf credited.pkgId (credited.membersOf 0) = credited.pkgId ∧
    (credited.portOf (leastOf credited.pkgId (credited.membersOf 0)) 0).isSome = true ∧
    (∀ p ∈ credited.membersOf 0, (credited.portOf p 0).isSome = true) ∧
    (∀ p ∈ credited.capMates, (credited.portOf p 0).isSome = true) := by
  have least : ∀ ns : List Nat, ns.foldl Nat.min 0 = 0 := fun ns => by
    induction ns with
    | nil => rfl
    | cons n ns ih => simpa using ih
  have hp : credited.pkgId = 0 := by decide
  have hm : credited.membersOf 0 = 0 :: (Config.members 0).filter (· != 0) := by
    unfold State.membersOf
    rw [hp, if_pos (by decide +kernel)]; rfl
  exact ⟨by decide +kernel, by rw [hm, hp]; exact least _, portOf_allUp _ rfl _ _, fun p _ => portOf_allUp _ rfl p _,
    fun p _ => portOf_allUp _ rfl p _⟩
/-! Queues. -/

def hdrWords : List Nat := [1, 1, 2 ^ 32 + 2 ^ 48, 0, 0, 0, 0, 0, 0x100000, 0x42, 0, 0, 0, 0, 0, 0]
def tEntry0 : Entry := { seq := 3, typ := 0, hdr := 0x8000, depAddr := 0, depVal := 0, compAddr := 0, compInc := 0 }
def depEntry (va : Nat) : Entry := { tEntry0 with typ := 1, hdr := 0, depAddr := va, depVal := 5 }
def hdrState (e : Option Entry) : State :=
  let s := qState { qOn with entry := e }
  { s with mem := writeBytes s.mem 0x8000 ((hdrWords.map (toBytes 8)).flatten) }
/-- A signal entry with SEQ 3 in the ring. -/
def sigState (w0 : Nat) : State := let s := qState qOn; { s with mem := writeBytes s.mem 0x4000 (toBytes 8 w0) }
def doneLaunch : Launch :=
  { ctx := 524288, queue := 0, seq := 0, compAddr := 0, compInc := 0, coop := true, gridX := 1, gridY := 1, gridZ := 1
    accRows := 64, scratch := 4096, fifomask := 0, depth := 16, cbase := 0, csize := 0, roles := [tRole]
    acq := false, member := [], placed := 1, ended := 1, clusters := [0], arrived := 0, phase := 0, since := 0
    waited := false, lost := 0, fault := none }
def waitLaunch : Launch := { doneLaunch with placed := 0, ended := 0, since := 1 }

theorem witness_QueueEvents :
    State.reset.shut 1 = false ∧ qOn.waiting = [] ∧ qOn.on = true ∧ qOn.launch = none ∧ Queue.reset.on = false ∧
    (∃ n, ((hdrState (some tEntry0)).judgeHeader 524288 0 tEntry0).2 = .val (.inl n)) ∧
    ((hdrState none).judgeHeader 524288 0 { tEntry0 with hdr := 8 }).2 = .val (.inr 4) ∧
    (((sigState (3 * 2 ^ 32 + 0x100)).consume 128 0).2 = some [3 * 2 ^ 32 + 0x100, 0, 0, 0, 0, 0, 0, 0] ∧
      entryBad [3 * 2 ^ 32 + 0x100, 0, 0, 0, 0, 0, 0, 0] = false ∧ (entryOf [3 * 2 ^ 32 + 0x100, 0, 0, 0, 0, 0, 0, 0]).typ = 1 ∧
      entryBad [0x101, 0, 0, 0, 0, 0, 0, 0] = true ∧ (entryOf [0x101, 0, 0, 0, 0, 0, 0, 0]).typ = 1) ∧
    (((hdrState none).qRead 524288 0x8000 8).2 = .val (toBytes 8 1) ∧ ((hdrState none).qRead 524288 (2 ^ 40) 8).2 = .fault) ∧
    (let s : State := { qState qOn with launches := [(4, doneLaunch)] }
     s.launches.search (s.canFinish 128 0) = some (4, doneLaunch) ∧ (s.flushCluster 4 0 524288).2 = true ∧
       (s.flushCluster 4 0 524288).1.exportInv = [] ∧ (s.flushCluster 4 0 524288).1.wbAway 524288 = false ∧
       ((s.flushCluster 4 0 524288).1.giveUpAway 4 524288).launches.find? 4 = some doneLaunch) ∧
    (let s : State := { qState qOn with launches := [(4, waitLaunch)], timeNs := 1000000 }
     (∀ x ∈ s.ctxs, x.2.stopped = false) ∧ s.firstCtx ((s.ctxs.map (·.1)).filter s.eligibleCtx) = some 524288 ∧
       waitLaunch.ctx = ctxOf 128 0 ∧ waitLaunch.placed = 0 ∧ waitLaunch.since + 1000000 ≤ s.timeNs + 1) ∧
    (let s : State := { State.reset with
       timeNs := 10 ^ 9
       ctxs := [(4096, { eCtx with level := -1000 }), (8192, { eCtx with st := 1 })], launches := [(4, { waitLaunch with ctx := 8192 })] }
     (s.ctxs.map (·.1)).filter s.unfair = [4096]) ∧
    (let s : State := { State.reset with wakes := [1, 2] }; s.batch = [] ∧ s.wakes ≠ [] ∧ s.batchNs ≤ s.timeNs) ∧
    (let s : State := { State.reset with batch := [3] }; s.batch = 3 :: [] ∧ s.batchStep = none ∧ s.admitNs ≤ s.timeNs ∧
      ({ s with admitNs := 5 } : State).timeNs < ({ s with admitNs := 5 } : State).admitNs) := by
  refine ⟨?_, ?_, ?_, ?_, ?_, ⟨{ hdrLaunch 524288 0 tEntry0 hdrWords [] with member := [] }, ?_⟩, ?_, ?_, ?_, ?_, ?_, ?_, ?_, ?_⟩ <;> decide +kernel

/-! Energy and power. -/

theorem witness_EnergyEvents :
    FMap.sorted (eState Cluster.reset).ctxs = true ∧ (eState Cluster.reset).ctxs.find? 4096 = some eCtx ∧
    (let s : State := { State.reset with timeNs := 10 ^ 9 }; s.power.windowNs + s.power.windowLen ≤ s.timeNs) ∧
    (∀ c ∈ State.reset.ctxs, c.2.uncore = 0) ∧ State.reset.shut 1 = false ∧
    (∀ c ∈ ({ State.reset with ctxs := [(4096, { eCtx with st := 3 })] } : State).ctxs, fnOf c.1 = 1 → c.2.st ≠ 2) ∧
    (let s : State := { State.reset with timeNs := 10 ^ 9 }
     (State.reset.timeNs - (State.reset.func 1).periodNs) / (State.reset.func 1).periodLen = 0 ∧
     (s.timeNs - (s.func 1).periodNs) / (s.func 1).periodLen ≠ 0) ∧
    (let p : Part := { Part.reset with raw := 5 }; p.raw ≠ 0) := by decide +kernel

def pState (op phase dest : Nat) : State := { State.reset with parts := [(0, { Part.reset with op, phase, dest })], timeNs := 10 ^ 9 }
def gState : State :=
  { State.reset with
    timeNs := 10 ^ 9
    power := { State.reset.power with capCtl := BitVec.ofNat 64 (2 ^ 63 + 2 ^ 30), demands := [⟨0, 0, 900, 10 ^ 9⟩], applied := some 3 } }

theorem witness_PowerEvents :
    (let s := pState 12 0 12; min (s.target 0) (s.ceiling 0) < (s.part 0).op) ∧
    (let s := pState 1 0 1; (s.part 0).op < min (s.target 0) (s.ceiling 0)) ∧
    State.reset.stepStart 0 = none ∧ (({ pState 1 0 1 with power := { State.reset.power with stepCtl := 0x8000000100040000 } } : State).stepStart 100).isSome = true ∧
    ((pState 1 3 4).part 0).op < ((pState 1 3 4).part 0).dest ∧ ((pState 4 3 1).part 0).dest ≤ ((pState 4 3 1).part 0).op ∧
    ((pState 1 1 4).part 0).stepNs ≤ (pState 1 1 4).timeNs ∧
    (let s := pState 1 1 2; (s.part 0).stepNs ≤ s.timeNs ∧ min (s.target 0) (s.ceiling 0) = (s.part 0).dest) ∧
    (let s := pState 1 1 4; min (s.target 0) (s.ceiling 0) ≠ (s.part 0).dest) ∧
    (let s := pState 4 1 6; let d := min (s.target 0) (s.ceiling 0); d ≠ (s.part 0).dest ∧ (d < (s.part 0).op ∨ d = (s.part 0).op)) ∧
    (let s := pState 1 1 6; let d := min (s.target 0) (s.ceiling 0); d ≠ (s.part 0).dest) ∧
    (let s : State := { State.reset with batchStep := some 0 }; s.batchStep = some 0 ∧ 0 ≤ s.timeNs) ∧
    (let s : State := { State.reset with funcs := [(128, { Func.reset with msixMask := 0 })] }
     bitOf s.alarm.toNat 4 = false ∧ bitOf (s.func 128).msixMask 19 = false) ∧
    (State.reset.powerLimit < 4000 ∧ 100 * 1000 < 95 * State.reset.powerLimit) ∧
    (gState.power.on = true ∧ gState.leaderNow = some gState.pkgId ∧ gState.power.leader ≠ some 0 ∧ gState.power.applied = some 3 ∧
      (let s := { gState with ports := 0xFFFF }; s.leaderNow = some s.pkgId ∧ (grants s.power.rackCap s.liveDemands).all fun g => (s.portOf g.1 0).isSome) = true ∧
      periodOf gState.power.capNs + 4 ≤ periodOf gState.timeNs) ∧
    (let ds : List Demand := [⟨0, 500, 2000, 0⟩, ⟨1, 500, 1000, 0⟩]
     (∀ d ∈ ds, d.floor ≤ d.demand) ∧ (ds.map (·.floor)).sum ≤ 2000) := by decide +kernel

/-! The supervisor and the host. -/

def tRec : TrapRec := { cls := clsBreakpoint, gang := 0, ctxid := 0, vf := 0, pfn := false }
def rTrap : TrapRec := { tRec with cls := 3 }
def haltGang : Gang := { tGang with halt := true }
/-- A context of the physical function whose descriptor names a handler of class 3. -/
def uhState (h : Nat) : State :=
  { State.reset with
    ctxs := [(524288, eCtx)], clusters := [(0, { Cluster.reset with ring := [{ rTrap with pfn := true, gone := true }] })]
    funcs := [(128, { Func.reset with ctxTbl := 0x10001 })] }.store (0x10000 + 8 * 12) (toBytes 8 h)
def tHandler : Handler := { slot := 0, record := rTrap, gang := handlerGang 4096 0 0x100000, mem := [], began := 0, verdict := none }
def savedState (st : Nat) (l : Option Nat) (saved : List SavedCluster) : State :=
  { State.reset with
    ctxs := [(524288, { eCtx with st, leaving := l, saved })], parts := [(0, ePart)]
    funcs := [(128, { Func.reset with ctxTbl := 0x10001, parts := 1 })] }.store (0x10000 + 48) (toBytes 8 0x100000)
def tSaved : SavedCluster := { cl := 0, tids := [], units := [], arow := [], fifos := [], chans := [], blocks := [], copies := [], chains := [] }

theorem witness_SupervisorEvents :
    (({ Cluster.reset with handler := some tHandler } : Cluster).handler ≠ none) ∧
    (let k : Cluster := { Cluster.reset with held := [tRec] }; k.held = tRec :: [] ∧ k.ring.length < 256) ∧
    (bitOf (2 : Nat) 1 = true ∧ bitOf (0 : Nat) 1 = false ∧ (tCluster tGang).gangs.find? 0 = some tGang) ∧
    (Cluster.reset.gangs.find? (dbgSelOf 0).slot = none ∧ tGang.halt = false ∧ haltGang.halt = true ∧ haltGang.dbgRange (dbgSelOf 127) = true ∧
      haltGang.dbgRange (dbgSelOf 128) = false ∧ (dbgSelOf 127).space = 0 ∧ (haltGang.thread 0).unsettled.has 127 = false ∧
      ((haltGang.updLanes [0] fun _ t => { t with unsettled := [(127, 0)] }).thread 0).unsettled.has 127 = true) ∧
    (let r := { rTrap with pfn := true, gone := true }
     ((uhState 0).cluster 0).handler = none ∧ ((uhState 0).cluster 0).taken ++ ((uhState 0).cluster 0).ring = r :: [] ∧ (uhState 0).liveRecord 0 r = true ∧ r.isComparator = false ∧
       (uhState 0).handlerOf r.ctx r.cls = 0 ∧ (uhState 0x4000).handlerOf r.ctx r.cls = 0x4000) ∧
    (tHandler.verdict = none ∧ tHandler.began + 1000000 ≤ 10 ^ 9) ∧
    (((savedState 2 none []).ctx (128 * 4096 + 0 % 4096)).st = 2 ∧ ((savedState 2 none []).ctx 524288).leaving = none ∧
      (savedState 2 (some 1) []).settledCtx 524288 = true ∧
      (let s1 := ((savedState 2 (some 1) []).flushRows 524288).abandon 524288
       saveSize [] (s1.responseRoom 524288) ≤ s1.desc 524288 6 % 2 ^ 32 ∧
       ¬ saveSize (List.replicate 200 tSaved) 0 ≤ s1.desc 524288 6 % 2 ^ 32 ∧
       (({ s1 with fresh := s1.fresh + 1 } : State).swapArea 0 524288 (saveSize [] (s1.responseRoom 524288)) true).2 = .val ())) ∧
    (((savedState 3 none [tSaved]).ctx 524288).st = 3 ∧ ((savedState 3 none [tSaved]).ctx 524288).stopped = false ∧
      (State.placeSaved 524288 [tSaved] [] (((savedState 3 none [tSaved]).sampleRoots 524288).becomeResident 524288)).isSome = true ∧
      (let s0 := (savedState 3 none [tSaved]).sampleRoots 524288
       (s0.swapArea 0 524288 (saveSize [tSaved] (s0.responseRoom 524288)) false).2 = .val ())) ∧
    (State.reset.reaches 128 0 = true ∧ State.reset.shut 128 = false ∧ (∀ op < 7, 1 ≤ op → cmdBad 128 (BitVec.ofNat 64 op) = false ∧
      cmdOp (BitVec.ofNat 64 op) = op) ∧ cmdBad 128 7 = true ∧ (State.reset.part 0 |>.resource 5).st = 0) ∧
    ((tCluster tGang).rowGang 0 = some (0, tGang)) ∧ State.reset.cycles % State.reset.samplePeriod 0 = 0 ∧ 1 % State.reset.samplePeriod 0 ≠ 0 ∧
    (let se : Session := { Session.reset with data := { SessData.reset with running := true } }
     se.data.running = true ∧ se.data.startNs + max 1 (se.data.cxCtl.toNat % 2 ^ 32) * 1000 ≤ 10 ^ 9) ∧
    (bitOf Hcu.reset.ctl.toNat 15 = false ∧ bitOf (0x8000 : Nat) 15 = true ∧ (0x8000 : Nat) % 16 ≤ 6) := by decide +kernel

def host (st : Nat) : State :=
  { State.reset with ctxs := if st = 0 then [] else [(4096, { eCtx with st })], funcs := [(1, { Func.reset with ctxTbl := 1 })] }
def mbx (owner : Nat) : State := { State.reset with mgmt := { State.reset.mgmt with owner }, timeNs := 10 ^ 10 }

theorem witness_HostEvents :
    ((host 0).shut 1 = false ∧ (host 0).selected 1 = 4096 ∧ ((host 0).ctx 4096).st = 0 ∧ ((host 0).func 1).tblOn = true ∧
      (host 0).badDesc 4096 = false ∧ (State.reset.func 1).tblOn = false ∧
      ({ host 0 with funcs := [(1, { Func.reset with ctxTbl := 1, staged := [(10, 3)] })] } : State).badDesc 4096 = true ∧
      ((host 1).ctx 4096).st = 1 ∧ (host 1).bound 4096 = false ∧ FMap.sorted (host 1).ctxs = true ∧ ((host 2).ctx 4096).st = 2 ∧
      descMask 0 ≠ 0 ∧ (4 : Nat) % 16 ≠ 0 ∧ 3 < (4 : Nat) % 16) ∧
    Memory.wf State.reset.mem = true ∧ State.reset.portShut .host = false ∧ State.reset.portShut .oob = false ∧
    (State.reset.mgmt.owner = 0 ∧ State.reset.mgmt.last ≠ portCode .host) ∧
    ((mbx 1).mgmt.owner ≠ 0 ∧ (mbx 1).mgmt.semNs + max 1 (mbx 1).mgmt.tmo * 1000000 ≤ (mbx 1).timeNs) ∧
    (mbxBad 0x101 = true ∧ State.reset.mbxStop .host 0x10 = some 2 ∧ State.reset.mbxStop .host 0x01 = none ∧
      (∀ op ∈ [0x10, 0x11, 0x12, 0x20], (mbx (portCode .host)).mbxStop .host (BitVec.ofNat 64 op) = none ∧ mbxOp (BitVec.ofNat 64 op) = op) ∧
      (∀ op ∈ [0x01, 0x02, 0x03, 0x13], State.reset.mbxStop .host (BitVec.ofNat 64 op) = none ∧ mbxOp (BitVec.ofNat 64 op) = op)) ∧
    ((State.reset.func 1).xlPend = none ∧ (State.reset.func 1).xcOn = false) ∧
    (let s : State := { eState Cluster.reset with xlQueue := [128], funcs := [(128, { Func.reset with xlPend := some 0, xlSrc := 0x8000, xlSlen := 8 })] }
     (s.func 128).xlPend ≠ none ∧ 128 ∈ s.xlQueue.take 4 ∧ 128 ∉ [1, 2, 3, 4, 128].take 4 ∧ (let r := s.xlAccess 128 (readPieces (fun s q => s.gpaRead1 0 (128 * 4096) q) none (linePieces 0x8000 8))
      r.2 = .val (List.replicate 8 0)) ∧ asmText (List.replicate 8 0) = none) ∧
    (let s : State := { State.reset with funcs := [(1, { Func.reset with flr := true })] }
     s.closed 1 0x940 = true ∧ State.reset.closed 1 0x940 = false ∧ State.reset.closed 128 0x460000 = false) := by decide +kernel

/-- The handler's own issue. -/
def hcIssue : Issue := { tIssue with slot := handlerSlot, lanes := [0], scalar := true }
def hTrapState : State := { withCluster { Cluster.reset with handler := some tHandler } with cur := some hcIssue }
theorem witness_HandlerTraps :
    hcIssue.scalar = true ∧ (hTrapState.cluster 0).handler.isSome = true ∧ hTrapState.cur = some hcIssue ∧
    hTrapState.issGang? hcIssue = some tHandler.gang ∧ (ctxtOf hcIssue tHandler.gang (fd 0 0 0 5)).act ≠ [] ∧
    (judgeOperands (ctxtOf hcIssue tHandler.gang (fd 0 0 0 5)) (shape (.trap (fd 0 0 0 5)))).isNone = true ∧
    (judgeOperands (ctxtOf hcIssue tHandler.gang (fd 0 0 0 5)) (shape (.brk (fd 0 0 0 5)))).isNone = true := by decide +kernel
theorem witness_TypedResults : (7 : Nat) < 8 := by decide
/-! ## Results: the manual's worked examples -/

/-- The gang after an instruction, and a register of a lane. -/
def runOn (i : Instr) (g : Gang) : Gang :=
  match exec i { stateOf g with parts := [(0, ePart)] } with
  | .next t => (t.issGang? tIssue).getD tGang
  | _ => tGang
def out (i : Instr) (g : Gang) (l n : Nat) : Nat := ((runOn i g).thread l).reg n
/-- Registers that depend on the lane. -/
def lanes (r : Nat) (v : Nat → Nat) (g : Gang) : Gang := g.updLanes (List.range 32) fun l t => t.setReg r (v l)
def preds (p : Nat) (v : Nat → Bool) (g : Gang) : Gang := g.updLanes (List.range 32) fun l t => t.setPred p (v l)
/-- The threads of some lanes issue. -/
def only (ls : List Nat) (i : Instr) (g : Gang) : Gang :=
  match exec i { stateOf g with cur := some { tIssue with lanes := ls }, parts := [(0, ePart)] } with
  | .next t => (t.issGang? tIssue).getD tGang
  | _ => tGang

/-- 11, R263: the sum of two pairs; the carry of the low words is p1. CIE is AUX bit 10, CIP bits 9:7, COP bits 6:4. -/
theorem test_addc :
    (let g := runOn (.addc (fd 0x10 8 4 6)) (regs [(4, 0xFFFFFFFF), (6, 1), (5, 2), (7, 3)] tGang)
     (g.thread 0).reg 8 = 0 ∧ (g.thread 0).pred 1 = true) ∧
    out (.addc (fd 0x480 9 5 7)) (preds 1 (fun _ => true) (regs [(5, 2), (7, 3)] tGang)) 0 9 = 6 := by decide +kernel
/-- 11, R265: a merge of a and b under a mask held in vd. -/
theorem test_lop3 : out (.lop3 (fd 0xCA 8 4 6)) (regs [(4, 0x11111111), (6, 0x22222222), (8, 0xFF00)] tGang) 0 8 = 0x22221122 := by decide +kernel
/-- 11, R266: with k = 32 the left shift gives a and the right one b. -/
theorem test_shf : [0, 8].map (fun d => out (.shf (fd (20 * 16 + d) 8 4 6)) (regs [(4, 7), (6, 9), (20, 40)] tGang) 0 8) = [7, 9] := by decide +kernel
/-- 11, R267. -/
theorem test_bfe :
    [0, 1].map (fun t => out (.bfe (fd (20 * 16 + t) 8 4 6)) (regs [(4, 0xF80), (6, 7), (20, 5)] tGang) 0 8) = [0x1F, 0xFFFFFFFF] := by decide +kernel
/-- 11, R269. -/
theorem test_div :
    [(7, 0xFFFFFFFE), (0xFFFFFFF9, 2), (5, 0), (0x80000000, 0xFFFFFFFF)].map (fun p => out (.div (fd 1 8 4 6)) (regs [(4, p.1), (6, p.2)] tGang) 0 8) =
    [0xFFFFFFFD, 0xFFFFFFFD, 0xFFFFFFFF, 0x80000000] := by decide +kernel
theorem test_rem :
    [(7, 0xFFFFFFFE), (0xFFFFFFF9, 2), (5, 0), (0x80000000, 0xFFFFFFFF)].map (fun p => out (.rem (fd 1 8 4 6)) (regs [(4, p.1), (6, p.2)] tGang) 0 8) =
    [1, 0xFFFFFFFF, 5, 0] := by decide +kernel
/-- 11, R270. -/
theorem test_pack :
    out (.pack (fd 0xB 8 4 6)) (regs [(4, 40000), (6, 0xFFFFFFFB)] tGang) 0 8 = 0xFFFB7FFF ∧
    out (.unpack (fd 0xB 8 4 0)) (regs [(4, 0xFFFB7FFF)] tGang) 0 8 = 0xFFFFFFFB := by decide +kernel
/-- 11, R272. -/
theorem test_lea :
    (let g := runOn (.lea (fd (3 * 16 + 8 + 2) 20 10 8)) (regs [(10, 0x40000000), (11, 0), (3, 0xFFFFFFFF)] tGang)
     (g.thread 0).reg 20 = 0x40000004 ∧ (g.thread 0).reg 21 = 0) := by decide +kernel
/-- 11, R276: the words of the example, run. -/
theorem test_compare_select :
    (let g := lanes 4 (fun l => if l = 0 then 0xFFFFFFFD else 7) (regs [(5, 2), (6, 10), (7, 20)] tGang)
     let g := runOn (.icmp (fd 0x21 2 4 5)) g
     (g.thread 0).pred 2 = true ∧ (g.thread 1).pred 2 = false ∧ out (.sel (fd 0x20 9 6 7)) g 0 9 = 10 ∧ out (.sel (fd 0x20 9 6 7)) g 1 9 = 20) := by
  decide +kernel
/-- 08, R204: `v4.rot(3)` in lane 5 reads lane 8, `xor(16)` lane 21, `mir(8)`, k = 3, lane 2. -/
theorem test_permutations :
    [Perm.rot 3, .xor 16, .mir 3].map (fun p => out (.mov { fd 0 8 4 0 with perm0 := p }) (lanes 4 (fun l => l) tGang) 5 8) = [8, 21, 2] := by
  decide +kernel
/-- 12, R287: `cvtf` with the SEED stepped once. -/
theorem test_cvtf :
    (let g := runOn (.cvtf (fd 0x18C 8 4 1)) ((regs [(4, 0x3F808000), (8, 0x1234)] tGang).updLanes (List.range 32) fun _ t => { t with seed := 1 })
     (g.thread 0).reg 8 = 0x3F801234 ∧ (g.thread 0).seed = 0x00042021 ∧ (runOn (.cvtf (fd 0x18C 8 4 1)) g).fpflags ≠ 0) := by decide +kernel
/-- 12, R298. -/
theorem test_rcp : out (.rcp (plain 7 3 0)) (regs [(3, 0x40400000)] tGang) 0 7 = 0x3EAAAAAB := by decide +kernel
/-- 12, R294: the block of R214 packed. -/
theorem test_tepack :
    (let g := runOn (.tepack (fd 0x10 8 16 0)) (regs [(16, 0x3FC00000), (17, 0xBF400000), (18, 0x3F000000), (19, 0x3E800000)] tGang)
     (g.thread 0).reg 8 = 0x02B3FE7F ∧ (g.thread 0).reg 9 = 0) := by decide +kernel
/-- 13, R229: the jet of x squared at 2. -/
theorem test_jmul :
    (let g := runOn (.jmul (plain 8 4 4)) { regs [(4, 0x40000000), (5, 0x3F800000), (6, 0), (7, 0)] tGang with jord := 2 }
     [8, 9, 10, 11].map (g.thread 0).reg = [0x40800000, 0x40800000, 0x3F800000, 0]) := by decide +kernel
/-- 15, R346: a cell of 8 reversed; a slide; a deal; the higher of two senders. -/
theorem test_shfl :
    (let a := lanes 4 (fun l => 10 + l) tGang
     let eight := List.range 8
     ((only eight (.shfl (fd 0xC 8 4 6)) (lanes 6 (fun l => 7 - l) a)).thread 0).reg 8 = 17 ∧
     (eight.map fun l => ((only eight (.shfl (fd 0xD 8 4 6)) (regs [(6, 2)] a)).thread l).reg 8) = [12, 13, 14, 15, 16, 17, 16, 17] ∧
     ((only eight (.shfl (fd 0xE 8 4 6)) (regs [(6, 1)] a)).thread 3).reg 8 = 11 ∧
     ([2, 5].map fun l => ((only [2, 5] (.shfl (fd 0xF 8 4 6)) (regs [(6, 2)] a)).thread l).reg 8) = [15, 15]) := by decide +kernel
/-- 15, R347. -/
theorem test_vote :
    (let g := preds 1 (fun l => l = 2 ∨ l = 5) tGang
     let m := [0, 2, 5]
     ((only m (.vote (fd 0 8 1 0)) g).thread 0).reg 8 = 0x24 ∧ ((only m (.vote (fd 1 8 1 0)) g).thread 2).reg 8 = 2 ∧
     ([1, 2, 3, 33].map fun k => ((only m (.vote (fd (k * 16 + 2) 3 1 0)) g).thread 0).pred 3) = [true, true, false, false] ∧
     ((only m (.vote (fd 3 3 1 0)) g).thread 0).pred 3 = false) := by decide +kernel
/-- 15, R348. -/
theorem test_scan :
    (let g := lanes 4 (fun l => if l = 0 then 3 else if l = 2 then 4 else 5) tGang
     let m := [0, 2, 5]
     (m.map fun l => ((only m (.scan (fd 0 8 4 0)) g).thread l).reg 8) = [3, 7, 12] ∧
     (m.map fun l => ((only m (.scan (fd 0x20 8 4 0)) g).thread l).reg 8) = [0, 3, 7]) := by decide +kernel
/-- 15, R344: a yielding thread waits past its own issue, which ends the yield of a thread whose next instruction lies elsewhere. -/
theorem test_yield :
    let waits := fun n => fun (_ : Nat) (t : Thread) => { t with wait := some (.yield n 9) }
    let g := only [0] (.yield (fd 0 0 0 0)) ((tGang.updLanes [1] (waits 0x300000)).updLanes [2] (waits 0x100004))
    (g.thread 0).wait.isSome = true ∧ (g.thread 1).wait.isSome = false ∧ (g.thread 2).wait.isSome = true := by decide +kernel
/-- 19, R448: grants. -/
theorem test_grants :
    (grants 7000 [⟨4, 1000, 3200, 0⟩, ⟨9, 1000, 2100, 0⟩, ⟨300, 1000, 2800, 0⟩]).map (·.2) = [2725, 1862, 2411] := by decide
/-- 01, R11: a lane's address and whether it is canonical. -/
theorem test_canonical : canonical 0x0100000000000000 = false ∧ canonical 0x00FFFFFFFFFFFFF0 = true := by decide
/-- 01, R29: bit 20 is set in a level-2 leaf. -/
theorem test_malformed : malformed 1 2 false 0x80100005 = true ∧ malformed 1 2 false 0x80000005 = false := by decide
/-- 01, R25: the worked walk's entries and its result. -/
theorem test_walk :
    let va := 0x00003A5C9E041230
    0x100000000 + 8 * tblIndex 1 va = 0x100000018 ∧ eNode 0x0000000100010003 + 8 * tblIndex 2 va = 0x10001A5C8 ∧
    eNode 0x0000000100020003 + 8 * tblIndex 3 va = 0x100023C08 ∧ leafOut 3 0x000000400C0000C5 va = 0x400C001230 := by decide +kernel
/-- 04, R84: the worked home slice. -/
theorem test_slice : homeSlice 0x400C001230 = 33 ∧ channelOff 0x400C001230 = 0x20060030 := by decide +kernel
/-- 10 to 16: worked lines and their words. -/
def asmOne (s : String) : Option (List Nat) :=
  (asmInstr ⟨[], 0, true⟩ 0 (txt s)).map fun r => r.2.2.map (·.toNat)
theorem test_asm_lane :
    asmOne "(p3)  add.n32   v8, v4.rot(3), v6" = some [0x06020206, 0x99180000] ∧ asmOne "movl v9, #1000" = some [0x0D224000, 0x3E8] ∧
    asmOne "sreg v10, %lane" = some [0x0D628000] ∧ asmOne "xset x1, #40, #16, #14" = some [0x10004000, 0x5020000E] := by
  decide +kernel
theorem test_asm_float : asmOne "cvtf.bf16.f32.sr.d1 v8, v4" = some [0x46020201, 0x18C] ∧
    asmOne "fma.f32.rdn v8, v4, v5, v6" = some [0x42620205, 0x63] := by decide +kernel
theorem test_asm_mem : asmOne "ld.g.b32.acq.dev.promote v8, (v10 + #16)" = some [0x82020504, 0x1A] ∧
    asmOne "st.s.sw5.b32 (v12 - #8), v3" = some [0x8600C67E, 0x4A] ∧ asmOne "st.s.b32 (v12 - #10), v3" = none := by decide +kernel
theorem test_asm_switch : asmOne "switch v4, #10, #12, #11" = some [0xB2C00200, 0x52, 0x120] ∧
    asmOne "mx.mma.q2 #16, #4, #0x08" = some [0xC0800000, 0x28080C10] := by decide +kernel
/-- 10, R252: a change of class and a label end a clause; R255: the words of the header template. -/
theorem test_asm_text :
    ((asmText ((txt (".kernel k\n.role 0, go, 2, none\n.regs 0, 24\n.text\ngo: ld.k.b64 v2, (v0) ; c\n exit\n.end\n")).map
      (BitVec.ofNat 8))).map fun b => (b.length, wordsOfBytes (b.take 20), (b.drop (20 + 64)).take 10)) =
      some (276, [0xB2084000, 0x82008000, 0x00000180, 0xB0044000, 0xB0E00000], [0, 0, 0, 0, 0, 0, 0, 0, 0x83, 0]) := by decide +kernel
/-- 10, R257: a clause directive is an error in portable text. -/
theorem test_asm_break : asmText ((txt ".break\n").map (BitVec.ofNat 8)) = none := by decide +kernel
/-- 10, R253, R255: data values are little-endian and `.float` rounds; 16, R352: a tensor template's words, with the constant offsets 8
and 16 of its parameters; 08, R192: a member-map entry of groups 1 and 2. -/
theorem test_asm_data :
    (asmObject ((txt (".kernel k\n.role 0, go, 2, none\n.regs 0, 24\n.param p, .b32\n.param q, .b64\n.param r, .b64\n.group 3, 1, 2\n" ++
      ".tensor 5, f4, 16, 64, 128, q, r, 1, 7\n.const\n.byte 1, 2\n.half 0x1234\n.align 8\n.dword -1\n.float 1.5f\n.text\ngo: exit\n.end\n")).map
      (BitVec.ofNat 8))).map (fun o => (o.const, (List.range 6).map fun i => fromBytes ((o.kd.drop (256 + 8 * i)).take 8))) =
      some ([1, 2, 0x34, 0x12, 0, 0, 0, 0, 0xFF, 0xFF, 0xFF, 0xFF, 0xFF, 0xFF, 0xFF, 0xFF, 0, 0, 0xC0, 0x3F],
        [8, 16, 16 + 64 * 2 ^ 16 + 128 * 2 ^ 32, 6 + 2 ^ 8 + 7 * 2 ^ 24, 3, 0x80028001]) := by decide +kernel

end Sys2Proof.Tests
end

section
/-! Invalid table entries (R28): the walk's one way to fail, the judgement of an entry whose V is 0 at either stage, and the statement. -/

namespace Sys2Proof.Machine

/-! ## The fault a walk ends with (R34, R35) -/

/-- A walk that no stage-1 leaf has refused ends with the fault it fails with. -/
theorem Walk.fail_result_of_unrefused {w : Walk} (h : w.refused = none) (kind stage level : Nat) :
    (w.fail kind stage level).result = some (.inr
      { kind, stage, level, gpa := if stage = 2 then w.gpa else 0, tbl := stage == 2 && w.s1 != 4, atype := w.at', trap := none }) := by
  unfold Walk.fail
  rw [h]

/-- A walk that a stage-1 leaf has refused ends with that leaf's access fault, whatever it fails with later. -/
theorem Walk.fail_result_of_refused {w : Walk} {l : Leaf} (h : w.refused = some l) (kind stage level : Nat) :
    (w.fail kind stage level).result = some (.inr
      { kind := 1, stage := 1, level := l.level, gpa := 0, tbl := false, atype := w.at', trap := none }) := by
  unfold Walk.fail
  rw [h]

/-! ## Entries whose V is 0 (R27, R28) -/

theorem eV_eq_false_iff (e : Nat) : eV e = false ↔ e % 2 = 0 := by
  simp [eV, bitOf]

/-- V is judged before any other bit of a stage-1 entry. -/
theorem Walk.judge1_of_invalid (s : State) (p level : Nat) {addr e : Nat} (w : Walk) (hbm : inHbm addr = true) (hv : eV e = false) :
    w.judge1 s p level addr e = w.fail 0 1 level := by
  simp [Walk.judge1, hbm, hv]

/-- V is judged before any other bit of a stage-2 entry. -/
theorem Walk.judge2_of_invalid (s : State) (level : Nat) {addr e : Nat} (w : Walk) (hbm : inHbm addr = true) (hv : eV e = false) :
    w.judge2 s level addr e = w.fail 0 2 level := by
  simp [Walk.judge2, hbm, hv]

/-- Settles O49: at either stage the judgement fails the walk with a translation fault, and a leaf that refused the access before
comes first. -/
theorem invalidEntries : Obligations.InvalidEntries := by
  unfold Obligations.InvalidEntries
  intro s p level addr e w hbm he
  have hv : eV e = false := (eV_eq_false_iff e).mpr he
  rw [Walk.judge1_of_invalid s p level w hbm hv, Walk.judge2_of_invalid s level w hbm hv]
  constructor
  · intro h
    exact ⟨Walk.fail_result_of_unrefused h 0 1 level, Walk.fail_result_of_unrefused h 0 2 level⟩
  · intro l h
    exact ⟨Walk.fail_result_of_refused h 0 1 level, Walk.fail_result_of_refused h 0 2 level⟩

end Sys2Proof.Machine
end

section
/-! Bank modes (R62-R66): the two bits of each bank in a mode word, what one bank's judgement and one change of mode leave alone, and
that a bank whose FIFO is owned stays in FIFO mode. -/

namespace Sys2Proof.Machine

/-! ## Fields of a word, bit by bit -/

theorem bitOf_eq_testBit (n i : Nat) : bitOf n i = n.testBit i := by
  rw [Nat.testBit_eq_decide_div_mod_eq]
  rfl

theorem testBit_bitsOf (n lo len i : Nat) : (bitsOf n lo len).testBit i = (decide (i < len) && n.testBit (i + lo)) := by
  rw [bitsOf, Nat.testBit_mod_two_pow, Nat.testBit_div_two_pow]

/-- The parts of a word with a field replaced: the bits above the field, the field, the bits below it. -/
theorem setBits_eq (n lo len v : Nat) :
    setBits n lo len v = 2 ^ lo * (2 ^ len * (n / 2 ^ lo / 2 ^ len) + v % 2 ^ len) + n % 2 ^ lo := by
  have hlow := Nat.div_add_mod n (2 ^ lo)
  have hhigh := congrArg (2 ^ lo * ·) (Nat.div_add_mod (n / 2 ^ lo) (2 ^ len))
  simp only [Nat.mul_add] at hhigh
  rw [setBits, bitsOf, Nat.mul_comm _ (2 ^ lo), Nat.mul_comm _ (2 ^ lo), Nat.mul_add]
  omega

theorem testBit_setBits (n lo len v i : Nat) :
    (setBits n lo len v).testBit i = if lo ≤ i ∧ i < lo + len then v.testBit (i - lo) else n.testBit i := by
  rw [setBits_eq, Nat.testBit_two_pow_mul_add _ (Nat.mod_lt _ (Nat.two_pow_pos _)),
    Nat.testBit_two_pow_mul_add _ (Nat.mod_lt _ (Nat.two_pow_pos _))]
  rcases Nat.lt_or_ge i lo with hbelow | hlo
  · rw [if_pos hbelow, if_neg (by omega), Nat.testBit_mod_two_pow, decide_eq_true hbelow, Bool.true_and]
  · rw [if_neg (by omega)]
    rcases Nat.lt_or_ge (i - lo) len with hin | habove
    · rw [if_pos hin, if_pos (by omega), Nat.testBit_mod_two_pow, decide_eq_true hin, Bool.true_and]
    · rw [if_neg (by omega), if_neg (by omega), Nat.testBit_div_two_pow, Nat.testBit_div_two_pow]
      congr 1
      omega

/-! ## The mode of one bank in a mode word (R62) -/

theorem Cluster.mode_eq_modeAt (k : Cluster) (b : Nat) : k.mode b = modeAt k.bankCur.toNat b := rfl

/-- A change of one bank's field leaves the field of every other bank. -/
theorem modeAt_setBits_of_ne (n m : Nat) {b x : Nat} (h : x ≠ b) : modeAt (setBits n (2 * x) 2 m) b = modeAt n b := by
  refine Nat.eq_of_testBit_eq fun i => ?_
  simp only [modeAt, testBit_bitsOf, testBit_setBits]
  by_cases hi : i < 2
  · rw [if_neg (by omega)]
  · simp [hi]

/-- The fields of the 32 banks lie within 64 bits. -/
theorem modeAt_ofNat (n : Nat) {b : Nat} (hb : b < 32) : modeAt (BitVec.ofNat 64 n).toNat b = modeAt n b := by
  refine Nat.eq_of_testBit_eq fun i => ?_
  simp only [modeAt, testBit_bitsOf, BitVec.toNat_ofNat, Nat.testBit_mod_two_pow]
  by_cases hi : i < 2
  · rw [decide_eq_true (show i + 2 * b < 64 by omega), Bool.true_and]
  · simp [hi]

/-! ## The judgement of the banks (R63, R65, R66) -/

/-- Bank `x` is in FIFO mode in the order judged so far and its FIFO is owned (R66, R73). -/
def Cluster.ownsFifo (k : Cluster) (j : BankJudged) (x : Nat) : Bool :=
  modeAt j.modes x == 2 && (k.fifos.getD x ⟨none, 0, 0⟩).owner.isSome

/-- The judgement of one bank: no change is asked for, or the change is refused, or it is accepted and then the bank is not one
with an owned FIFO. -/
theorem Cluster.judgeBank_cases (k : Cluster) (req : Nat) (j : BankJudged) (x : Nat) :
    (modeAt j.modes x = modeAt req x ∧ k.judgeBank req j x = j) ∨
    (∃ covered, k.judgeBank req j x =
      { j with refmask := j.refmask ||| 2 ^ x, covered, busy := j.busy || k.ownsFifo j x }) ∨
    (k.ownsFifo j x = false ∧ k.judgeBank req j x = { j with modes := setBits j.modes (2 * x) 2 (modeAt req x) }) := by
  unfold Cluster.judgeBank Cluster.ownsFifo
  by_cases hsame : modeAt j.modes x = modeAt req x
  · exact .inl ⟨hsame, if_pos hsame⟩
  · right
    simp only [if_neg hsame]
    split
    · exact .inl ⟨_, rfl⟩
    · rename_i hok
      exact .inr ⟨by simpa using (not_or.mp hok).2, rfl⟩

/-- The judgement has refused to take bank `b` away from FIFO mode: the bank keeps the mode, FIFO_BUSY and its bit of REFMASK are set. -/
def BankJudged.RefusedFifo (j : BankJudged) (b : Nat) : Prop :=
  modeAt j.modes b = 2 ∧ j.busy = true ∧ bitOf j.refmask b = true

section
variable {k : Cluster} {req b : Nat} (hfifo : (k.fifos.getD b ⟨none, 0, 0⟩).owner.isSome = true)
include hfifo

/-- No bank's judgement takes a bank with an owned FIFO out of FIFO mode. -/
theorem Cluster.judgeBank_keeps_fifoMode {j : BankJudged} (x : Nat) (hmode : modeAt j.modes b = 2) :
    modeAt (k.judgeBank req j x).modes b = 2 := by
  obtain ⟨-, hj⟩ | ⟨_, hj⟩ | ⟨hfree, hj⟩ := k.judgeBank_cases req j x <;> rw [hj]
  · exact hmode
  · exact hmode
  · have hx : x ≠ b := by
      rintro rfl
      simp [Cluster.ownsFifo, hmode, hfifo] at hfree
    rw [modeAt_setBits_of_ne _ _ hx, hmode]

/-- R66 in the judgement of the bank itself. -/
theorem Cluster.judgeBank_refuses {j : BankJudged} (hmode : modeAt j.modes b = 2) (hreq : modeAt req b ≠ 2) :
    (k.judgeBank req j b).RefusedFifo b := by
  have hown : k.ownsFifo j b = true := by simp [Cluster.ownsFifo, hmode, hfifo]
  obtain ⟨hsame, -⟩ | ⟨_, hj⟩ | ⟨hfree, -⟩ := k.judgeBank_cases req j b
  · exact absurd (hsame.symm.trans hmode) hreq
  · rw [hj]
    exact ⟨hmode, by simp [hown], by simp [bitOf_eq_testBit]⟩
  · rw [hown] at hfree
    cases hfree

/-- A refusal stands, whichever bank is judged after it. -/
theorem Cluster.judgeBank_keeps_refusal {j : BankJudged} (x : Nat) (hj : j.RefusedFifo b) :
    (k.judgeBank req j x).RefusedFifo b := by
  obtain ⟨hmode, hbusy, hmask⟩ := hj
  refine ⟨Cluster.judgeBank_keeps_fifoMode hfifo x hmode, ?_⟩
  obtain ⟨-, hj⟩ | ⟨_, hj⟩ | ⟨-, hj⟩ := k.judgeBank_cases req j x <;> rw [hj]
  · exact ⟨hbusy, hmask⟩
  · rw [bitOf_eq_testBit] at hmask ⊢
    simp [hbusy, hmask]
  · exact ⟨hbusy, hmask⟩

/-- Whatever other banks are judged before and after it, the bank is refused. -/
theorem Cluster.foldl_judgeBank_refuses (hreq : modeAt req b ≠ 2) :
    ∀ (l : List Nat) (j : BankJudged), b ∈ l → modeAt j.modes b = 2 → (l.foldl (k.judgeBank req) j).RefusedFifo b
  | x :: l, j, hmem, hmode => by
    rw [List.foldl_cons]
    by_cases hx : b = x
    · subst hx
      exact List.foldlRecOn (motive := (BankJudged.RefusedFifo · b)) l _ (Cluster.judgeBank_refuses hfifo hmode hreq)
        fun _ h y _ => Cluster.judgeBank_keeps_refusal hfifo y h
    · exact Cluster.foldl_judgeBank_refuses hreq l _ ((List.mem_cons.mp hmem).resolve_left hx)
        (Cluster.judgeBank_keeps_fifoMode hfifo x hmode)

end

/-! ## The changes of mode that are made at once (R63, R64) -/

/-- A removal leaves a listed key, in a map of any order. -/
theorem FMap.find?_del_of_find? {α : Type} {n i : Nat} {v : α} (hne : i ≠ n) :
    ∀ {m : FMap α}, m.find? n = some v → (m.del i).find? n = some v
  | (a, w) :: m, h => by
    rcases Nat.lt_trichotomy a n with hbelow | rfl | habove
    · have hm : FMap.find? m n = some v := by rwa [FMap.find?, if_neg (by omega), if_neg (by omega)] at h
      rw [FMap.del]
      split
      · exact hm
      · split
        · exact h
        · rw [FMap.find?, if_neg (by omega), if_neg (by omega)]
          exact FMap.find?_del_of_find? hne hm
    · rw [FMap.find?, if_pos rfl] at h
      rw [FMap.del, if_neg (Ne.symm hne)]
      split <;> rw [FMap.find?, if_pos rfl, h]
    · rw [FMap.find?, if_neg (by omega), if_pos habove] at h
      cases h

/-- Bank `b` is in FIFO mode with register `r` after a change that was refused for it. -/
def Cluster.KeepsFifo (k : Cluster) (b : Nat) (r : FifoReg) : Prop :=
  k.mode b = 2 ∧ k.fifoBusy = true ∧ bitOf k.refmask b = true ∧ k.fifos.find? b = some r

/-- The new mode of another bank leaves the bank and its FIFO. -/
theorem Cluster.KeepsFifo.setBank {k : Cluster} {b : Nat} {r : FifoReg} (hk : k.KeepsFifo b r) (hb : b < 32) {x : Nat} (hx : x ≠ b)
    (m : Nat) : (k.setBank x m).KeepsFifo b r := by
  obtain ⟨hmode, hbusy, hmask, hreg⟩ := hk
  refine ⟨?_, hbusy, hmask, FMap.find?_del_of_find? hx hreg⟩
  calc (k.setBank x m).mode b
    _ = modeAt (setBits k.bankCur.toNat (2 * x) 2 m) b := modeAt_ofNat _ hb
    _ = k.mode b := modeAt_setBits_of_ne _ _ hx
    _ = 2 := hmode

/-- The end of a change writes CODE alone. -/
theorem Cluster.settleBanks_keepsFifo_iff (k : Cluster) (b : Nat) (r : FifoReg) : k.settleBanks.KeepsFifo b r ↔ k.KeepsFifo b r := by
  unfold Cluster.settleBanks
  split <;> rfl

/-- R66 for a whole request: the bank is refused, so it is not among the banks that change. -/
theorem Cluster.requestBanks_keepsFifo {k : Cluster} {b : Nat} {r : FifoReg} (v : BitVec 64) (hb : b < 32) (hcode : k.bmCode ≠ 1)
    (hmode : k.mode b = 2) (hreq : modeAt v.toNat b ≠ 2) (hreg : k.fifos.find? b = some r) (hown : r.owner.isSome = true) :
    (k.requestBanks v).KeepsFifo b r := by
  have hfifo : (k.fifos.getD b ⟨none, 0, 0⟩).owner.isSome = true := by rw [FMap.getD, hreg]; exact hown
  obtain ⟨hkept, hbusy, hmask⟩ := Cluster.foldl_judgeBank_refuses hfifo hreq (List.range 32) ⟨k.bankCur.toNat, 0, false, false⟩
    (List.mem_range.mpr hb) hmode
  rw [Cluster.requestBanks, if_neg hcode, Cluster.settleBanks_keepsFifo_iff]
  refine List.foldlRecOn (motive := (Cluster.KeepsFifo · b r)) _ _ ⟨hmode, hbusy, hmask, hreg⟩ ?_
  intro k' hk' x hx
  refine hk'.setBank hb ?_ _
  rintro rfl
  simp [hkept, hmode] at hx

/-! ## The event BANKMODE_REQ -/

/-- Of the physical function, and of the function that holds the partition, a request reaches the cluster. -/
theorem exec_bankmodeReq_of_reaches {f c : Nat} {s : State} (v : BitVec 64) (hopen : s.shut f = false)
    (hheld : f = 128 ∨ s.holder (partOf c) = some f) :
    exec (.bankmodeReq f c v) s = .next (s.updCluster c (·.requestBanks v)) := by
  have hpass : ¬(s.shut f = true ∨ (f ≠ 128 ∧ s.holder (partOf c) ≠ some f)) := by
    rintro (hshut | ⟨hvf, hother⟩)
    · rw [hopen] at hshut
      cases hshut
    · exact hheld.elim hvf hother
  rw [exec_bankmodeReq, execBankmodeReq, if_neg hpass]

/-- Settles O50: the judgement refuses the bank, and no change of another bank touches it. -/
theorem fifoBanks : Obligations.FifoBanks := by
  unfold Obligations.FifoBanks
  intro s f c b v hb hopen hheld hcode hmode hreq hown
  obtain ⟨r, hreg⟩ : ∃ r, (s.cluster c).fifos.find? b = some r := by
    cases hfind : (s.cluster c).fifos.find? b with
    | none => simp [FMap.getD, hfind] at hown
    | some r => exact ⟨r, rfl⟩
  have hr : r.owner.isSome = true := by simpa [FMap.getD, hreg] using hown
  obtain ⟨hmode', hbusy, hmask, hreg'⟩ := Cluster.requestBanks_keepsFifo v hb hcode hmode hreq hreg hr
  refine ⟨_, exec_bankmodeReq_of_reaches v hopen hheld, ?_⟩
  simp only [State.updCluster_cluster_self]
  exact ⟨hmode', hbusy, hmask, hreg'.trans hreg.symm⟩

end Sys2Proof.Machine
end

section
/-! Integer instructions with typed results (R259, R262, R264): what an instruction of each of the model's forms writes, and that a
wrapped result keeps the exact integer modulo 2^w alone. -/

namespace Sys2Proof.Machine

/-! ## The forms of the integer instructions -/

/-- An integer effect's result in each active lane is what VD holds after it. -/
theorem laneRegs_of_intEff {i : Fields → Instr} {n k : Fields → Nat} {res : Fields → Ctxt → Nat → Nat} {v : Ctxt → Nat → Nat}
    (he : ∀ f s, exec (i f) s = issueWith (i f) f s fun c s => intEff c s (n f) (k f) (res f c))
    (hv : ∀ c l, res c.f c l = v c l) : LaneRegs i n v := by
  intro f s q g hready
  have hres : res f (ctxtOf q g f) = v (ctxtOf q g f) := funext (hv (ctxtOf q g f))
  rw [← hres]
  exact performs_int hready (he f s) (n f) (k f) (res f (ctxtOf q g f)) rfl

/-- Two typed sources to an exact integer. -/
theorem intOp_of_int2 {i : Fields → Instr} {sat : Fields → Bool} {k : Nat} {op : Int → Int → Int} {v : Ctxt → Nat → Int}
    (he : ∀ f s, exec (i f) s = int2 (i f) f s k (sat f) op) (hv : ∀ c l, op (c.ia l) (c.ib l) = v c l) : IntOp i sat v :=
  laneRegs_of_intEff he fun c l => congrArg (tyFit (tyOf c.f) (sat c.f)) (hv c l)

/-- The code of an integer depends on it modulo 2^w alone. -/
theorem code_congr {w : Nat} {u v : Int} (h : u % (2 ^ w : Nat) = v % (2 ^ w : Nat)) : code w u = code w v :=
  congrArg Int.toNat h

theorem code_emod (w : Nat) (v : Int) : (code w v : Int) % (2 ^ w : Nat) = v % (2 ^ w : Nat) := by
  have hpos := Nat.two_pow_pos w
  rw [code, Int.toNat_of_nonneg (Int.emod_nonneg v (by omega)), Int.emod_emod]

theorem natCast_emod_congr {m n k : Nat} (h : m % k = n % k) : (m : Int) % k = n % k := by
  rw [← Int.natCast_emod, h, Int.natCast_emod]

/-- What a register holds of a result depends on the integer modulo 2^w alone. -/
theorem tyPlace_congr {t : Nat} {u v : Int} (h : u % (2 ^ tyWidth t : Nat) = v % (2 ^ tyWidth t : Nat)) : tyPlace t u = tyPlace t v := by
  simp only [tyPlace, code_congr h]

section
variable {i : Fields → Instr} {v : Ctxt → Nat → Int}

/-- A bitwise instruction of two sources. -/
theorem intOp_of_bits2 {op : Nat → Nat → Nat → Nat} (he : ∀ f s, exec (i f) s = bits2 (i f) f s op)
    (hv : ∀ c l, (op (tyWidth (tyOf c.f)) (c.ua l) (c.ub l) : Int) % (2 ^ tyWidth (tyOf c.f) : Nat) =
      v c l % (2 ^ tyWidth (tyOf c.f) : Nat)) : IntOp i wraps v :=
  laneRegs_of_intEff he fun c l => tyPlace_congr (hv c l)

/-- A bitwise instruction of one source. -/
theorem intOp_of_bits1 {op : Nat → Nat → Nat} (he : ∀ f s, exec (i f) s = bits1 (i f) f s op)
    (hv : ∀ c l, (op (tyWidth (tyOf c.f)) (c.ua l) : Int) % (2 ^ tyWidth (tyOf c.f) : Nat) =
      v c l % (2 ^ tyWidth (tyOf c.f) : Nat)) : IntOp i wraps v :=
  laneRegs_of_intEff he fun c l => tyPlace_congr (hv c l)

/-- A shift or rotation, whose amount is one register whatever the type (R264). -/
theorem intOp_of_shiftOp {op : Nat → Nat → Nat → Nat} (he : ∀ f s, exec (i f) s = shiftOp (i f) f s op)
    (hv : ∀ c l, (op (tyWidth (tyOf c.f)) (c.ua l) (c.b 1 l) : Int) % (2 ^ tyWidth (tyOf c.f) : Nat) =
      v c l % (2 ^ tyWidth (tyOf c.f) : Nat)) : IntOp i wraps v :=
  laneRegs_of_intEff he fun c l => tyPlace_congr (hv c l)

end

end Sys2Proof.Machine
end

section
/-! Integer division (R269). -/

namespace Sys2Proof.Machine

theorem remVal_eq (a b : Int) : remVal a b = if b = 0 then a else a - b * a.tdiv b := by
  rw [remVal, Int.tmod_def]

/-- Settles O2: the quotient is the library's truncated one, and the remainder is what it leaves of the dividend. -/
theorem integerDivision : Obligations.IntegerDivision := by
  unfold Obligations.IntegerDivision
  constructor
  · exact intOp_of_int2 exec_div fun _ _ => rfl
  · exact intOp_of_int2 exec_rem fun c l => remVal_eq (c.ia l) (c.ib l)

end Sys2Proof.Machine
end

section
/-! Bit operations (R264-R266): each operation of the model against the arithmetic that the statement gives it, modulo 2^w. -/

namespace Sys2Proof.Machine

theorem tyWidth_pos (t : Nat) : 0 < tyWidth t := by
  unfold tyWidth
  split <;> decide

theorem Ctxt.ua_lt (c : Ctxt) (l : Nat) : c.ua l < 2 ^ tyWidth (tyOf c.f) := Nat.mod_lt _ (Nat.two_pow_pos _)

theorem Ctxt.ub_lt (c : Ctxt) (l : Nat) : c.ub l < 2 ^ tyWidth (tyOf c.f) := Nat.mod_lt _ (Nat.two_pow_pos _)

theorem notBits_of_lt {w a : Nat} (h : a < 2 ^ w) : notBits w a = 2 ^ w - 1 - a := by
  rw [notBits, Nat.mod_eq_of_lt h]

/-! ## Shifts -/

/-- A left shift by w or more leaves only bits above the width. -/
theorem shl_mod (w a k : Nat) : (if w ≤ k then 0 else a * 2 ^ k) % 2 ^ w = a * 2 ^ k % 2 ^ w := by
  split
  next hk => rw [Nat.zero_mod, Nat.mod_eq_zero_of_dvd (Nat.dvd_mul_left_of_dvd (Nat.pow_dvd_pow 2 hk) a)]
  next => rfl

/-- A right shift by w or more leaves nothing of a w-bit code. -/
theorem shr_eq {w a : Nat} (ha : a < 2 ^ w) (k : Nat) : (if w ≤ k then 0 else a / 2 ^ k) = a / 2 ^ k := by
  split
  next hk => exact (Nat.div_eq_of_lt (Nat.lt_of_lt_of_le ha (Nat.pow_le_pow_right (by decide) hk))).symm
  next => rfl

theorem sgn_lt (w n : Nat) : sgn w n < (2 ^ w : Nat) := by
  have := Nat.mod_lt n (Nat.two_pow_pos w)
  unfold sgn
  dsimp only
  split <;> omega

theorem neg_le_sgn (w n : Nat) : -((2 ^ w : Nat) : Int) ≤ sgn w n := by
  unfold sgn
  dsimp only
  split <;> omega

/-- A signed value shifted right by w or more is its sign: no bit but copies of the highest is left. -/
theorem sgn_ediv_of_le {w k : Nat} (a : Nat) (hk : w ≤ k) : sgn w a / (2 ^ k : Nat) = if sgn w a < 0 then -1 else 0 := by
  have hpow : 2 ^ w ≤ 2 ^ k := Nat.pow_le_pow_right (by decide) hk
  have hlt := sgn_lt w a
  have hge := neg_le_sgn w a
  split
  next hneg => exact Int.ediv_eq_neg_one_of_neg_of_le hneg (by omega)
  next hpos => exact Int.ediv_eq_zero_of_lt (by omega) (by omega)

/-- R264: the arithmetic shift by at most w is the floor of the quotient by any power of two. -/
theorem sarBits_emod (w a k : Nat) :
    (sarBits w a k : Int) % (2 ^ w : Nat) = sgn w a / (2 ^ k : Nat) % (2 ^ w : Nat) := by
  have hmin : sgn w a / (2 ^ min k w : Nat) = sgn w a / (2 ^ k : Nat) := by
    rcases Nat.le_total k w with hk | hk
    · rw [Nat.min_eq_left hk]
    · rw [Nat.min_eq_right hk, sgn_ediv_of_le a (Nat.le_refl w), sgn_ediv_of_le a hk]
  rw [← hmin]
  exact code_emod w _

/-! ## Rotations -/

/-- The bits that a left rotation moves out of the width come in below. -/
theorem rotBits_mod (w a k : Nat) : rotBits w a k % 2 ^ w = (a * 2 ^ (k % w) + a / 2 ^ (w - k % w)) % 2 ^ w :=
  Nat.mod_add_mod _ _ _

/-- The right rotation, a left rotation by the rest of the width. -/
theorem rotBits_sub_mod {w a : Nat} (hw : 0 < w) (ha : a < 2 ^ w) (k : Nat) :
    rotBits w a (w - k % w) % 2 ^ w = (a / 2 ^ (k % w) + a * 2 ^ (w - k % w)) % 2 ^ w := by
  have hk : k % w < w := Nat.mod_lt k hw
  rcases Nat.eq_zero_or_pos (k % w) with hzero | hpos
  · have hfull := rotBits_mod w a w
    rw [Nat.mod_self, Nat.sub_zero, Nat.div_eq_of_lt ha, Nat.pow_zero, Nat.mul_one, Nat.add_zero] at hfull
    rw [hzero, Nat.sub_zero, hfull, Nat.pow_zero, Nat.div_one, Nat.add_mul_mod_self_right]
  · have hrest : (w - k % w) % w = w - k % w := Nat.mod_eq_of_lt (by omega)
    have h := rotBits_mod w a (w - k % w)
    rwa [hrest, Nat.sub_sub_self (Nat.le_of_lt hk), Nat.add_comm] at h

/-! ## The statement -/

/-- Settles O4: each operation of the model agrees with the statement's modulo 2^w, which is all that a wrapped result keeps; the
funnel shift and `lop3` are the statement's own. -/
theorem bitOperations : Obligations.BitOperations := by
  unfold Obligations.BitOperations
  refine ⟨?and, ?or, ?xor, ?andn, ?not, ?shl, ?shr, ?sar, ?rotl, ?rotr, ?shf, ?lop3⟩
  case and => exact intOp_of_bits2 exec_and fun _ _ => rfl
  case or => exact intOp_of_bits2 exec_or fun _ _ => rfl
  case xor => exact intOp_of_bits2 exec_xor fun _ _ => rfl
  case andn => exact intOp_of_bits2 exec_andn fun c l => by rw [notBits_of_lt (c.ub_lt l)]
  case not => exact intOp_of_bits1 exec_not fun c l => by rw [notBits_of_lt (c.ua_lt l)]
  case shl => exact intOp_of_shiftOp exec_shl fun c l => natCast_emod_congr (shl_mod _ (c.ua l) (c.b 1 l))
  case shr => exact intOp_of_shiftOp exec_shr fun c l => by rw [shr_eq (c.ua_lt l)]
  case sar => exact intOp_of_shiftOp exec_sar fun c l => sarBits_emod _ (c.ua l) (c.b 1 l)
  case rotl => exact intOp_of_shiftOp exec_rotl fun c l => natCast_emod_congr (rotBits_mod _ (c.ua l) (c.b 1 l))
  case rotr =>
    exact intOp_of_shiftOp exec_rotr fun c l => natCast_emod_congr (rotBits_sub_mod (tyWidth_pos _) (c.ua_lt l) (c.b 1 l))
  case shf => exact laneRegs_of_intEff exec_shf fun _ _ => rfl
  case lop3 => exact laneRegs_of_intEff exec_lop3 fun _ _ => rfl

end Sys2Proof.Machine
end

section
/-! `trap` and `brk` (R390, R391): an effect that ends in a trap stops the issuing gang with a record, behind the instruction or on it,
and an effect of active lanes alone is none without them. -/

namespace Sys2Proof.Machine

/-! ## What a trap sees of a gang -/

/-- A lane that has no thread is still absent in the stripped gang. -/
theorem Gang.strip_thread (g : Gang) (l : Nat) : g.strip.thread l = (g.thread l).still := by
  simp only [Gang.thread, Gang.strip_threads, List.getD_eq_getElem?_getD, List.getElem?_map]
  cases g.threads[l]? with
  | none => rfl
  | some t => rfl

theorem Gang.pcOf_eq_of_strip_eq {a b : Gang} (h : a.strip = b.strip) (ls : List Nat) : a.pcOf ls = b.pcOf ls := by
  have hthread : (a.thread (ls.headD 0)).still = (b.thread (ls.headD 0)).still := by
    rw [← Gang.strip_thread, ← Gang.strip_thread, h]
  exact (congrArg Thread.pc hthread :)

theorem Gang.ctx_eq_of_strip_eq {a b : Gang} (h : a.strip = b.strip) : a.ctx = b.ctx :=
  (congrArg Gang.ctx h :)

theorem Issue.gangSlot_of_not_scalar {q : Issue} (h : q.scalar = false) : q.gangSlot = q.slot := by
  simp [Issue.gangSlot, h]

/-- The issuing gang after a change of it. -/
theorem Acts.exists_gang {q : Issue} {k : Gang → Gang} {s t : State} {g : Gang} (a : Acts q k s t) (h : s.issGang? q = some g) :
    ∃ g', t.issGang? q = some g' ∧ g'.strip = (k g).strip :=
  Option.map_eq_some_iff.mp (a.gang g (by rw [h]; rfl))

/-- The tolls and the book-keeping of an issue, after an effect that acts on the issuing gang by `k`. -/
theorem Acts.chargedIssue {q : Issue} {k : Gang → Gang} {s s1 : State} (a : Acts q k s s1) (c : Ctxt) (len : Nat)
    (ts : List (Nat × DWord)) :
    Acts q (fun g => (k g).issued q len ts) s ((chargeIssue s1 c).updIss q (·.issued q len ts)) :=
  (a.trans (chargeIssue_kept s1 c).acts).trans (State.updIss_acts _ q (·.issued q len ts) (Gang.issued_strip q len ts))

/-! ## Effects that end in a trap -/

theorem finishIssue_after {c : Ctxt} {len : Nat} {s : State} {g : Gang} (r : TrapRec) (s0 : State)
    (h : ((chargeIssue s c).updIss c.q (·.issued c.q len [])).issGang? c.q = some g) :
    finishIssue c len (.after s r) s0 = trapIssue ((chargeIssue s c).updIss c.q (·.issued c.q len [])) c.q
      { r with pc := g.pcOf c.q.lanes, iaddr := c.q.addr, actmask := maskOf c.act } := by
  simp only [finishIssue, h]

section
variable {i : Instr} {f : Fields} {s s1 : State} {q : Issue} {g : Gang} {k : Gang → Gang} {r : TrapRec} {P : TrapRec → Prop}
  {body : Ctxt → State → Eff}

/-- An issue that ends by a trap, after the issuing gang alone has changed by `k`, stops that gang with the record. -/
theorem stopsWith_of_trapIssue (hscalar : q.scalar = false) (hslot : q.slot ≠ handlerSlot) (hg : s.issGang? q = some g)
    (ha : Acts q k s.idle s1) (he : exec i s = .next (trapIssue s1 q r)) (haddr : r.iaddr = q.addr)
    (hP : ∀ g' st, P (r.completed q.cl q.gangSlot g' st)) : StopsWith i s q (k g) P := by
  have hgs : q.gangSlot = q.slot := Issue.gangSlot_of_not_scalar hscalar
  obtain ⟨g1, hg1, hstrip⟩ := ha.exists_gang hg
  obtain ⟨hmem, hgang, hrecords⟩ := trapGang_spec s1 q.cl q.gangSlot r g1 (hgs ▸ hslot) hg1
  refine ⟨_, r.completed q.cl q.gangSlot g1 s1.take.1, he, hmem.trans ha.same.mem, ?gang, ?records, hgs, rfl, ?ctx, haddr, hP g1 s1.take.1⟩
  case gang => exact hgang.trans (by rw [hstrip])
  case records => exact hrecords.trans (congrArg (· ++ _) (ha.same.records q.cl))
  case ctx => exact congrArg (· % 4096) (Gang.ctx_eq_of_strip_eq hstrip)

/-- An effect that ends behind the instruction: the record's PC is that of the issuing threads once they have moved on. -/
theorem stopsWith_of_after (hscalar : q.scalar = false) (hslot : q.slot ≠ handlerSlot) (h : Ready i f s q g)
    (he : exec i s = issueWith i f s body) (hb : body (ctxtOf q g f) s.idle = .after s1 r) (ha : Acts q k s.idle s1)
    (hP : ∀ g' st, P (TrapRec.completed { r with
      pc := ((k g).issued q (encode i).length []).pcOf q.lanes, iaddr := q.addr, actmask := maskOf (ctxtOf q g f).act }
      q.cl q.gangSlot g' st)) :
    StopsWith i s q ((k g).issued q (encode i).length []) P := by
  have hissued := ha.chargedIssue (ctxtOf q g f) (encode i).length []
  obtain ⟨g2, hg2, hstrip⟩ := hissued.exists_gang h.gang
  have hexec := he.trans (issueWith_ready h body)
  rw [hb, finishIssue_after r _ hg2, Gang.pcOf_eq_of_strip_eq hstrip] at hexec
  exact stopsWith_of_trapIssue hscalar hslot h.gang hissued hexec rfl hP

/-- An effect that ends on the instruction: no thread moves on. -/
theorem stopsWith_of_on (hscalar : q.scalar = false) (hslot : q.slot ≠ handlerSlot) (h : Ready i f s q g)
    (he : exec i s = issueWith i f s body) (hb : body (ctxtOf q g f) s.idle = .on s1 r) (ha : Acts q k s.idle s1)
    (hP : ∀ g' st, P (TrapRec.completed { r with pc := q.addr, iaddr := q.addr, actmask := maskOf (ctxtOf q g f).act }
      q.cl q.gangSlot g' st)) :
    StopsWith i s q (k g) P := by
  have hexec := he.trans (issueWith_ready h body)
  rw [hb] at hexec
  exact stopsWith_of_trapIssue hscalar hslot h.gang (ha.trans (chargeIssue_kept s1 (ctxtOf q g f)).acts) hexec rfl hP

end

/-! ## Effects of active lanes alone (R390) -/

theorem once_of_act_nil {c : Ctxt} (h : c.act = []) (s : State) (e : Eff) : once c s e = .go s [] := if_pos h

theorem once_of_act_ne_nil {c : Ctxt} (h : c.act ≠ []) (s : State) (e : Eff) : once c s e = e := if_neg h

/-- An instruction whose effect happens once per issue does nothing without an active lane. -/
theorem performs_once_of_act_nil {i : Instr} {f : Fields} {s : State} {q : Issue} {g : Gang} {e : Ctxt → State → Eff}
    (h : Ready i f s q g) (he : exec i s = issueWith i f s fun c s => once c s (e c s)) (hact : (ctxtOf q g f).act = []) :
    Performs i s q g [] :=
  performs_of (s1 := s.idle) h he (once_of_act_nil hact s.idle _) h.gang (State.Kept.acts (.refl s.idle))

/-! ## The statement -/

/-- Settles O20: `trap` ends behind the instruction and `brk` on it, each with its record; without an active lane the effect is none. -/
theorem userTraps : Obligations.UserTraps := by
  unfold Obligations.UserTraps
  intro f s q g hscalar hslot
  have hidle : Acts q (fun g => g) s.idle s.idle := State.Kept.acts (.refl s.idle)
  refine ⟨?trap, ?brk, ?trapNone, ?brkNone⟩
  case trap =>
    intro h hact
    exact stopsWith_of_after hscalar hslot h (exec_trap f s) (once_of_act_ne_nil hact _ _) hidle
      fun _ _ => ⟨rfl, rfl, rfl, rfl, rfl⟩
  case brk =>
    intro h hact
    exact stopsWith_of_on hscalar hslot h (exec_brk f s) (once_of_act_ne_nil hact _ _) hidle fun _ _ => ⟨rfl, rfl, rfl, rfl⟩
  case trapNone => exact fun h hact => performs_once_of_act_nil h (exec_trap f s) hact
  case brkNone => exact fun h hact => performs_once_of_act_nil h (exec_brk f s) hact

end Sys2Proof.Machine
end
